-- ==== Sys2Proof/Word.lean ====
section
/-! DEFINITION. The words and index types of the Larjo LJX418: bytes, wire fields, agents, cells, descriptors. -/

namespace Sys2Proof

/-- One byte of the wire or of a cell. -/
abbrev Byte := BitVec 8

/-- A two-byte wire field: a tag, a length, an epoch, a check word. -/
abbrev Half := BitVec 16

/-- A four-byte field: a correlation word, the tick counter. -/
abbrev Word := BitVec 32

/-- An agent and its port (3.1 of 00_scope: numbered 0 to 3). -/
abbrev Agent := Fin 4

/-- A cell index (R1: 0 to 383). -/
abbrev CellId := Fin 384

/-- A descriptor number (section 2.1 of 02: 0 to 127). -/
abbrev DescId := Fin 128

/-- The four agents, lowest number first. -/
def agents : List Agent := [0, 1, 2, 3]

end Sys2Proof
end

