-- ==== Sys2Proof/Config.lean ====
section
/-! DEFINITION. The constants the manual fixes, and the free values: what the manual leaves open. -/

namespace Sys2Proof.Config

/-- t_SCRUB: REFCLK periods of one clear (R97). -/
def scrubPeriods : Nat := 32

/-- S_CELL: bytes of one cell (R1). -/
def cellBytes : Nat := 32

/-- N_CELL: cells of the store (R1). -/
def cellCount : Nat := 384

/-- N_OPEN: records a notice queue takes before OVERRUN is formed (R144). -/
def openRecords : Nat := 15

/-- The saturation of an OVERRUN count (R144, R151). -/
def overrunMax : Nat := 255

/-- The saturation of a discard count (R41, R140). -/
def discardMax : Nat := 65535

/-- The vendor code of IDENT (R186). -/
def vendorCode : Byte := 0xC4

/-- The part code of IDENT (R186). -/
def partCode : Half := 0x4118

/-- The revision of IDENT (R186). -/
def revision : Byte := 0x01

/-- The turnaround byte (R179). -/
def turnaround : Byte := 0x5A

/-- The check polynomial (R61). -/
def checkPoly : Half := 0x1021

/-- The initial value of the check register (R61). -/
def checkInit : Half := 0xFFFF

/-- FREE VALUE, log 4. R112 gives the consumers of one age tick no order among themselves: the choice made at
the `n`-th place where the part itself must take one of several due consumers first. -/
opaque tickOrder : Nat → Nat

/-- FREE VALUE, log 5. The manual gives the four SCK no rate against REFCLK, and R179 lets an agent pause SCK for any time.
Which clock brings the `n`-th period: `none` is REFCLK, `some (p, b)` is SCK of port `p` with the level `b` on SDI. -/
opaque nextClock : Nat → Option (Agent × Bool)

/-- FREE VALUE, log 5. R111: an apply and an age tick at the same moment may be taken in either order. Whether the age tick
that completes in the `n`-th period is taken ahead of what else falls due at that moment. -/
opaque tickFirst : Nat → Bool

/-- FREE VALUE, log 7. R1: after device reset the content of every cell is unknown until its start-up clear. The
byte that address `a` of the cell store then holds. -/
opaque powerOnByte : Nat → Byte

/-- FREE VALUE, log 13. R178 and R179 do not say what SDO of port `p` carries while the port is IDLE with CSN low:
`none` is high impedance. -/
opaque sdoWhileIdle : Agent → Option Byte

end Sys2Proof.Config
end

