-- ==== Sys2Proof/Syntax.lean ====
section
/-! DEFINITION. The commands of the block: one constructor for each row of the opcode table. -/

namespace Sys2Proof

/-- The three traffic classes (3.2 of 00_scope), highest rank first. -/
inductive MsgClass where
  | express
  | standard
  | bulk
  deriving DecidableEq, Repr

/-- The three classes in rank order. -/
def classes : List MsgClass := [.express, .standard, .bulk]

/-- The commands. A transaction's command is the completion of its request phase on port `p` (R181), carrying the
argument bytes as R188 lays them out, each as received: their ranges are judged by the owning rule. An event's
command is that event being taken. -/
inductive Instr where
  /-- RSTN goes low, or power-on (R105). -/
  | deviceReset
  /-- RSTN rises (R102). -/
  | startupClearStart
  /-- The clear of the current start-up cell completes (R102). -/
  | startupClearCompletion
  /-- A falling edge of CSN of port `p` (R178). -/
  | csnFall (p : Agent)
  /-- A rising edge of CSN of port `p` (R182). -/
  | csnRise (p : Agent)
  /-- A first byte that is no transaction code (R180). -/
  | badop (p : Agent) (code : Byte)
  /-- IDENT (R186). -/
  | ident (p : Agent)
  /-- STATUS (R187). -/
  | status (p : Agent)
  /-- JOIN with a lease period (R124). -/
  | join (p : Agent) (period : Half)
  /-- LEAVE (R133). -/
  | leave (p : Agent)
  /-- RENEW (R131). -/
  | renew (p : Agent)
  /-- The sixth byte of a POST: its header is judged (R52). -/
  | postHeader (p : Agent) (dest cls flags : Byte) (length : Half)
  /-- A correlation, payload or first check byte of a staged POST (R58). -/
  | postStagingByte (p : Agent) (b : Byte)
  /-- The last check byte of a staged POST (R63). -/
  | postLastCheckByte (p : Agent) (b : Byte)
  /-- FETCH with a class selector (R73). -/
  | fetch (p : Agent) (sel : Byte)
  /-- ACK (R82). -/
  | ack (p : Agent) (cls : Byte) (tag : Half)
  /-- NACK (R84). -/
  | nack (p : Agent) (cls : Byte) (tag : Half)
  /-- RECALL (R46). -/
  | recallMessage (p : Agent) (dest cls : Byte) (tag : Half)
  /-- WATCH (R19). -/
  | watch (p : Agent) (cls threshold : Byte)
  /-- NOTICES with a maximum (R149). -/
  | notices (p : Agent) (max : Byte)
  /-- The last byte of the head record of a readout has been shifted out (R150). -/
  | noticeRecordRemoval (p : Agent)
  /-- The first bit of an OVERRUN record of a readout is driven (R151). -/
  | overrunLatch (p : Agent)
  /-- SUMMARY (R154). -/
  | summary (p : Agent)
  /-- READCFG with a selector (R176). -/
  | readcfg (p : Agent) (sel : Byte)
  /-- PROPOSE with a table image of 38 bytes (R162, R192). -/
  | propose (p : Agent) (image : List Byte)
  /-- CONSENT with a proposal number (R164). -/
  | consent (p : Agent) (num : Byte)
  /-- VETO with a proposal number (R165). -/
  | veto (p : Agent) (num : Byte)
  /-- The held table applies (R173). -/
  | applyHeld
  /-- The postscale count completes: one age tick (R108). -/
  | ageTick
  /-- The expiry pass of the tick that was taken (R114). -/
  | expiryPass
  /-- The fencing of agent `a`, whose lease reached 0 (R138). -/
  | fencing (a : Agent)
  /-- The lapse of the open round, whose window reached 0 (R166). -/
  | proposalLapse
  /-- The drain test of agent `a` (R135). -/
  | drainCompletion (a : Agent)
  /-- The clear of the head of the scrub queue completes (R98). -/
  | scrubCompletion
  /-- The test of the watch of agent `a` in class `k` (R22). -/
  | watchFire (a : Agent) (k : MsgClass)
  deriving DecidableEq, Repr

end Sys2Proof
end

