-- ==== Sys2Proof/Decode.lean ====
section
/-! DEFINITION. The wire form of the requests (R188), the byte order of the wire (3.4 of 00_scope), and the opcode table's
words (the table gives no row any bits). -/

namespace Sys2Proof

/-! ## Byte order: most significant byte first -/

/-- The two bytes of a field, in the order they are sent. -/
def bytes16 (h : Half) : List Byte := [h.extractLsb' 8 8, h.extractLsb' 0 8]

/-- The four bytes of a field, in the order they are sent. -/
def bytes32 (w : Word) : List Byte :=
  [w.extractLsb' 24 8, w.extractLsb' 16 8, w.extractLsb' 8 8, w.extractLsb' 0 8]

/-- The two-byte field whose bytes are received as `hi` and then `lo`. -/
def half (hi lo : Byte) : Half := hi ++ lo

/-- A count as a one-byte field. -/
def byteOf (n : Nat) : Byte := BitVec.ofNat 8 n

/-- A count as a two-byte field, in the order its bytes are sent. -/
def bytes16Of (n : Nat) : List Byte := bytes16 (BitVec.ofNat 16 n)

/-! ## Transaction codes (R188) -/

/-- The code of IDENT. -/
def codeIdent : Byte := 0x01
/-- The code of STATUS. -/
def codeStatus : Byte := 0x02
/-- The code of JOIN. -/
def codeJoin : Byte := 0x10
/-- The code of LEAVE. -/
def codeLeave : Byte := 0x11
/-- The code of RENEW. -/
def codeRenew : Byte := 0x12
/-- The code of POST. -/
def codePost : Byte := 0x20
/-- The code of FETCH. -/
def codeFetch : Byte := 0x21
/-- The code of ACK. -/
def codeAck : Byte := 0x22
/-- The code of NACK. -/
def codeNack : Byte := 0x23
/-- The code of RECALL. -/
def codeRecall : Byte := 0x24
/-- The code of WATCH. -/
def codeWatch : Byte := 0x30
/-- The code of NOTICES. -/
def codeNotices : Byte := 0x31
/-- The code of SUMMARY. -/
def codeSummary : Byte := 0x32
/-- The code of READCFG. -/
def codeReadcfg : Byte := 0x40
/-- The code of PROPOSE. -/
def codePropose : Byte := 0x41
/-- The code of CONSENT. -/
def codeConsent : Byte := 0x42
/-- The code of VETO. -/
def codeVeto : Byte := 0x43

/-- The seventeen transaction codes (R188). -/
def transactionCodes : List Byte :=
  [codeIdent, codeStatus, codeJoin, codeLeave, codeRenew, codePost, codeFetch, codeAck, codeNack, codeRecall,
    codeWatch, codeNotices, codeSummary, codeReadcfg, codePropose, codeConsent, codeVeto]

/-- R180: whether a first byte names one of the seventeen transactions. -/
def isTransactionCode (b : Byte) : Bool := transactionCodes.contains b

/-- The bytes of a PROPOSE request after its opcode (R192). -/
def imageBytes : Nat := 38

/-! ## Requests on the wire -/

/-- The command that the bytes received on port `p` since CSN fell complete, where they complete one: a whole
request phase, or the six header bytes of a POST (R51, R180, R188). -/
def decodeRequest (p : Agent) : List Byte → Option Instr
  | [] => none
  | op :: args =>
    if op = codeIdent then
      match args with
      | [] => some (.ident p)
      | _ => none
    else if op = codeStatus then
      match args with
      | [] => some (.status p)
      | _ => none
    else if op = codeJoin then
      match args with
      | [h, l] => some (.join p (half h l))
      | _ => none
    else if op = codeLeave then
      match args with
      | [] => some (.leave p)
      | _ => none
    else if op = codeRenew then
      match args with
      | [] => some (.renew p)
      | _ => none
    else if op = codePost then
      match args with
      | [d, c, f, h, l] => some (.postHeader p d c f (half h l))
      | _ => none
    else if op = codeFetch then
      match args with
      | [c] => some (.fetch p c)
      | _ => none
    else if op = codeAck then
      match args with
      | [c, h, l] => some (.ack p c (half h l))
      | _ => none
    else if op = codeNack then
      match args with
      | [c, h, l] => some (.nack p c (half h l))
      | _ => none
    else if op = codeRecall then
      match args with
      | [d, c, h, l] => some (.recallMessage p d c (half h l))
      | _ => none
    else if op = codeWatch then
      match args with
      | [c, t] => some (.watch p c t)
      | _ => none
    else if op = codeNotices then
      match args with
      | [m] => some (.notices p m)
      | _ => none
    else if op = codeSummary then
      match args with
      | [] => some (.summary p)
      | _ => none
    else if op = codeReadcfg then
      match args with
      | [x] => some (.readcfg p x)
      | _ => none
    else if op = codePropose then
      if args.length = imageBytes then some (.propose p args) else none
    else if op = codeConsent then
      match args with
      | [n] => some (.consent p n)
      | _ => none
    else if op = codeVeto then
      match args with
      | [n] => some (.veto p n)
      | _ => none
    else
      match args with
      | [] => some (.badop p op)
      | _ => none

/-- The request bytes of a transaction's command (R188), and the port they go to. A command that is no request has
none. -/
def requestBytes : Instr → Option (Agent × List Byte)
  | .ident p => some (p, [codeIdent])
  | .status p => some (p, [codeStatus])
  | .join p period => some (p, codeJoin :: bytes16 period)
  | .leave p => some (p, [codeLeave])
  | .renew p => some (p, [codeRenew])
  | .postHeader p d c f len => some (p, [codePost, d, c, f] ++ bytes16 len)
  | .fetch p sel => some (p, [codeFetch, sel])
  | .ack p c tag => some (p, [codeAck, c] ++ bytes16 tag)
  | .nack p c tag => some (p, [codeNack, c] ++ bytes16 tag)
  | .recallMessage p d c tag => some (p, [codeRecall, d, c] ++ bytes16 tag)
  | .watch p c t => some (p, [codeWatch, c, t])
  | .notices p m => some (p, [codeNotices, m])
  | .summary p => some (p, [codeSummary])
  | .readcfg p sel => some (p, [codeReadcfg, sel])
  | .propose p image => some (p, codePropose :: image)
  | .consent p n => some (p, [codeConsent, n])
  | .veto p n => some (p, [codeVeto, n])
  | .badop p code => some (p, [code])
  | .deviceReset => none
  | .startupClearStart => none
  | .startupClearCompletion => none
  | .csnFall _ => none
  | .csnRise _ => none
  | .postStagingByte _ _ => none
  | .postLastCheckByte _ _ => none
  | .noticeRecordRemoval _ => none
  | .overrunLatch _ => none
  | .applyHeld => none
  | .ageTick => none
  | .expiryPass => none
  | .fencing _ => none
  | .proposalLapse => none
  | .drainCompletion _ => none
  | .scrubCompletion => none
  | .watchFire _ _ => none

/-- The command that a word of the opcode table spells. The table gives no row any bits, so a word spells none
(log 22). -/
def decodeTableWord (_nbits _w : Nat) : Option Instr := none

end Sys2Proof
end

