-- ==== Sys2Proof/Machine/State.lean ====
section
/-! DEFINITION. The state of the Larjo LJX418 as plain data, block by block, and its value after device reset. -/

namespace Sys2Proof.Machine

/-! ## Shapes shared by the blocks -/

/-- One value for each traffic class. -/
structure PerClass (α : Type) where
  express : α
  standard : α
  bulk : α
  deriving DecidableEq, Repr

/-- The value of class `k`. -/
def PerClass.get {α : Type} (v : PerClass α) : MsgClass → α
  | .express => v.express
  | .standard => v.standard
  | .bulk => v.bulk

/-- `v` with the value of class `k` replaced. -/
def PerClass.set {α : Type} (v : PerClass α) (k : MsgClass) (x : α) : PerClass α :=
  match k with
  | .express => { v with express := x }
  | .standard => { v with standard := x }
  | .bulk => { v with bulk := x }

/-- The same value for every class. -/
def PerClass.all {α : Type} (x : α) : PerClass α := ⟨x, x, x⟩

/-- A set of traffic classes (R153, R189). -/
abbrev ClassSet := PerClass Bool

/-- A set of agents (R159: required and consented sets). -/
abbrev AgentSet := Vector Bool 4

/-! ## Cell store and credit unit (chapter 1) -/

/-- A charge target as a cell or a message carries it: COMMON with the agent to whose common use it counts, or
RESERVED(a, k) (section 1.1.1). -/
inductive Charge where
  | common (a : Agent)
  | reserved (a : Agent) (k : MsgClass)
  deriving DecidableEq, Repr

/-- A cell map record (section 1.1.1, R2, R3). -/
inductive CellRecord where
  /-- SCRUB with charge absent: the cell awaits its start-up clear (R2). -/
  | awaitingClear
  /-- FREE. -/
  | free
  /-- BOUND to a descriptor at a position of its cell list. -/
  | bound (c : Charge) (d : DescId) (pos : Nat)
  /-- SCRUB with the charge it still carries. -/
  | scrub (c : Charge)
  deriving DecidableEq, Repr

/-- The seventeen used counts (section 1.3). -/
structure UsedCounts where
  commonTotal : Nat
  commonBy : Vector Nat 4
  reserved : Vector (PerClass Nat) 4
  deriving DecidableEq, Repr

/-- The scrub engine's three states (R96). -/
inductive ScrubEngine where
  /-- START-UP(p). -/
  | startUp (p : CellId)
  /-- IDLE. -/
  | idle
  /-- CLEARING(c). -/
  | clearing (c : CellId)
  deriving DecidableEq, Repr

/-! ## Queue manager (chapters 2 and 3) -/

/-- The correlation-word field of a message record (section 2.1, R28). -/
inductive Correlation where
  /-- Absent: the sender supplied none. -/
  | absent
  /-- Present, with no readable value until the fourth byte has arrived. -/
  | awaited
  /-- Present with its value. -/
  | word (w : Word)
  deriving DecidableEq, Repr

/-- The fields a message record has in every state out of FREE (section 2.1). -/
structure Message where
  source : Agent
  dest : Agent
  cls : MsgClass
  length : Nat
  cells : List CellId
  charge : Charge
  redeliveries : Nat
  receipt : Bool
  corr : Correlation
  deriving DecidableEq, Repr

/-- The fields an admitted message has besides (section 2.1: QUEUED and IN_HAND). -/
structure Admission where
  tag : Half
  tick : Word
  deriving DecidableEq, Repr

/-- A descriptor (section 2.1): its state, with the fields present in it. -/
inductive Descriptor where
  | free
  | staging (m : Message)
  | queued (m : Message) (adm : Admission)
  | inHand (m : Message) (adm : Admission)
  deriving DecidableEq, Repr

/-- A loaded staging context (R57). `corrBytes` holds the correlation bytes received so far, which R59 implies. -/
structure StagingContext where
  desc : DescId
  corrToCome : Nat
  corrBytes : Word
  payloadReceived : Nat
  checkReceived : Nat
  checkRegister : Half
  checkHigh : Option Byte
  deriving DecidableEq, Repr

/-! ## Port supervisor (chapter 7) -/

/-- The port states (R121). -/
inductive PortState where
  | offline
  | active
  | closing
  | fenced
  deriving DecidableEq, Repr

/-- A membership record (R121). -/
structure Member where
  state : PortState
  leasePeriod : Nat
  leaseLeft : Nat
  discards : Nat
  deriving DecidableEq, Repr

/-! ## Notice unit (chapter 8) -/

/-- The four outcomes of a round (R168). -/
inductive RoundOutcome where
  | committed
  | rejected
  | lapsed
  | withdrawn
  deriving DecidableEq, Repr

/-- A notice record: its kind, with the fields present for that kind (R147). -/
inductive Notice where
  | delivered (dest : Agent) (k : MsgClass) (tag : Half)
  | expired (dest : Agent) (k : MsgClass) (tag : Half)
  | rejected (dest : Agent) (k : MsgClass) (tag : Half)
  | discarded (dest : Agent) (k : MsgClass) (tag : Half)
  | credit (k : MsgClass) (level : Nat)
  | peerJoined (a : Agent)
  | peerLeft (a : Agent)
  | peerFenced (a : Agent)
  | proposalOpen (proposer : Agent) (num : Byte)
  | proposalClosed (vetoer : Option Agent) (num : Byte) (outcome : RoundOutcome)
  | configApplied (epoch : Half)
  | rejoined
  | resumed (discards : Nat)
  | overrun (count : Nat)
  deriving DecidableEq, Repr

/-- The latch of an OVERRUN record that is being shifted out (R151): the count latched for output and the offers
folded in since. -/
structure OverrunLatch where
  latched : Nat
  since : Nat
  deriving DecidableEq, Repr

/-! ## Consent engine (chapter 9) -/

/-- An allotment table (section 9.1). -/
structure Table where
  reserved : Vector (PerClass Nat) 4
  cap : Vector Nat 4
  descLimit : Vector Nat 4
  lifetime : PerClass Nat
  redelivery : PerClass Nat
  prescale : Nat
  period : Nat
  postscale : Nat
  window : Nat
  deriving DecidableEq, Repr

/-- The default table (section 9.1, R192). -/
def Table.default : Table where
  reserved := #v[.all 16, .all 16, .all 16, .all 16]
  cap := #v[96, 96, 96, 96]
  descLimit := #v[32, 32, 32, 32]
  lifetime := ⟨50, 1000, 0⟩
  redelivery := ⟨3, 3, 3⟩
  prescale := 16
  period := 250
  postscale := 2
  window := 100

/-- A held pending slot (R159). -/
structure HeldTable where
  table : Table
  number : Byte
  deriving DecidableEq, Repr

/-- The proposal record of an OPEN round (R159). -/
structure Proposal where
  number : Byte
  proposer : Agent
  table : Table
  required : AgentSet
  consented : AgentSet
  window : Nat
  deriving DecidableEq, Repr

/-! ## Agent ports (chapter 10) -/

/-- The phases of a port (R178). -/
inductive Phase where
  | idle
  | request
  | turnaround
  | response
  deriving DecidableEq, Repr

/-- The result codes by name (R189). -/
inductive Result where
  | ok
  | empty
  | starting
  | badop
  | badarg
  | baddest
  | badlen
  | badcheck
  | notJoined
  | fenced
  | closing
  | peerAbsent
  | peerClosing
  | peerGone
  | noSlot
  | noCredit
  | notInHand
  | inHand
  | unknownTag
  | busy
  | stale
  | notRequired
  | invalidTable
  | cut
  deriving DecidableEq, Repr

/-- A last-result record that has been updated (R183); the tag is present only for an admitted POST. -/
structure LastResult where
  opcode : Byte
  result : Result
  tag : Option Half
  deriving DecidableEq, Repr

/-- The framing state of a port (R178): its four things, the level of its CSN pin, and what the four things imply. -/
structure Framing where
  csnLow : Bool
  phase : Phase
  bytePos : Nat
  opcode : Option Byte
  last : Option LastResult
  /-- The bytes the response has still to shift out, the present one first (R181, R184); 0x00 bytes come after them. -/
  out : List Byte
  /-- The records of a NOTICES readout that have not gone out whole (R149, R150). -/
  recordsLeft : Nat
  /-- The bits of the present byte that have been exchanged (R179). -/
  bitPos : Nat := 0
  /-- Those bits as SDI gave them in REQUEST, the first the most significant (R179). -/
  shiftIn : Byte := 0
  /-- The whole bytes of a request received since CSN fell, until its request phase or its header completes (R180). -/
  received : List Byte := []
  /-- The byte position in which a staging was aborted is not yet over (R69). -/
  skipping : Bool := false
  deriving DecidableEq, Repr

/-- A port with no transaction, its CSN at the given level and its last-result record empty (R178, R183). -/
def Framing.quiet (csnLow : Bool) : Framing where
  csnLow := csnLow
  phase := .idle
  bytePos := 0
  opcode := none
  last := none
  out := []
  recordsLeft := 0

/-! ## The whole part -/

/-- The contents of the cell store: byte `j` of cell `c` is at address `32 c + j`. In canonical form addresses rise
strictly and no byte is 0x00, which is what an unlisted byte of a cleared cell reads as (R1). -/
abbrev Memory := List Host.Cell

/-- The state of the part. -/
structure State where
  /-- The RSTN pin is low (R105). -/
  rstnLow : Bool
  /-- Cell contents (R1). -/
  mem : Memory
  /-- The cell map (R2, R3). -/
  cellMap : Vector CellRecord 384
  /-- The free list, head first (R4). -/
  freeList : List CellId
  /-- The scrub queue, head first (R95). -/
  scrubQueue : List CellId
  /-- The scrub engine (R96). -/
  engine : ScrubEngine
  /-- REFCLK periods left of the clear in progress (R97, R102). -/
  clearLeft : Nat
  /-- The used counts (R7). -/
  used : UsedCounts
  /-- The credit watches: `none` is DISARMED, `some t` is ARMED(t) (R18). -/
  watches : Vector (PerClass (Option Nat)) 4
  /-- The descriptor table (R27). -/
  descs : Vector Descriptor 128
  /-- Descriptors in use, per source (R33). -/
  inUse : Vector Nat 4
  /-- Next-tag counters, per source (R31). -/
  nextTag : Vector Half 4
  /-- Inbound queues, head first (R35). -/
  queues : Vector (PerClass (List DescId)) 4
  /-- Hand slots (R38). -/
  hands : Vector (PerClass (Option DescId)) 4
  /-- Staging contexts (R57). -/
  stagings : Vector (Option StagingContext) 4
  /-- The age clock's prescale count (R107). -/
  prescaleCount : Nat
  /-- The age clock's period count (R107). -/
  periodCount : Nat
  /-- The age clock's postscale count (R107); at the postscale of the active table, an age tick is due (R111, log 5). -/
  postscaleCount : Nat
  /-- The tick counter (R108). -/
  ticks : Word
  /-- The lifetimes of the tick that was taken, while its expiry pass is due (R112, R116). -/
  passDue : Option (PerClass Nat)
  /-- Membership records (R121). -/
  members : Vector Member 4
  /-- Notice queues, oldest record first (R143). -/
  notices : Vector (List Notice) 4
  /-- Summary snapshots (R155). -/
  snapshots : Vector ClassSet 4
  /-- OVERRUN latches of readouts in progress (R151). -/
  latches : Vector (Option OverrunLatch) 4
  /-- The active table (R159). -/
  table : Table
  /-- The pending slot: `none` is EMPTY (R159). -/
  slot : Option HeldTable
  /-- The voting state: `none` is IDLE (R159). -/
  voting : Option Proposal
  /-- The next proposal number (R159). -/
  nextProposal : Byte
  /-- The last proposal number (R159). -/
  lastProposal : Byte
  /-- The epoch (R159). -/
  epoch : Half
  /-- The framing state of each port (R178). -/
  frames : Vector Framing 4
  /-- The MODEL's own: the commands that are waiting, first in, first out. -/
  pending : List Instr
  /-- The MODEL's own: how many free choices have been taken; it indexes Config.tickOrder (log 4), Config.nextClock and
  Config.tickFirst (log 5). -/
  choices : Nat
  deriving DecidableEq, Repr

/-- The part has no fault: every request is answered by a result code and every event is taken (chapter 10, R181,
R189). -/
inductive Fault : Type
  deriving DecidableEq, Repr

/-- Why the model refuses a command. -/
inductive Refusal where
  /-- The command has no meaning yet. Raised by exec's arm alone. Safe: the model stops. No arm raises it. -/
  | notModelled (mnemonic : String)
  deriving DecidableEq, Repr

/-- The outcome of a command. -/
abbrev StepResult := Host.Outcome State Fault Refusal

/-- A membership record after device reset (R121). -/
def Member.initial : Member := ⟨.offline, 0, 0, 0⟩

/-- The state of the part in device reset (R2, R7, R18, R27, R57, R105, R109, R121, R143, R159, R178, R183), with the
levels of the CSN pins, the waiting commands and the count of free choices as given. RSTN is low. -/
def State.inReset (csnLow : Agent → Bool) (pending : List Instr) (choices : Nat) : State where
  rstnLow := true
  mem := []
  cellMap := Vector.replicate 384 .awaitingClear
  freeList := []
  scrubQueue := []
  engine := .startUp 0
  clearLeft := 0
  used := ⟨0, #v[0, 0, 0, 0], #v[.all 0, .all 0, .all 0, .all 0]⟩
  watches := #v[.all none, .all none, .all none, .all none]
  descs := Vector.replicate 128 .free
  inUse := #v[0, 0, 0, 0]
  nextTag := #v[1, 1, 1, 1]
  queues := #v[.all [], .all [], .all [], .all []]
  hands := #v[.all none, .all none, .all none, .all none]
  stagings := #v[none, none, none, none]
  prescaleCount := 0
  periodCount := 0
  postscaleCount := 0
  ticks := 0
  passDue := none
  members := #v[.initial, .initial, .initial, .initial]
  notices := #v[[], [], [], []]
  snapshots := #v[.all false, .all false, .all false, .all false]
  latches := #v[none, none, none, none]
  table := .default
  slot := none
  voting := none
  nextProposal := 1
  lastProposal := 0
  epoch := 0
  frames := #v[.quiet (csnLow 0), .quiet (csnLow 1), .quiet (csnLow 2), .quiet (csnLow 3)]
  pending := pending
  choices := choices

/-- The machine right after reset: RSTN still low, every CSN high, no command waiting (log 10). -/
def State.reset : State := .inReset (fun _ => false) [] 0

end Sys2Proof.Machine
end

