-- ==== Sys2Proof/Machine/Operands.lean ====
section
/-! DEFINITION. The operand and record formats of the wire: enumerated codes (R189), notice records (R191) and the
allotment table image with its validity test (R192, R160). -/

namespace Sys2Proof.Machine

/-! ## Enumerated fields (R188, R189) -/

/-- The class a class argument names; a code above 2 names none (R188). -/
def classOfCode (b : Byte) : Option MsgClass :=
  if b = 0 then some .express else if b = 1 then some .standard else if b = 2 then some .bulk else none

/-- The code of a class (R189). -/
def classCode : MsgClass → Byte
  | .express => 0
  | .standard => 1
  | .bulk => 2

/-- A FETCH class selector: one class, or ANY (R188). -/
inductive Selector where
  | one (k : MsgClass)
  | any
  deriving DecidableEq, Repr

/-- The selector a FETCH argument names; ANY is 0x03 (R188). -/
def selectorOfCode (b : Byte) : Option Selector :=
  if b = 3 then some .any else (classOfCode b).map .one

/-- The agent an agent argument names; a number above 3 names none. -/
def agentOfCode (b : Byte) : Option Agent :=
  if h : b.toNat < 4 then some ⟨b.toNat, h⟩ else none

/-- The code of an agent number. -/
def agentCode (a : Agent) : Byte := byteOf a.val

/-- A set of classes as a byte (R189). -/
def classSetCode (x : ClassSet) : Byte :=
  (if x.express then 1 else 0) ||| (if x.standard then 2 else 0) ||| (if x.bulk then 4 else 0)

/-- The code of a port state (R189). -/
def PortState.code : PortState → Byte
  | .offline => 0
  | .active => 1
  | .closing => 2
  | .fenced => 3

/-- The code of a charge (R189). -/
def Charge.code : Charge → Byte
  | .common _ => 0
  | .reserved _ _ => 1

/-- The code of RETURNED, a NACK outcome (R189). -/
def codeReturned : Byte := 0
/-- The code of REJECTED, a NACK outcome (R189). -/
def codeRejected : Byte := 1

/-- The code of voting state IDLE (R189). -/
def codeVotingIdle : Byte := 0
/-- The code of voting or round state OPEN (R189). -/
def codeVotingOpen : Byte := 1

/-- The code of the outcome of a round (R189). -/
def RoundOutcome.code : RoundOutcome → Byte
  | .committed => 2
  | .rejected => 3
  | .lapsed => 4
  | .withdrawn => 5

/-- The code of the pending slot's state: EMPTY or HELD (R189). -/
def slotCode (slot : Option HeldTable) : Byte := if slot.isSome then 1 else 0

/-- The code of the voting state (R189). -/
def votingCode (voting : Option Proposal) : Byte := if voting.isSome then codeVotingOpen else codeVotingIdle

/-- The round state after a PROPOSE or CONSENT that was answered OK: OPEN, or COMMITTED where the round has ended
(R162, R164). -/
def roundStateCode (voting : Option Proposal) : Byte :=
  if voting.isSome then codeVotingOpen else RoundOutcome.committed.code

/-- The code of a result (R189). -/
def Result.code : Result → Byte
  | .ok => 0x01
  | .empty => 0x02
  | .starting => 0x03
  | .badop => 0x04
  | .badarg => 0x05
  | .baddest => 0x06
  | .badlen => 0x07
  | .badcheck => 0x08
  | .notJoined => 0x09
  | .fenced => 0x0A
  | .closing => 0x0B
  | .peerAbsent => 0x0C
  | .peerClosing => 0x0D
  | .peerGone => 0x0E
  | .noSlot => 0x0F
  | .noCredit => 0x10
  | .notInHand => 0x11
  | .inHand => 0x12
  | .unknownTag => 0x13
  | .busy => 0x14
  | .stale => 0x15
  | .notRequired => 0x16
  | .invalidTable => 0x17
  | .cut => 0x18

/-- The largest payload of a class in bytes (3.2 of 00_scope, R52). -/
def maxLength : MsgClass → Nat
  | .express => 32
  | .standard => 128
  | .bulk => 256

/-- The cells a message of `n` bytes occupies: ceil(n/32) (R1). -/
def cellsFor (n : Nat) : Nat := (n + 31) / 32

/-! ## Notice records (R147, R191) -/

/-- The kind code of a notice (R191). -/
def Notice.kindCode : Notice → Byte
  | .delivered _ _ _ => 0x01
  | .expired _ _ _ => 0x02
  | .rejected _ _ _ => 0x03
  | .discarded _ _ _ => 0x04
  | .credit _ _ => 0x05
  | .peerJoined _ => 0x06
  | .peerLeft _ => 0x07
  | .peerFenced _ => 0x08
  | .proposalOpen _ _ => 0x09
  | .proposalClosed _ _ _ => 0x0A
  | .configApplied _ => 0x0B
  | .rejoined => 0x0C
  | .resumed _ => 0x0D
  | .overrun _ => 0x0E

/-- The peer field of a notice (R147). -/
def Notice.peer : Notice → Option Agent
  | .delivered d _ _ => some d
  | .expired d _ _ => some d
  | .rejected d _ _ => some d
  | .discarded d _ _ => some d
  | .credit _ _ => none
  | .peerJoined a => some a
  | .peerLeft a => some a
  | .peerFenced a => some a
  | .proposalOpen a _ => some a
  | .proposalClosed v _ _ => v
  | .configApplied _ => none
  | .rejoined => none
  | .resumed _ => none
  | .overrun _ => none

/-- The class field of a notice (R147). -/
def Notice.cls : Notice → Option MsgClass
  | .delivered _ k _ => some k
  | .expired _ k _ => some k
  | .rejected _ k _ => some k
  | .discarded _ k _ => some k
  | .credit k _ => some k
  | .peerJoined _ => none
  | .peerLeft _ => none
  | .peerFenced _ => none
  | .proposalOpen _ _ => none
  | .proposalClosed _ _ _ => none
  | .configApplied _ => none
  | .rejoined => none
  | .resumed _ => none
  | .overrun _ => none

/-- The tag field of a notice (R147). -/
def Notice.tag : Notice → Option Half
  | .delivered _ _ t => some t
  | .expired _ _ t => some t
  | .rejected _ _ t => some t
  | .discarded _ _ t => some t
  | .credit _ _ => none
  | .peerJoined _ => none
  | .peerLeft _ => none
  | .peerFenced _ => none
  | .proposalOpen _ _ => none
  | .proposalClosed _ _ _ => none
  | .configApplied _ => none
  | .rejoined => none
  | .resumed _ => none
  | .overrun _ => none

/-- The value field of a notice on the wire, where the kind has one (R147, R191). -/
def Notice.value : Notice → Option Half
  | .delivered _ _ _ => none
  | .expired _ _ _ => none
  | .rejected _ _ _ => none
  | .discarded _ _ _ => none
  | .credit _ level => some (BitVec.ofNat 16 level)
  | .peerJoined _ => none
  | .peerLeft _ => none
  | .peerFenced _ => none
  | .proposalOpen _ num => some (half 0 num)
  | .proposalClosed _ num o => some (half num o.code)
  | .configApplied e => some e
  | .rejoined => none
  | .resumed n => some (BitVec.ofNat 16 n)
  | .overrun n => some (BitVec.ofNat 16 n)

/-- Byte 1 of a notice record: peer in bits 7 to 4, class in bits 3 to 0, 0xF for an absent one (R191). -/
def noticePeerClass (peer : Option Agent) (k : Option MsgClass) : Byte :=
  let hi : BitVec 4 := match peer with
    | some a => BitVec.ofNat 4 a.val
    | none => 0xF
  let lo : BitVec 4 := match k with
    | some c => (classCode c).extractLsb' 0 4
    | none => 0xF
  hi ++ lo

/-- The six bytes of a notice record (R191). -/
def Notice.record (n : Notice) : List Byte :=
  [n.kindCode, noticePeerClass n.peer n.cls] ++ bytes16 (n.tag.getD 0) ++ bytes16 (n.value.getD 0)

/-- The bytes of one notice record (R149). -/
def recordBytes : Nat := 6

/-! ## The allotment table (sections 9.1 and 10.5) -/

/-- ΣR: the sum of the twelve reserved sizes. -/
def Table.sumReserved (t : Table) : Nat :=
  (agents.map (fun a =>
    (t.reserved[a]).express + (t.reserved[a]).standard + (t.reserved[a]).bulk)).sum

/-- The common capacity C = 384 - ΣR (section 9.1). -/
def Table.capacity (t : Table) : Nat := Config.cellCount - t.sumReserved

/-- The 38-byte image of a table (R192). -/
def Table.image (t : Table) : List Byte :=
  agents.flatMap (fun a =>
      [byteOf (t.reserved[a]).express, byteOf (t.reserved[a]).standard, byteOf (t.reserved[a]).bulk]) ++
    agents.flatMap (fun a => bytes16Of (t.cap[a])) ++
    agents.map (fun a => byteOf (t.descLimit[a])) ++
    classes.flatMap (fun k => bytes16Of (t.lifetime.get k)) ++
    classes.map (fun k => byteOf (t.redelivery.get k)) ++
    [byteOf t.prescale, byteOf (t.period - 1), byteOf (t.postscale - 1)] ++ bytes16Of t.window

/-- The unsigned number in byte `i` of an image. -/
def imageByte (image : List Byte) (i : Nat) : Nat := (image.getD i 0).toNat

/-- The unsigned number in bytes `i` and `i + 1` of an image. -/
def imageHalf (image : List Byte) (i : Nat) : Nat := (half (image.getD i 0) (image.getD (i + 1) 0)).toNat

/-- The reserved sizes of agent number `n` in an image (R192: offset 3a + k). -/
def imageReserved (image : List Byte) (n : Nat) : PerClass Nat :=
  ⟨imageByte image (3 * n), imageByte image (3 * n + 1), imageByte image (3 * n + 2)⟩

/-- The table an image carries (R192). -/
def tableOfImage (image : List Byte) : Table where
  reserved := #v[imageReserved image 0, imageReserved image 1, imageReserved image 2, imageReserved image 3]
  cap := #v[imageHalf image 12, imageHalf image 14, imageHalf image 16, imageHalf image 18]
  descLimit := #v[imageByte image 20, imageByte image 21, imageByte image 22, imageByte image 23]
  lifetime := ⟨imageHalf image 24, imageHalf image 26, imageHalf image 28⟩
  redelivery := ⟨imageByte image 30, imageByte image 31, imageByte image 32⟩
  prescale := imageByte image 33
  period := imageByte image 34 + 1
  postscale := imageByte image 35 + 1
  window := imageHalf image 36

/-- R160: every field of a table lies in its range and ΣR is at most 352. -/
def Table.valid (t : Table) : Bool :=
  agents.all (fun a => classes.all (fun k => (t.reserved[a]).get k ≤ 64)) &&
    decide (t.sumReserved ≤ 352) &&
    agents.all (fun a => t.cap[a] ≤ 384) &&
    agents.all (fun a => 1 ≤ t.descLimit[a] && t.descLimit[a] ≤ 128) &&
    classes.all (fun k => t.lifetime.get k ≤ 65535) &&
    classes.all (fun k => 1 ≤ t.redelivery.get k && t.redelivery.get k ≤ 7) &&
    (t.prescale == 1 || t.prescale == 4 || t.prescale == 16 || t.prescale == 64) &&
    (1 ≤ t.period && t.period ≤ 256) &&
    (1 ≤ t.postscale && t.postscale ≤ 16) &&
    (10 ≤ t.window && t.window ≤ 1000)

end Sys2Proof.Machine
end

