-- ==== Sys2Proof/Machine/Flags.lean ====
section
/-! DEFINITION. What the part computes from its state and stores nowhere: headroom and credit level (R11 to R14), the fit
test (R171), the summary and the attention condition (R153, R156), the check word (R61), SDO (R179), and the tests of
a request's caller (R122). -/

namespace Sys2Proof.Machine

/-! ## Headroom and credit level -/

/-- R11: the common headroom of agent `a` under table `t`: the smaller of pool figure and cap figure, each floored at
0 (natural subtraction floors). -/
def headroomCommonUnder (t : Table) (u : UsedCounts) (a : Agent) : Nat :=
  min (t.capacity - u.commonTotal) (t.cap[a] - u.commonBy[a])

/-- R12: the reserved headroom of agent `a` in class `k` under table `t`, floored at 0. -/
def headroomReservedUnder (t : Table) (u : UsedCounts) (a : Agent) (k : MsgClass) : Nat :=
  (t.reserved[a]).get k - (u.reserved[a]).get k

/-- R11, R14: the common headroom of agent `a`, the stricter of two tables while one is held. -/
def State.commonHeadroom (s : State) (a : Agent) : Nat :=
  match s.slot with
  | none => headroomCommonUnder s.table s.used a
  | some h => min (headroomCommonUnder s.table s.used a) (headroomCommonUnder h.table s.used a)

/-- R12, R14: the reserved headroom of agent `a` in class `k`, the stricter of two tables while one is held. -/
def State.reservedHeadroom (s : State) (a : Agent) (k : MsgClass) : Nat :=
  match s.slot with
  | none => headroomReservedUnder s.table s.used a k
  | some h => min (headroomReservedUnder s.table s.used a k) (headroomReservedUnder h.table s.used a k)

/-- R13: the credit level of agent `a` in class `k`. -/
def State.creditLevel (s : State) (a : Agent) (k : MsgClass) : Nat :=
  max (s.commonHeadroom a) (s.reservedHeadroom a k)

/-- R15: the bucket the credit judgement charges a message of `n` cells to; `none` is NOCREDIT. -/
def State.judgeCredit (s : State) (a : Agent) (k : MsgClass) (n : Nat) : Option Charge :=
  if n ≤ s.commonHeadroom a then some (.common a)
  else if n ≤ s.reservedHeadroom a k then some (.reserved a k)
  else none

/-- R171: every count lies within the limits of table `t`. -/
def State.fits (s : State) (t : Table) : Bool :=
  agents.all (fun a => classes.all (fun k => (s.used.reserved[a]).get k ≤ (t.reserved[a]).get k)) &&
    decide (s.used.commonTotal ≤ t.capacity) &&
    agents.all (fun a => s.used.commonBy[a] ≤ t.cap[a]) &&
    agents.all (fun a => s.inUse[a] ≤ t.descLimit[a])

/-! ## Messages -/

/-- The message record of descriptor `d`; absent when it is FREE. -/
def State.message (s : State) (d : DescId) : Option Message :=
  match s.descs[d] with
  | .free => none
  | .staging m => some m
  | .queued m _ => some m
  | .inHand m _ => some m

/-- The three queues and three hand slots of agent `a` are empty (R133, R135). -/
def State.holdsNothing (s : State) (a : Agent) : Bool :=
  classes.all (fun k => ((s.queues[a]).get k).isEmpty && ((s.hands[a]).get k).isNone)

/-- R113: the age of a message admitted at tick `adm`, modulo 2^32. -/
def State.age (s : State) (adm : Admission) : Nat := (s.ticks - adm.tick).toNat

/-- The lowest-numbered FREE descriptor (R28). -/
def State.freeDesc (s : State) : Option DescId :=
  (List.finRange 128).find? (fun d => s.descs[d] = .free)

/-- Whether a QUEUED or IN_HAND message of source `a` carries tag `t` (R31). -/
def State.tagInUse (s : State) (a : Agent) (t : Half) : Bool :=
  (List.finRange 128).any (fun d =>
    match s.descs[d] with
    | .free => false
    | .staging _ => false
    | .queued m adm => m.source = a && adm.tag = t
    | .inHand m adm => m.source = a && adm.tag = t)

/-- The tag counter advanced by one, from 65535 to 1 (R31). -/
def tagAfter (t : Half) : Half := if t = 0xFFFF then 1 else t + 1

/-- R31: from counter value `t`, the first value that no QUEUED or IN_HAND message of source `a` carries, looking at no
more than `fuel` values. -/
def State.tagFrom (s : State) (a : Agent) : Nat → Half → Half
  | 0, t => t
  | fuel + 1, t => if s.tagInUse a t then s.tagFrom a fuel (tagAfter t) else t

/-- R31: the tag the next admission from source `a` takes. At most 128 values are passed over. -/
def State.assignTag (s : State) (a : Agent) : Half := s.tagFrom a 129 s.nextTag[a]

/-! ## The cell store -/

/-- The address of byte `j` of cell `c`. -/
def cellAddr (c : CellId) (j : Nat) : Nat := Config.cellBytes * c.val + j

/-- The byte a memory in canonical form holds at address `a`: 0x00 where it lists none (R1). -/
def memRead : Memory → Nat → Byte
  | [], _ => 0
  | (a', b) :: rest, a => if a' = a then b else memRead rest a

/-- R1: byte `j` of cell `c`: unknown until the cell's start-up clear, what it holds after. -/
def State.cellByte (s : State) (c : CellId) (j : Nat) : Byte :=
  if s.cellMap[c] = .awaitingClear then Config.powerOnByte (cellAddr c j) else memRead s.mem (cellAddr c j)

/-- R79: payload byte `j` of message `m`, from byte j mod 32 of the cell at position j/32 of its cell list. -/
def State.payloadByte (s : State) (m : Message) (j : Nat) : Byte :=
  match m.cells[j / Config.cellBytes]? with
  | some c => s.cellByte c (j % Config.cellBytes)
  | none => 0

/-- R79: the payload of message `m`, in order. -/
def State.payload (s : State) (m : Message) : List Byte := (List.range m.length).map (s.payloadByte m)

/-! ## The check word (R61) -/

/-- One bit folded into the check register (R61). -/
def checkBit (reg : Half) (bit : Bool) : Half :=
  if xor bit reg.msb then (reg <<< 1) ^^^ Config.checkPoly else reg <<< 1

/-- One byte folded into the check register, most significant bit first (R61). -/
def checkByte (reg : Half) (b : Byte) : Half :=
  [b.getLsbD 7, b.getLsbD 6, b.getLsbD 5, b.getLsbD 4, b.getLsbD 3, b.getLsbD 2, b.getLsbD 1, b.getLsbD 0].foldl
    checkBit reg

/-- The check word over some bytes, from 0xFFFF (R61). -/
def checkWord (bs : List Byte) : Half := bs.foldl checkByte Config.checkInit

/-- The bytes of a correlation word that has its value (R59, R78). -/
def corrBytesOf : Correlation → List Byte
  | .absent => []
  | .awaited => []
  | .word w => bytes32 w

/-! ## Summary, attention, SDO -/

/-- R153: the summary of agent `a`. -/
def State.summary (s : State) (a : Agent) : ClassSet :=
  ⟨!(s.queues[a]).express.isEmpty, !(s.queues[a]).standard.isEmpty, !(s.queues[a]).bulk.isEmpty⟩

/-- ACTIVE or CLOSING (3.6 of 00_scope): the agent receives notices and may take delivery. -/
def State.isMember (s : State) (a : Agent) : Bool :=
  match (s.members[a]).state with
  | .offline => false
  | .active => true
  | .closing => true
  | .fenced => false

/-- R156: ATTNn is driven low. -/
def State.attentionLow (s : State) (a : Agent) : Bool :=
  s.isMember a && (!(s.notices[a]).isEmpty || s.summary a != s.snapshots[a])

/-- The first `n` bits of a byte, most significant first, with 0 for the rest (R184). -/
def keepFirstBits (n : Nat) (b : Byte) : Byte := b &&& (0xFF#8 <<< (8 - n))

/-- The first byte of a response that has still to go; 0x00 past its end (R179), and in the rest of the byte position in
which a staging was aborted (R69, log 16). -/
def Framing.outByte (f : Framing) : Byte := if f.skipping then 0 else f.out.headD 0

/-- R178, R179: what SDO of port `p` carries at the present byte position; `none` is high impedance. -/
def State.sdo (s : State) (p : Agent) : Option Byte :=
  if s.rstnLow then none
  else if !(s.frames[p]).csnLow then none
  else
    match (s.frames[p]).phase with
    | .idle => Config.sdoWhileIdle p
    | .request => some 0
    | .turnaround => some (s.frames[p]).outByte
    | .response => some (s.frames[p]).outByte

/-- R179: the bit on SDO of port `p`, most significant first; `none` is high impedance. -/
def State.sdoBit (s : State) (p : Agent) : Option Bool :=
  (s.sdo p).map (fun b => b.getLsbD (7 - (s.frames[p]).bitPos))

/-! ## Requests -/

/-- The start-up clear is in progress (R96, R103). -/
def State.starting (s : State) : Bool :=
  match s.engine with
  | .startUp _ => true
  | .idle => false
  | .clearing _ => false

/-- Port `p` is receiving a request: it stands in REQUEST with no staging loaded, and RSTN is high (R178). -/
def State.requestOpen (s : State) (p : Agent) : Bool :=
  !s.rstnLow && ((s.frames[p]).phase = .request) && (s.stagings[p]).isNone

/-- R122: the refusal of a transaction that a CLOSING caller may send. -/
def State.refuseOutsider (s : State) (p : Agent) : Option Result :=
  match (s.members[p]).state with
  | .offline => some .notJoined
  | .active => none
  | .closing => none
  | .fenced => some .fenced

/-- R122: the refusal of a transaction that only an ACTIVE caller may send. -/
def State.refuseInactive (s : State) (p : Agent) : Option Result :=
  match (s.members[p]).state with
  | .offline => some .notJoined
  | .active => none
  | .closing => some .closing
  | .fenced => some .fenced

/-! ## Consumers of a tick that are due (R112, log 4) -/

/-- The lease of agent `a` has reached 0 and the agent is not yet fenced (R130, R138). -/
def State.leaseOut (s : State) (a : Agent) : Bool := s.isMember a && (s.members[a]).leaseLeft == 0

/-- The window of the OPEN round has reached 0 and the round has not yet ended (R166). -/
def State.lapseDue (s : State) : Bool :=
  match s.voting with
  | none => false
  | some v => v.window == 0

/-- The postscale count has reached the postscale of the active table, and its completion, an age tick, has not been taken
(R107, R111). -/
def State.tickDue (s : State) : Bool := decide (s.table.postscale ≤ s.postscaleCount)

/-- A consumer of a tick. -/
inductive TickEvent where
  | pass
  | fence (a : Agent)
  | lapse
  deriving DecidableEq, Repr

/-- The consumers of the tick taken last that are still due. -/
def State.dueEvents (s : State) : List TickEvent :=
  (if s.passDue.isSome then [.pass] else []) ++ (agents.filter (fun a => s.leaseOut a)).map .fence ++
    (if s.lapseDue then [.lapse] else [])

end Sys2Proof.Machine
end

