-- ==== Sys2Proof/Machine/Ops.lean ====
section
/-! DEFINITION. The shared operations of the blocks: field updates, the cell store, notice offers, credit watches, the
apply, release, membership changes, voting, and the consumers of an age tick. -/

namespace Sys2Proof.Machine

/-! ## Field updates -/

/-- The membership record of agent `a` replaced. -/
def State.setMember (s : State) (a : Agent) (m : Member) : State := { s with members := s.members.set a m }

/-- The framing state of port `p` replaced. -/
def State.setFrame (s : State) (p : Agent) (f : Framing) : State := { s with frames := s.frames.set p f }

/-- The notice queue of agent `a` replaced. -/
def State.setNotices (s : State) (a : Agent) (q : List Notice) : State := { s with notices := s.notices.set a q }

/-- The OVERRUN latch of agent `a` replaced. -/
def State.setLatch (s : State) (a : Agent) (l : Option OverrunLatch) : State := { s with latches := s.latches.set a l }

/-- The snapshot of agent `a` replaced. -/
def State.setSnapshot (s : State) (a : Agent) (x : ClassSet) : State := { s with snapshots := s.snapshots.set a x }

/-- The watch of agent `a` in class `k` replaced. -/
def State.setWatch (s : State) (a : Agent) (k : MsgClass) (w : Option Nat) : State :=
  { s with watches := s.watches.set a ((s.watches[a]).set k w) }

/-- The inbound queue of agent `a` in class `k` replaced. -/
def State.setQueue (s : State) (a : Agent) (k : MsgClass) (q : List DescId) : State :=
  { s with queues := s.queues.set a ((s.queues[a]).set k q) }

/-- The hand slot of agent `a` in class `k` replaced. -/
def State.setHand (s : State) (a : Agent) (k : MsgClass) (h : Option DescId) : State :=
  { s with hands := s.hands.set a ((s.hands[a]).set k h) }

/-- Descriptor `d` replaced. -/
def State.setDesc (s : State) (d : DescId) (x : Descriptor) : State := { s with descs := s.descs.set d x }

/-- The staging context of port `p` replaced. -/
def State.setStaging (s : State) (p : Agent) (c : Option StagingContext) : State :=
  { s with stagings := s.stagings.set p c }

/-- The cell map record of cell `c` replaced. -/
def State.setCell (s : State) (c : CellId) (r : CellRecord) : State := { s with cellMap := s.cellMap.set c r }

/-! ## Responses (R181, R183) -/

/-- R181: the request phase on port `p` ends at byte position `len`; the turnaround, the result and the response data
wait to be shifted out. The last-result record is not touched. -/
def State.respondOnly (s : State) (p : Agent) (code : Byte) (len : Nat) (r : Result) (data : List Byte) : State :=
  s.setFrame p { s.frames[p] with
    phase := .turnaround, bytePos := len, opcode := some code,
    out := Config.turnaround :: r.code :: data, recordsLeft := 0,
    bitPos := 0, shiftIn := 0, received := [], skipping := false }

/-- R183: the last-result record of port `p` updated. -/
def State.record (s : State) (p : Agent) (code : Byte) (r : Result) (tag : Option Half) : State :=
  s.setFrame p { s.frames[p] with last := some ⟨code, r, tag⟩ }

/-- R181, R183: the request phase on port `p` ends with result `r`, which the last-result record takes. -/
def State.respond (s : State) (p : Agent) (code : Byte) (len : Nat) (r : Result) (data : List Byte)
    (tag : Option Half) : State :=
  (s.respondOnly p code len r data).record p code r tag

/-- The common frame of a transaction whose request phase of `len` bytes completes on port `p`: nothing where no
request is being received (R178), STARTING during the start-up clear (R103), the refusal `check` gives, else
`body`. -/
def State.transact (s : State) (p : Agent) (code : Byte) (len : Nat) (check : Option Result)
    (body : State) : State :=
  if s.requestOpen p then
    if s.starting then s.respondOnly p code len .starting []
    else
      match check with
      | some r => s.respond p code len r [] none
      | none => body
  else s

/-! ## Cell store (R1, R3, R5) -/

/-- Byte `b` written at address `a`; the canonical form is kept (a 0x00 byte is not listed). -/
def memWrite : Memory → Nat → Byte → Memory
  | [], a, b => if b = 0 then [] else [(a, b)]
  | (a', b') :: rest, a, b =>
    if a < a' then (if b = 0 then (a', b') :: rest else (a, b) :: (a', b') :: rest)
    else if a = a' then (if b = 0 then rest else (a, b) :: rest)
    else (a', b') :: memWrite rest a b

/-- R97: all bytes of cell `c` at 0x00. -/
def memClear (m : Memory) (c : CellId) : Memory :=
  m.filter (fun x => !(cellAddr c 0 ≤ x.1 && x.1 < cellAddr c 0 + Config.cellBytes))

/-- The canonical form above address `lo`: addresses rise strictly inside the cell store and no byte is 0x00. -/
def memWfFrom : Nat → Memory → Bool
  | _, [] => true
  | lo, (a, b) :: rest =>
    decide (lo ≤ a) && decide (a < Config.cellCount * Config.cellBytes) && b != 0 && memWfFrom (a + 1) rest

/-- The canonical form of the cell contents. -/
def memWf (m : Memory) : Bool := memWfFrom 0 m

/-- R8: the counts of a charge raised by `n` cells. -/
def UsedCounts.rise (u : UsedCounts) (c : Charge) (n : Nat) : UsedCounts :=
  match c with
  | .common a => { u with commonTotal := u.commonTotal + n, commonBy := u.commonBy.set a (u.commonBy[a] + n) }
  | .reserved a k =>
    { u with reserved := u.reserved.set a ((u.reserved[a]).set k ((u.reserved[a]).get k + n)) }

/-- R9: the count of a charge falls by one. -/
def UsedCounts.fall (u : UsedCounts) (c : Charge) : UsedCounts :=
  match c with
  | .common a => { u with commonTotal := u.commonTotal - 1, commonBy := u.commonBy.set a (u.commonBy[a] - 1) }
  | .reserved a k =>
    { u with reserved := u.reserved.set a ((u.reserved[a]).set k ((u.reserved[a]).get k - 1)) }

/-- R3, R5: the cells of a list bound to descriptor `d` in order, the first at position `pos`. -/
def State.bindCells (s : State) (c : Charge) (d : DescId) : Nat → List CellId → State
  | _, [] => s
  | pos, x :: rest => (s.setCell x (.bound c d pos)).bindCells c d (pos + 1) rest

/-- R3: a cell map record at release: it keeps its charge and loses descriptor and position. -/
def CellRecord.released : CellRecord → CellRecord
  | .awaitingClear => .awaitingClear
  | .free => .free
  | .bound c _ _ => .scrub c
  | .scrub c => .scrub c

/-- R96: where the engine is IDLE and the scrub queue holds cells, the clear of its head begins. -/
def State.startScrub (s : State) : State :=
  match s.engine, s.scrubQueue with
  | .idle, c :: _ => { s with engine := .clearing c, clearLeft := Config.scrubPeriods }
  | .idle, [] => s
  | .startUp _, _ => s
  | .clearing _, _ => s

/-- R42 step 2: the cells of a message appended to the scrub queue in cell-list order; an IDLE engine starts on the
first (R96). -/
def State.scrubCells (s : State) (cells : List CellId) : State :=
  let s1 := cells.foldl (fun t c => t.setCell c ((t.cellMap[c]).released)) s
  { s1 with scrubQueue := s1.scrubQueue ++ cells }.startScrub

/-! ## Notice offers (R144, R145) -/

/-- The count of an OVERRUN record raised by one, saturating (R144 test 2). -/
def bumpOverrun : Notice → Notice
  | .overrun n => .overrun (min Config.overrunMax (n + 1))
  | n => n

/-- The last record of a queue under `f`. -/
def mapLast (f : Notice → Notice) : List Notice → List Notice
  | [] => []
  | [n] => [f n]
  | n :: m :: rest => n :: mapLast f (m :: rest)

/-- Whether a record is OVERRUN. -/
def Notice.isOverrun (n : Notice) : Bool :=
  match n with
  | .overrun _ => true
  | _ => false

/-- Whether a queue ends in OVERRUN (R144 test 2). -/
def endsInOverrun (q : List Notice) : Bool :=
  match q.getLast? with
  | some n => n.isOverrun
  | none => false

/-- R144 test 2, R151: an offer folded into the OVERRUN record at the tail; while that record is being shifted out, it
is counted apart from the latched count. -/
def State.foldOffer (s : State) (a : Agent) : State :=
  match s.latches[a] with
  | none => s.setNotices a (mapLast bumpOverrun s.notices[a])
  | some l => s.setLatch a (some { l with since := min Config.overrunMax (l.since + 1) })

/-- R144: a notice offered to agent `a`. -/
def State.offer (s : State) (a : Agent) (n : Notice) : State :=
  if s.isMember a then
    if endsInOverrun s.notices[a] then s.foldOffer a
    else if (s.notices[a]).length < Config.openRecords then s.setNotices a (s.notices[a] ++ [n])
    else s.setNotices a (s.notices[a] ++ [.overrun 1])
  else s

/-- A notice offered to each agent of a list. -/
def State.offerAll (s : State) (receivers : List Agent) (n : Notice) : State := receivers.foldl (fun t a => t.offer a n) s

/-- R123: a peer notice about agent `a` offered to every other agent; those neither ACTIVE nor CLOSING drop it. -/
def State.offerPeers (s : State) (a : Agent) (n : Notice) : State :=
  s.offerAll (agents.filter (fun b => b ≠ a)) n

/-- R145: a record placed in the notice queue of agent `a`, without the tests of R144. -/
def State.place (s : State) (a : Agent) (n : Notice) : State := s.setNotices a (s.notices[a] ++ [n])

/-- R143: the notice queue of agent `a` cleared, with the latch of a readout of it. -/
def State.clearNotices (s : State) (a : Agent) : State := (s.setNotices a []).setLatch a none

/-! ## Credit watches (R18 to R22) -/

/-- R22: the watch of agent `a` in class `k` tested against the credit level, and fired where the level reaches its
threshold. -/
def State.testWatch (s : State) (a : Agent) (k : MsgClass) : State :=
  match (s.watches[a]).get k with
  | none => s
  | some t =>
    if t ≤ s.creditLevel a k then (s.offer a (.credit k (s.creditLevel a k))).setWatch a k none else s

/-- The three watches of agent `a` tested in class rank order (R22). -/
def State.testWatchesOf (s : State) (a : Agent) : State := classes.foldl (fun t k => t.testWatch a k) s

/-- R21: every ARMED watch of every agent evaluated. -/
def State.evaluateWatches (s : State) : State := agents.foldl (fun t a => t.testWatchesOf a) s

/-- R18: the three watches of agent `a` DISARMED, without notice. -/
def State.disarm (s : State) (a : Agent) : State := { s with watches := s.watches.set a (.all none) }

/-! ## The apply (R110, R172, R173) -/

/-- R173: the epoch advanced by one, from 65535 to 1. -/
def epochAfter (e : Half) : Half := if e = 0xFFFF then 1 else e + 1

/-- R110: the age clock's three counts at 0. -/
def State.restartClock (s : State) : State := { s with prescaleCount := 0, periodCount := 0, postscaleCount := 0 }

/-- R173: table `t` becomes active. -/
def State.applyTable (s : State) (t : Table) : State :=
  let s1 := { s with table := t, epoch := epochAfter s.epoch, slot := none }.restartClock
  (s1.offerAll agents (.configApplied s1.epoch)).evaluateWatches

/-- R172: the fit test, where the slot is HELD; a test that passes applies the table. -/
def State.runFitTest (s : State) : State :=
  match s.slot with
  | none => s
  | some h => if s.fits h.table then s.applyTable h.table else s

/-- R98 step 6, R99: the fit test of a scrub completion, then its watch evaluation, which is the apply's own where the
table applies. -/
def State.fitThenWatches (s : State) : State :=
  match s.slot with
  | none => s.evaluateWatches
  | some h => if s.fits h.table then s.applyTable h.table else s.evaluateWatches

/-- R170: a committed table placed in the pending slot; it applies at once where it fits. -/
def State.commit (s : State) (t : Table) (number : Byte) : State :=
  { s with slot := some ⟨t, number⟩ }.fitThenWatches

/-! ## A port reaching OFFLINE (R135, R136, R152) -/

/-- R184: what a zero-fill leaves of a response: the bits of a byte partly shifted that have gone, with 0 for the rest; of a
byte that has not begun nothing. -/
def Framing.zeroFilled (f : Framing) : Framing :=
  let partly := if 0 < f.bitPos && !f.skipping then (f.out.take 1).map (keepFirstBits f.bitPos) else []
  { f with out := partly, recordsLeft := 0 }

/-- R139: every byte of the response of port `p` not yet shifted out becomes 0x00. -/
def State.zeroFill (s : State) (p : Agent) : State :=
  match (s.frames[p]).phase with
  | .idle => s
  | .request => s
  | .turnaround => s.setFrame p (s.frames[p]).zeroFilled
  | .response => s.setFrame p (s.frames[p]).zeroFilled

/-- R152: the zero-fill of a NOTICES readout whose caller reaches OFFLINE. -/
def State.zeroFillReadout (s : State) (p : Agent) : State :=
  if (s.frames[p]).opcode = some codeNotices then s.zeroFill p else s

/-- R136 steps 1 to 3: agent `a` reaches OFFLINE. -/
def State.goOffline (s : State) (a : Agent) : State :=
  let s1 := s.setMember a { s.members[a] with state := .offline, leaseLeft := 0 }
  (((s1.clearNotices a).setSnapshot a (.all false)).zeroFillReadout a).disarm a

/-- R135: the drain test of agent `a`, with R136 where it passes. -/
def State.drainTest (s : State) (a : Agent) : State :=
  if (s.members[a]).state = .closing && s.holdsNothing a then (s.goOffline a).offerPeers a (.peerLeft a) else s

/-! ## Release (R42 to R44) -/

/-- The removal paths of a message (R43). -/
inductive RemovalPath where
  | acked
  | rejected
  | expired
  | discarded
  | recalled
  | unadmitted
  deriving DecidableEq, Repr

/-- R43: the notice offered to the source at the release of an admitted message. -/
def removalNotice (path : RemovalPath) (m : Message) (adm : Admission) : Option Notice :=
  match path with
  | .acked => if m.receipt then some (.delivered m.dest m.cls adm.tag) else none
  | .rejected => some (.rejected m.dest m.cls adm.tag)
  | .expired => some (.expired m.dest m.cls adm.tag)
  | .discarded => some (.discarded m.dest m.cls adm.tag)
  | .recalled => none
  | .unadmitted => none

/-- An optional notice offered to agent `a`. -/
def State.offerOptional (s : State) (a : Agent) : Option Notice → State
  | none => s
  | some n => s.offer a n

/-- R42 steps 2 and 3: the cells of message `m` enter the scrub queue, its descriptor becomes FREE and its source's count
of descriptors in use falls. -/
def State.dropRecord (s : State) (d : DescId) (m : Message) : State :=
  let s1 := (s.scrubCells m.cells).setDesc d .free
  { s1 with inUse := s1.inUse.set m.source (s1.inUse[m.source] - 1) }

/-- R42 steps 2 to 6 for an admitted message that has left its queue or hand slot. -/
def State.finishRelease (s : State) (d : DescId) (m : Message) (adm : Admission) (path : RemovalPath) : State :=
  (((s.dropRecord d m).offerOptional m.source (removalNotice path m adm)).drainTest m.dest).runFitTest

/-- R42, R44: the release of the message of descriptor `d` on a removal path. -/
def State.release (s : State) (d : DescId) (path : RemovalPath) : State :=
  match s.descs[d] with
  | .free => s
  | .staging m => (s.dropRecord d m).runFitTest
  | .queued m adm =>
    (s.setQueue m.dest m.cls (((s.queues[m.dest]).get m.cls).filter (fun x => x ≠ d))).finishRelease d m adm path
  | .inHand m adm => (s.setHand m.dest m.cls none).finishRelease d m adm path

/-- The messages of several descriptors released one after another (R42). -/
def State.releaseAll (s : State) (ds : List DescId) (path : RemovalPath) : State :=
  ds.foldl (fun t d => t.release d path) s

/-! ## Hand slots (R40, R75, R84 to R86) -/

/-- The message in the hand slot of agent `a` in class `k` (R38). -/
def State.handMessage (s : State) (a : Agent) (k : MsgClass) : Option (DescId × Message × Admission) :=
  match (s.hands[a]).get k with
  | none => none
  | some d =>
    match s.descs[d] with
    | .free => none
    | .staging _ => none
    | .queued _ _ => none
    | .inHand m adm => some (d, m, adm)

/-- R85: the in-hand message of descriptor `d` returned to the head of its queue with its raised count. -/
def State.returnToQueue (s : State) (d : DescId) (m : Message) (adm : Admission) : State :=
  let s1 := (s.setHand m.dest m.cls none).setDesc d (.queued { m with redeliveries := m.redeliveries + 1 } adm)
  s1.setQueue m.dest m.cls (d :: (s1.queues[m.dest]).get m.cls)

/-- R84: whether a return of message `m` passes the redelivery limit of its class in the active table. -/
def State.pastLimit (s : State) (m : Message) : Bool := s.table.redelivery.get m.cls < m.redeliveries + 1

/-- R84 to R86: the in-hand message of descriptor `d` returned, or rejected past the limit. -/
def State.returnOrReject (s : State) (d : DescId) (m : Message) (adm : Admission) : State :=
  if s.pastLimit m then s.release d .rejected else s.returnToQueue d m adm

/-- R40: the hand slot of agent `a` in class `k` at a rejoin. -/
def State.rejoinReturnOf (s : State) (a : Agent) (k : MsgClass) : State :=
  match s.handMessage a k with
  | none => s
  | some (d, m, adm) => s.returnOrReject d m adm

/-- R40: the rejoin return of agent `a`, in class rank order. -/
def State.rejoinReturn (s : State) (a : Agent) : State := classes.foldl (fun t k => t.rejoinReturnOf a k) s

/-! ## Voting (R163 to R170) -/

/-- The members of a set of agents, lowest number first. -/
def setMembers (x : AgentSet) : List Agent := agents.filter (fun a => x[a])

/-- R168: the round of proposal `v` ends. -/
def State.endRound (s : State) (v : Proposal) (o : RoundOutcome) (vetoer : Option Agent) : State :=
  let told := agents.filter (fun a => a = v.proposer || v.required[a])
  let s1 := { s.offerAll told (.proposalClosed vetoer v.number o) with voting := none }
  match o with
  | .committed => s1.commit v.table v.number
  | .rejected => s1
  | .lapsed => s1
  | .withdrawn => s1

/-- R164: the all-consented test of the OPEN round. -/
def State.testConsents (s : State) : State :=
  match s.voting with
  | none => s
  | some v => if v.consented = v.required then s.endRound v .committed none else s

/-- R167: agent `a` has left ACTIVE. -/
def State.leaveRound (s : State) (a : Agent) : State :=
  match s.voting with
  | none => s
  | some v =>
    if v.proposer = a then s.endRound v .withdrawn none
    else if v.required[a] then
      { s with voting := some { v with
          required := v.required.set a false, consented := v.consented.set a false } }.testConsents
    else s

/-! ## The consumers of an age tick (R112) -/

/-- The QUEUED messages of agent `a` in class `k`, head to tail, whose age is at or over the class's lifetime, where it
has one (R114). -/
def State.expiredIn (s : State) (life : PerClass Nat) (a : Agent) (k : MsgClass) : List DescId :=
  if life.get k = 0 then []
  else
    ((s.queues[a]).get k).filter (fun d =>
      match s.descs[d] with
      | .free => false
      | .staging _ => false
      | .queued _ adm => life.get k ≤ s.age adm
      | .inHand _ _ => false)

/-- R114: every message an expiry pass releases, in the order of the pass. -/
def State.expiredAll (s : State) (life : PerClass Nat) : List DescId :=
  agents.flatMap (fun a => classes.flatMap (fun k => s.expiredIn life a k))

/-- R114, R116: the expiry pass of the tick taken last, with the lifetimes that stood when the tick was taken. -/
def State.takePass (s : State) : State :=
  match s.passDue with
  | none => s
  | some life => { s with passDue := none }.releaseAll (s.expiredAll life) .expired

/-- R69: port `a` after an abort in the middle of a byte: the turnaround begins at the next byte position. -/
def State.skipRest (s : State) (a : Agent) (bits : Nat) : State :=
  s.setFrame a { s.frames[a] with bitPos := bits, skipping := decide (0 < bits) }

/-- R69: the abort of a staging on the port of a fenced agent. -/
def State.abortStaging (s : State) (a : Agent) : State :=
  match s.stagings[a] with
  | none => s
  | some c =>
    let s1 := (s.release c.desc .unadmitted).setStaging a none
    (s1.respond a codePost ((s1.frames[a]).bytePos) .fenced [] none).skipRest a (s.frames[a]).bitPos

/-- R41: the messages destined to agent `a`, in the order of the discard. -/
def State.heldFor (s : State) (a : Agent) : List DescId :=
  classes.filterMap (fun k => (s.hands[a]).get k) ++ classes.flatMap (fun k => (s.queues[a]).get k)

/-- R41, R140: the discard of every message destined to agent `a`. -/
def State.discard (s : State) (a : Agent) : State :=
  let ds := s.heldFor a
  let s1 := s.releaseAll ds .discarded
  s1.setMember a { s1.members[a] with discards := min Config.discardMax ((s1.members[a]).discards + ds.length) }

/-- R138, R139: the fencing of agent `a`. -/
def State.fence (s : State) (a : Agent) : State :=
  let s1 := (s.setMember a { s.members[a] with state := .fenced, leaseLeft := 0 }).zeroFill a
  let s2 := (s1.abortStaging a).discard a
  let s3 := ((s2.clearNotices a).setSnapshot a (.all false)).disarm a
  (s3.leaveRound a).offerPeers a (.peerFenced a)

/-- R130, R138: the fencing of agent `a` where its lease has reached 0. -/
def State.takeFencing (s : State) (a : Agent) : State := if s.leaseOut a then s.fence a else s

/-- R166: the lapse of the OPEN round where its window has reached 0. -/
def State.takeLapse (s : State) : State :=
  match s.voting with
  | none => s
  | some v => if v.window = 0 then s.endRound v .lapsed none else s

/-- One consumer of a tick taken. -/
def State.takeEvent (s : State) : TickEvent → State
  | .pass => s.takePass
  | .fence a => s.takeFencing a
  | .lapse => s.takeLapse

/-- The due consumers taken one after another, at most `fuel` of them. Where more than one is due the free value
Config.tickOrder says which is first (R112: no order among themselves). -/
def State.settleSome : Nat → State → State
  | 0, s => s
  | fuel + 1, s =>
    match s.dueEvents with
    | [] => s
    | [e] => State.settleSome fuel (s.takeEvent e)
    | e :: f :: rest =>
      let i := Config.tickOrder s.choices % (rest.length + 2)
      State.settleSome fuel ({ s with choices := s.choices + 1 }.takeEvent ((e :: f :: rest).getD i e))

/-- Every consumer of the tick taken last that is still due is taken, before another command is (R112, R130, log 4). There
are at most six: the pass, four fencings and the lapse. -/
def State.settle (s : State) : State := s.settleSome 6

end Sys2Proof.Machine
end

