-- ==== Sys2Proof/Machine/Port.lean ====
section
/-! DEFINITION. Framing of the agent ports, BADOP, IDENT and STATUS (chapter 10). -/

namespace Sys2Proof.Machine

/-- R178: a falling edge of CSN of port `p`. A port that is IDLE starts a transaction, unless RSTN is low. -/
def State.fallCsn (s : State) (p : Agent) : State :=
  let f := s.frames[p]
  if f.csnLow then s
  else if s.rstnLow then s.setFrame p { f with csnLow := true }
  else
    match f.phase with
    | .idle =>
      s.setFrame p { f with
        csnLow := true, phase := .request, bytePos := 0, opcode := none, out := [], recordsLeft := 0,
        bitPos := 0, shiftIn := 0, received := [], skipping := false }
    | .request => s.setFrame p { f with csnLow := true }
    | .turnaround => s.setFrame p { f with csnLow := true }
    | .response => s.setFrame p { f with csnLow := true }

/-- CSN_FALL (R178). -/
def execCsnFall (p : Agent) (s : State) : StepResult := .next (s.settle.fallCsn p)

/-- R67: the cut of a staging loaded on port `p`: the message is released without notice and the last-result record
takes POST and CUT. -/
def State.cutStaging (s : State) (p : Agent) : State :=
  match s.stagings[p] with
  | none => s
  | some c => ((s.release c.desc .unadmitted).setStaging p none).record p codePost .cut none

/-- An OVERRUN record with another count. -/
def withOverrunCount (n : Nat) : Notice → Notice
  | .overrun _ => .overrun n
  | x => x

/-- R151: a readout of the notice queue of agent `a` ends inside its OVERRUN record, which keeps the latched count plus
the offers folded in since. -/
def State.unlatch (s : State) (a : Agent) : State :=
  match s.latches[a] with
  | none => s
  | some l =>
    (s.setNotices a
      (mapLast (withOverrunCount (min Config.overrunMax (l.latched + l.since))) s.notices[a])).setLatch a none

/-- R178, R182: port `p` returned to IDLE with CSN high; a partly exchanged byte is discarded, and the last-result record
stays. -/
def State.idlePort (s : State) (p : Agent) : State :=
  s.setFrame p { s.frames[p] with
    csnLow := false, phase := .idle, bytePos := 0, opcode := none, out := [], recordsLeft := 0,
    bitPos := 0, shiftIn := 0, received := [], skipping := false }

/-- R182: a rising edge of CSN of port `p`. -/
def State.raiseCsn (s : State) (p : Agent) : State :=
  if !(s.frames[p]).csnLow then s
  else if s.rstnLow then s.setFrame p { s.frames[p] with csnLow := false }
  else ((s.cutStaging p).unlatch p).idlePort p

/-- CSN_RISE (R182, R67, R151). -/
def execCsnRise (p : Agent) (s : State) : StepResult := .next (s.settle.raiseCsn p)

/-- R180: a first byte on port `p` that is no transaction code. -/
def State.unknownOpcode (s : State) (p : Agent) (code : Byte) : State :=
  if isTransactionCode code then s
  else s.transact p code 1 none (s.respond p code 1 .badop [] none)

/-- BADOP (R180). A byte that is a transaction code is no BADOP: nothing changes. -/
def execBadop (p : Agent) (code : Byte) (s : State) : StepResult := .next (s.settle.unknownOpcode p code)

/-- The response data of IDENT (R186, R190). -/
def identBytes (p : Agent) : List Byte :=
  [Config.vendorCode] ++ bytes16 Config.partCode ++ [Config.revision, agentCode p]

/-- R186: IDENT is answered in every state, the start-up clear included, and leaves the last-result record. -/
def State.answerIdent (s : State) (p : Agent) : State :=
  if s.requestOpen p then s.respondOnly p codeIdent 1 .ok (identBytes p) else s

/-- IDENT (R186). -/
def execIdent (p : Agent) (s : State) : StepResult := .next (s.settle.answerIdent p)

/-- The last-result record on the wire: opcode, result and tag, zeros while it is empty (R183, R190). -/
def lastResultBytes : Option LastResult → List Byte
  | none => [0, 0, 0, 0]
  | some l => [l.opcode, l.result.code] ++ bytes16 (l.tag.getD 0)

/-- R177: the proposal number STATUS reports. -/
def State.reportedProposal (s : State) : Byte :=
  match s.voting with
  | none => s.lastProposal
  | some v => v.number

/-- R177: bits required and consented of agent `p` in the OPEN round. -/
def State.standingBits (s : State) (p : Agent) : Byte :=
  match s.voting with
  | none => 0
  | some v => (if v.required[p] then 1 else 0) ||| (if v.consented[p] then 2 else 0)

/-- The 26 response bytes of STATUS to agent `p` (R187, R190). -/
def State.statusBytes (s : State) (p : Agent) : List Byte :=
  let m := s.members[p]
  [m.state.code] ++ bytes16Of m.leasePeriod ++ bytes16Of m.leaseLeft ++ bytes16Of m.discards ++
    bytes16Of (s.creditLevel p .express) ++ bytes16Of (s.creditLevel p .standard) ++
    bytes16Of (s.creditLevel p .bulk) ++ [byteOf s.inUse[p]] ++ lastResultBytes (s.frames[p]).last ++
    bytes16 s.epoch ++ [votingCode s.voting, s.reportedProposal, s.standingBits p, slotCode s.slot] ++
    bytes16 (s.ticks.extractLsb' 0 16)

/-- R187: STATUS is accepted in every port state after the start-up clear and leaves the last-result record. -/
def State.answerStatus (s : State) (p : Agent) : State :=
  s.transact p codeStatus 1 none (s.respondOnly p codeStatus 1 .ok (s.statusBytes p))

/-- STATUS (R187). -/
def execStatus (p : Agent) (s : State) : StepResult := .next (s.settle.answerStatus p)

end Sys2Proof.Machine
end

