-- ==== Sys2Proof/Machine/Notices.lean ====
section
/-! DEFINITION. NOTICES, the removal of shifted-out records, the OVERRUN latch, and SUMMARY (chapter 8). -/

namespace Sys2Proof.Machine

/-! ## NOTICES -/

/-- R149: the number of records a readout returns. -/
def State.readoutCount (s : State) (p : Agent) (max : Byte) : Nat := min max.toNat (s.notices[p]).length

/-- R149: NOTICES past the caller-state check: a count and that many records from the head of the queue. -/
def State.noticesBy (s : State) (p : Agent) (max : Byte) : State :=
  if max.toNat = 0 || 16 < max.toNat then s.respond p codeNotices 2 .badarg [] none
  else
    let n := s.readoutCount p max
    let s1 := s.respond p codeNotices 2 .ok
      (byteOf n :: ((s.notices[p]).take n).flatMap Notice.record) none
    s1.setFrame p { s1.frames[p] with recordsLeft := n }

/-- R149: NOTICES on port `p`. -/
def State.answerNotices (s : State) (p : Agent) (max : Byte) : State :=
  s.transact p codeNotices 2 (s.refuseOutsider p) (s.noticesBy p max)

/-- NOTICES (R149). -/
def execNotices (p : Agent) (max : Byte) (s : State) : StepResult := .next (s.settle.answerNotices p max)

/-! ## The readout of records -/

/-- Port `p` is shifting out, or about to shift out, a response (R178). -/
def State.answering (s : State) (p : Agent) : Bool :=
  !s.rstnLow &&
    (match (s.frames[p]).phase with
    | .idle => false
    | .request => false
    | .turnaround => true
    | .response => true)

/-- The response of port `p` shifted out until `left` of its bytes are to come (R178). -/
def State.shiftUntil (s : State) (p : Agent) (left : Nat) : State :=
  let f := s.frames[p]
  let n := f.out.length - left
  s.setFrame p { f with phase := .response, bytePos := f.bytePos + n, out := f.out.drop n, bitPos := 0 }

/-- R150, R151: the head record of the queue of agent `a` leaves it, or stays as OVERRUN with the offers folded in since
its latch. -/
def State.removeHead (s : State) (a : Agent) : State :=
  match s.latches[a] with
  | none => s.setNotices a (s.notices[a]).tail
  | some l =>
    if l.since = 0 then (s.setNotices a (s.notices[a]).tail).setLatch a none
    else (s.setNotices a (mapLast (withOverrunCount l.since) s.notices[a])).setLatch a none

/-- R150: the last byte of the record being read out on port `p` has been shifted out. -/
def State.removeRecord (s : State) (p : Agent) : State :=
  let f := s.frames[p]
  if s.answering p && 0 < f.recordsLeft then
    let s1 := s.shiftUntil p (recordBytes * (f.recordsLeft - 1))
    (s1.setFrame p { s1.frames[p] with recordsLeft := f.recordsLeft - 1 }).removeHead p
  else s

/-- NOTICE_RECORD_REMOVAL (R150). Where no record is being read out, nothing changes (log 2). -/
def execNoticeRecordRemoval (p : Agent) (s : State) : StepResult := .next (s.settle.removeRecord p)

/-- The first bit of the last record of a response has not been exchanged. -/
def Framing.beforeLastRecord (f : Framing) : Bool :=
  recordBytes < f.out.length || (f.out.length == recordBytes && f.bitPos == 0)

/-- The count of the OVERRUN record that the readout of port `p` comes to next, not latched before (R151). -/
def State.latchable (s : State) (p : Agent) : Option Nat :=
  let f := s.frames[p]
  if s.answering p && f.recordsLeft == 1 && f.beforeLastRecord && (s.latches[p]).isNone then
    match (s.notices[p]).head? with
    | some (.overrun n) => some n
    | _ => none
  else none

/-- R151: the first bit of the OVERRUN record of the readout of port `p` is driven: its count is latched for
output. -/
def State.latchOverrun (s : State) (p : Agent) : State :=
  match s.latchable p with
  | none => s
  | some n =>
    let s1 := s.shiftUntil p recordBytes
    (s1.setFrame p { s1.frames[p] with out := (Notice.overrun n).record }).setLatch p (some ⟨n, 0⟩)

/-- OVERRUN_LATCH (R151). Where no OVERRUN record comes next, nothing changes (log 2). -/
def execOverrunLatch (p : Agent) (s : State) : StepResult := .next (s.settle.latchOverrun p)

/-! ## SUMMARY -/

/-- The response data of SUMMARY to agent `p` (R154, R190). -/
def State.summaryBytes (s : State) (p : Agent) : List Byte :=
  [classSetCode (s.summary p)] ++ classes.map (fun k => byteOf ((s.queues[p]).get k).length) ++
    [classSetCode ⟨(s.hands[p]).express.isSome, (s.hands[p]).standard.isSome, (s.hands[p]).bulk.isSome⟩,
      byteOf (s.notices[p]).length]

/-- R154: SUMMARY on port `p`; the snapshot is set equal to the summary. -/
def State.answerSummary (s : State) (p : Agent) : State :=
  s.transact p codeSummary 1 (s.refuseOutsider p)
    ((s.setSnapshot p (s.summary p)).respond p codeSummary 1 .ok (s.summaryBytes p) none)

/-- SUMMARY (R154). -/
def execSummary (p : Agent) (s : State) : StepResult := .next (s.settle.answerSummary p)

end Sys2Proof.Machine
end

