-- ==== Sys2Proof/Machine/Posting.lean ====
section
/-! DEFINITION. POST: the header judgement, staging, the staged bytes, and the last check byte (chapter 3). -/

namespace Sys2Proof.Machine

/-- The outcome of a header judgement (R52). -/
inductive HeaderJudgement where
  | refused (r : Result)
  | accepted (d : DescId) (m : Message)
  deriving DecidableEq, Repr

/-- The receipt flag of a POST (R188: bit 0). -/
def wantsReceipt (flags : Byte) : Bool := flags.getLsbD 0

/-- The correlation-present flag of a POST (R188: bit 1). -/
def hasCorrelation (flags : Byte) : Bool := flags.getLsbD 1

/-- A reserved flag bit, 7 to 2, is 1 (R52 step 3). -/
def reservedFlagSet (flags : Byte) : Bool := flags.extractLsb' 2 6 != 0

/-- R52 step 6: the refusal of a destination by its port state. -/
def State.refuseDest (s : State) (d : Agent) : Option Result :=
  match (s.members[d]).state with
  | .offline => some .peerAbsent
  | .active => none
  | .closing => some .peerClosing
  | .fenced => some .peerAbsent

/-- R52 step 7, R54: the caller is at or above its descriptor limit in the active table, or in the held one. -/
def State.atDescLimit (s : State) (p : Agent) : Bool :=
  decide (s.table.descLimit[p] ≤ s.inUse[p]) ||
    (match s.slot with
    | none => false
    | some h => decide (h.table.descLimit[p] ≤ s.inUse[p]))

/-- The message a header stages (R28): its cells are the first of the free list (R5). -/
def State.stagedMessage (s : State) (p dest : Agent) (k : MsgClass) (flags : Byte) (len : Nat) (c : Charge) :
    Message where
  source := p
  dest := dest
  cls := k
  length := len
  cells := s.freeList.take (cellsFor len)
  charge := c
  redeliveries := 0
  receipt := wantsReceipt flags
  corr := if hasCorrelation flags then .awaited else .absent

/-- R52 steps 7 and 8, R28. -/
def State.judgeRoom (s : State) (p dest : Agent) (k : MsgClass) (flags : Byte) (len : Nat) : HeaderJudgement :=
  match s.freeDesc with
  | none => .refused .noSlot
  | some d =>
    if s.atDescLimit p then .refused .noSlot
    else
      match s.judgeCredit p k (cellsFor len) with
      | none => .refused .noCredit
      | some c => .accepted d (s.stagedMessage p dest k flags len c)

/-- R52 steps 3 to 8. -/
def State.judgeHeader (s : State) (p : Agent) (dest cls flags : Byte) (len : Nat) : HeaderJudgement :=
  match classOfCode cls with
  | none => .refused .badarg
  | some k =>
    if reservedFlagSet flags then .refused .badarg
    else
      match agentOfCode dest with
      | none => .refused .baddest
      | some d =>
        if d = p then .refused .baddest
        else if len = 0 || maxLength k < len then .refused .badlen
        else
          match s.refuseDest d with
          | some r => .refused r
          | none => s.judgeRoom p d k flags len

/-- R57: the staging context loaded at acceptance. -/
def loadedContext (d : DescId) (flags : Byte) : StagingContext where
  desc := d
  corrToCome := if hasCorrelation flags then 4 else 0
  corrBytes := 0
  payloadReceived := 0
  checkReceived := 0
  checkRegister := Config.checkInit
  checkHigh := none

/-- R56: message `m` staged in descriptor `d`; every armed watch is evaluated after the counts have risen (R21). -/
def State.stage (s : State) (p : Agent) (d : DescId) (m : Message) (flags : Byte) : State :=
  let n := cellsFor m.length
  let s1 := (s.bindCells m.charge d 0 m.cells).setDesc d (.staging m)
  let s2 := { s1 with
    freeList := s1.freeList.drop n
    used := s1.used.rise m.charge n
    inUse := s1.inUse.set p (s1.inUse[p] + 1) }
  let s3 := s2.setStaging p (some (loadedContext d flags))
  (s3.setFrame p { s3.frames[p] with
    bytePos := 6, opcode := some codePost, bitPos := 0, shiftIn := 0, received := [] }).evaluateWatches

/-- R52, R55, R56: the header of a POST on port `p`. -/
def State.answerHeader (s : State) (p : Agent) (dest cls flags : Byte) (len : Half) : State :=
  s.transact p codePost 6 (s.refuseInactive p)
    (match s.judgeHeader p dest cls flags len.toNat with
    | .refused r => s.respond p codePost 6 r [] none
    | .accepted d m => s.stage p d m flags)

/-- POST_HEADER (R52). -/
def execPostHeader (p : Agent) (dest cls flags : Byte) (len : Half) (s : State) : StepResult :=
  .next (s.settle.answerHeader p dest cls flags len)

/-- The byte position of port `p` advanced by one (R178). -/
def State.advanceByte (s : State) (p : Agent) : State :=
  s.setFrame p { s.frames[p] with bytePos := (s.frames[p]).bytePos + 1, bitPos := 0, shiftIn := 0 }

/-- R59: a correlation byte received. -/
def State.takeCorrByte (s : State) (p : Agent) (c : StagingContext) (m : Message) (b : Byte) : State :=
  let w : Word := (c.corrBytes <<< 8) ||| b.zeroExtend 32
  let s1 := if c.corrToCome = 1 then s.setDesc c.desc (.staging { m with corr := .word w }) else s
  (s1.setStaging p (some { c with
    corrToCome := c.corrToCome - 1, corrBytes := w, checkRegister := checkByte c.checkRegister b })).advanceByte p

/-- R60: payload byte `j` of message `m` written into its cell. -/
def State.writePayload (s : State) (m : Message) (j : Nat) (b : Byte) : State :=
  match m.cells[j / Config.cellBytes]? with
  | none => s
  | some x => { s with mem := memWrite s.mem (cellAddr x (j % Config.cellBytes)) b }

/-- R60: a payload byte received. -/
def State.takePayloadByte (s : State) (p : Agent) (c : StagingContext) (m : Message) (b : Byte) : State :=
  ((s.writePayload m c.payloadReceived b).setStaging p (some { c with
    payloadReceived := c.payloadReceived + 1, checkRegister := checkByte c.checkRegister b })).advanceByte p

/-- R62: the first check byte received. -/
def State.takeCheckHigh (s : State) (p : Agent) (c : StagingContext) (b : Byte) : State :=
  (s.setStaging p (some { c with checkReceived := 1, checkHigh := some b })).advanceByte p

/-- The next byte of a staging is its last check byte (R62, R63). -/
def StagingContext.atLastCheck (c : StagingContext) (m : Message) : Bool :=
  !(0 < c.corrToCome || c.payloadReceived < m.length || c.checkReceived != 1)

/-- The staging loaded on port `p`, with its message, while RSTN is high (R57). -/
def State.loadedStaging (s : State) (p : Agent) : Option (StagingContext × Message) :=
  if s.rstnLow then none
  else
    match s.stagings[p] with
    | none => none
    | some c =>
      match s.descs[c.desc] with
      | .free => none
      | .staging m => some (c, m)
      | .queued _ _ => none
      | .inHand _ _ => none

/-- R58: a byte received while a staging is loaded, before the last check byte. -/
def State.takeStagingByte (s : State) (p : Agent) (b : Byte) : State :=
  match s.loadedStaging p with
  | none => s
  | some (c, m) =>
    if 0 < c.corrToCome then s.takeCorrByte p c m b
    else if c.payloadReceived < m.length then s.takePayloadByte p c m b
    else if c.checkReceived = 0 then s.takeCheckHigh p c b
    else s

/-- POST_STAGING_BYTE (R58). Where the next byte is the last check byte, or no staging is loaded, this is not that
event: nothing changes (log 2). -/
def execPostStagingByte (p : Agent) (b : Byte) (s : State) : StepResult := .next (s.settle.takeStagingByte p b)

/-- R30, R31: the staged message of descriptor `d` admitted with tag `t`. -/
def State.admitMessage (s : State) (d : DescId) (m : Message) (t : Half) : State :=
  let s1 := s.setDesc d (.queued m ⟨t, s.ticks⟩)
  let s2 := s1.setQueue m.dest m.cls ((s1.queues[m.dest]).get m.cls ++ [d])
  { s2 with nextTag := s2.nextTag.set m.source (tagAfter t) }

/-- R63: the staging of port `p` ended without admission. -/
def State.endStaging (s : State) (p : Agent) (c : StagingContext) (r : Result) : State :=
  let pos := (s.frames[p]).bytePos + 1
  ((s.release c.desc .unadmitted).setStaging p none).respond p codePost pos r [] none

/-- R63, R64: the staging of port `p` ended by admission. -/
def State.admitStaging (s : State) (p : Agent) (c : StagingContext) (m : Message) : State :=
  let t := s.assignTag m.source
  let pos := (s.frames[p]).bytePos + 1
  ((s.admitMessage c.desc m t).setStaging p none).respond p codePost pos .ok (bytes16 t ++ [m.charge.code]) (some t)

/-- R63: the last check byte received. -/
def State.takeLastCheck (s : State) (p : Agent) (b : Byte) : State :=
  match s.loadedStaging p with
  | none => s
  | some (c, m) =>
    if !c.atLastCheck m then s
    else if half (c.checkHigh.getD 0) b ≠ c.checkRegister then s.endStaging p c .badcheck
    else if (s.members[m.dest]).state ≠ .active then s.endStaging p c .peerGone
    else s.admitStaging p c m

/-- POST_LAST_CHECK_BYTE (R63). Where the next byte is not the last check byte this is not that event: nothing changes
(log 2). -/
def execPostLastCheckByte (p : Agent) (b : Byte) (s : State) : StepResult := .next (s.settle.takeLastCheck p b)

end Sys2Proof.Machine
end

