-- ==== Sys2Proof/Machine/Clock.lean ====
section
/-! DEFINITION. The age tick and its consumers (chapters 6, 7 and 9), and what a step on an empty queue is: one period of
REFCLK or of the SCK of a port (chapters 6 and 10). -/

namespace Sys2Proof.Machine

/-! ## The age tick -/

/-- R130: a membership record at an age tick. -/
def Member.lowered (m : Member) : Member :=
  match m.state with
  | .offline => m
  | .active => { m with leaseLeft := m.leaseLeft - 1 }
  | .closing => { m with leaseLeft := m.leaseLeft - 1 }
  | .fenced => m

/-- R130: the lease countdown of every port. -/
def State.lowerLeases (s : State) : State := agents.foldl (fun t a => t.setMember a (t.members[a]).lowered) s

/-- R166: the window of an OPEN round lowered by one. -/
def State.lowerWindow (s : State) : State :=
  match s.voting with
  | none => s
  | some v => { s with voting := some { v with window := v.window - 1 } }

/-- R108, R112: an age tick: the counter advances first; the expiry pass is due with the lifetimes of this moment
(R116). -/
def State.tick (s : State) : State :=
  let s1 := { s.restartClock with ticks := s.ticks + 1, passDue := some s.table.lifetime }
  s1.lowerLeases.lowerWindow

/-- AGE_TICK (R108, R130, R166). While RSTN is low the counts do not advance (R109). -/
def execAgeTick (s : State) : StepResult :=
  let s1 := s.settle
  .next (if s1.rstnLow then s1 else s1.tick)

/-- EXPIRY_PASS (R114): the pass of the tick taken last, where it is still due. -/
def execExpiryPass (s : State) : StepResult := .next s.takePass

/-- FENCING (R138): the fencing of agent `a`, where its lease has reached 0. -/
def execFencing (a : Agent) (s : State) : StepResult := .next (s.takeFencing a)

/-! ## One REFCLK period (log 5) -/

/-- R107 stage 3: the postscale count advances. Where it reaches the postscale of the active table an age tick is due. -/
def State.countPostscale (s : State) : State := { s with postscaleCount := s.postscaleCount + 1 }

/-- R107 stage 2: the period count advances. -/
def State.countPeriod (s : State) : State :=
  if s.table.period ≤ s.periodCount + 1 then { s with periodCount := 0 }.countPostscale
  else { s with periodCount := s.periodCount + 1 }

/-- R107 stage 1: the prescale count advances. -/
def State.countPrescale (s : State) : State :=
  if s.table.prescale ≤ s.prescaleCount + 1 then { s with prescaleCount := 0 }.countPeriod
  else { s with prescaleCount := s.prescaleCount + 1 }

/-- The completion of the clear the engine is making. -/
def completionOf : ScrubEngine → List Instr
  | .startUp _ => [.startupClearCompletion]
  | .idle => []
  | .clearing _ => [.scrubCompletion]

/-- R97, R102: the clear in progress advances by one REFCLK period; where it ends, its completion falls due. -/
def State.countScrub (s : State) : State :=
  if s.engine = .idle then s
  else if s.clearLeft ≤ 1 then { s with clearLeft := 0, pending := s.pending ++ completionOf s.engine }
  else { s with clearLeft := s.clearLeft - 1 }

/-- One REFCLK period in which no command is taken: the age clock counts and the clear in progress advances. An age tick
that completes is taken at once where `first` holds; else what else falls due at that moment is taken ahead of it, and an
apply among that restarts the counts, so that the tick does not occur (R111). -/
def State.refclkPeriod (s : State) (first : Bool) : State :=
  let s1 := s.countPrescale.countScrub
  if first && s1.tickDue then s1.tick else s1

/-! ## One SCK period (R178, R179, log 5) -/

/-- A command put at the tail of the queue. -/
def State.enqueue (s : State) (i : Instr) : State := { s with pending := s.pending ++ [i] }

/-- A command put at the tail of the queue, where there is one. -/
def State.enqueueOptional (s : State) : Option Instr → State
  | none => s
  | some i => s.enqueue i

/-- A byte with a bit shifted in at its least significant place (R179: the most significant bit goes first). -/
def shiftBit (b : Byte) (x : Bool) : Byte := b <<< 1 ||| (BitVec.ofBool x).zeroExtend 8

/-- R179: one bit of the present byte of port `p` exchanged, not its last. -/
def State.exchangeBit (s : State) (p : Agent) (b : Bool) : State :=
  let f := s.frames[p]
  let got := if f.phase = .request then shiftBit f.shiftIn b else f.shiftIn
  s.setFrame p { f with bitPos := f.bitPos + 1, shiftIn := got }

/-- R178, R180, R181: a whole byte of a request received on port `p`: the first is the opcode in progress, and the last
completes the request phase, or the header of a POST, and brings its command. -/
def State.receiveByte (s : State) (p : Agent) (x : Byte) : State :=
  let f := s.frames[p]
  let got := f.received ++ [x]
  let s1 := s.setFrame p { f with
    bytePos := f.bytePos + 1, opcode := got.head?, bitPos := 0, shiftIn := 0, received := got }
  s1.enqueueOptional (decodeRequest p got)

/-- R58, R63: a whole byte received on port `p` while its staging is loaded: the event that takes it. -/
def State.receiveStagingByte (s : State) (p : Agent) (x : Byte) : State :=
  let s1 := s.setFrame p { s.frames[p] with bitPos := 0, shiftIn := 0 }
  match s.loadedStaging p with
  | none => s1
  | some (c, m) => s1.enqueue (if c.atLastCheck m then .postLastCheckByte p x else .postStagingByte p x)

/-- R178, R179: the last bit of a byte of the response of port `p` shifted out. -/
def State.shiftByte (s : State) (p : Agent) : State :=
  let f := s.frames[p]
  if f.skipping then s.setFrame p { f with bytePos := f.bytePos + 1, bitPos := 0, skipping := false }
  else s.setFrame p { f with phase := .response, bytePos := f.bytePos + 1, out := f.out.tail, bitPos := 0 }

/-- The byte of the response of port `p` shifted out last ended a notice record (R150). -/
def State.atRecordEnd (s : State) (p : Agent) : Bool :=
  let f := s.frames[p]
  0 < f.recordsLeft && f.out.length ≤ recordBytes * (f.recordsLeft - 1)

/-- The next bit of the response of port `p` is the first of an OVERRUN record not yet latched (R151). -/
def State.atOverrun (s : State) (p : Agent) : Bool :=
  (s.latchable p).isSome && (s.frames[p]).out.length == recordBytes

/-- R150: the record that has gone out whole leaves the queue. -/
def State.endRecord (s : State) (p : Agent) : State := if s.atRecordEnd p then s.removeRecord p else s

/-- R151: the first bit of an OVERRUN record comes on SDO. -/
def State.beginOverrun (s : State) (p : Agent) : State := if s.atOverrun p then s.latchOverrun p else s

/-- R179: the last bit of the present byte of port `p` exchanged. -/
def State.exchangeByte (s : State) (p : Agent) (b : Bool) : State :=
  let f := s.frames[p]
  match f.phase with
  | .idle => s
  | .request =>
    if (s.stagings[p]).isNone then s.receiveByte p (shiftBit f.shiftIn b)
    else s.receiveStagingByte p (shiftBit f.shiftIn b)
  | .turnaround => ((s.shiftByte p).endRecord p).beginOverrun p
  | .response => ((s.shiftByte p).endRecord p).beginOverrun p

/-- R179: one bit of port `p` exchanged. -/
def State.exchange (s : State) (p : Agent) (b : Bool) : State :=
  if (s.frames[p]).bitPos < 7 then s.exchangeBit p b else s.exchangeByte p b

/-- One period of SCK of port `p` with the level `b` on SDI. While CSN is high, and on a port that is IDLE, it has no effect
(R178). The first bit of an OVERRUN record that a command has brought the port to is latched before it is exchanged (R151,
log 17). -/
def State.sckPeriod (s : State) (p : Agent) (b : Bool) : State :=
  let f := s.frames[p]
  if !f.csnLow || f.phase = .idle then s else (s.beginOverrun p).exchange p b

/-! ## A step on an empty queue -/

/-- One period of the clock named: REFCLK, or SCK of a port. -/
def State.clockPeriod (s : State) (clock : Option (Agent × Bool)) (first : Bool) : State :=
  match clock with
  | none => s.refclkPeriod first
  | some (p, b) => s.sckPeriod p b

/-- The step on an empty queue: first the consumers of a tick already taken that are still due; then, with RSTN high, an age
tick that is due; else one period of one clock, chosen by the free value Config.nextClock. Nothing while RSTN is low (R109,
R178). -/
def State.idle (s : State) : State :=
  if s.dueEvents ≠ [] then s.settle
  else if s.rstnLow then s
  else if s.tickDue then s.tick
  else { s with choices := s.choices + 1 }.clockPeriod (Config.nextClock s.choices) (Config.tickFirst s.choices)

end Sys2Proof.Machine
end

