-- ==== Sys2Proof/Machine/Consent.lean ====
section
/-! DEFINITION. READCFG, PROPOSE, CONSENT, VETO, the apply and the lapse (chapter 9). -/

namespace Sys2Proof.Machine

/-! ## READCFG -/

/-- The response data of READCFG (R176, R190). -/
def State.configBytes (s : State) (t : Table) (number : Byte) : List Byte :=
  t.image ++ bytes16 s.epoch ++ [slotCode s.slot, number]

/-- R176 steps 3 to 5. -/
def State.readcfgBy (s : State) (p : Agent) (sel : Byte) : State :=
  if sel = 0 then s.respond p codeReadcfg 2 .ok (s.configBytes s.table 0) none
  else if sel = 1 then
    match s.slot with
    | none => s.respond p codeReadcfg 2 .empty [] none
    | some h => s.respond p codeReadcfg 2 .ok (s.configBytes h.table h.number) none
  else s.respond p codeReadcfg 2 .badarg [] none

/-- R176: READCFG on port `p`. -/
def State.answerReadcfg (s : State) (p : Agent) (sel : Byte) : State :=
  s.transact p codeReadcfg 2 (s.refuseInactive p) (s.readcfgBy p sel)

/-- READCFG (R176). -/
def execReadcfg (p : Agent) (sel : Byte) (s : State) : StepResult := .next (s.settle.answerReadcfg p sel)

/-! ## PROPOSE -/

/-- R163: a proposal number advanced by one, from 255 to 1. -/
def proposalAfter (n : Byte) : Byte := if n = 0xFF then 1 else n + 1

/-- R163: agent `b` is ACTIVE and is not the proposer `p`. -/
def State.requiredFor (s : State) (p b : Agent) : Bool := b ≠ p && (s.members[b]).state = .active

/-- R163: the required set of a proposal of agent `p`. -/
def State.requiredSet (s : State) (p : Agent) : AgentSet :=
  #v[s.requiredFor p 0, s.requiredFor p 1, s.requiredFor p 2, s.requiredFor p 3]

/-- The empty set of agents. -/
def noAgents : AgentSet := #v[false, false, false, false]

/-- R163: the record of a proposal of agent `p`. -/
def State.newProposal (s : State) (p : Agent) (t : Table) : Proposal where
  number := s.nextProposal
  proposer := p
  table := t
  required := s.requiredSet p
  consented := noAgents
  window := s.table.window

/-- R163: a proposal opened; with an empty required set it commits at once. -/
def State.openProposal (s : State) (p : Agent) (t : Table) : State :=
  let s1 := { s with
    voting := some (s.newProposal p t)
    lastProposal := s.nextProposal
    nextProposal := proposalAfter s.nextProposal }
  (s1.offerAll (setMembers (s.requiredSet p)) (.proposalOpen p s.nextProposal)).testConsents

/-- R162 steps 3 to 5. -/
def State.proposeBy (s : State) (p : Agent) (t : Table) : State :=
  if !t.valid then s.respond p codePropose 39 .invalidTable [] none
  else if s.voting.isSome then s.respond p codePropose 39 .busy [] none
  else
    let s1 := s.openProposal p t
    s1.respond p codePropose 39 .ok [s.nextProposal, roundStateCode s1.voting, slotCode s1.slot] none

/-- R162: PROPOSE on port `p`, of a whole image. -/
def State.answerPropose (s : State) (p : Agent) (image : List Byte) : State :=
  if image.length = imageBytes then
    s.transact p codePropose 39 (s.refuseInactive p) (s.proposeBy p (tableOfImage image))
  else s

/-- PROPOSE (R162, R163). With another number of image bytes no request completes: nothing changes (log 2). -/
def execPropose (p : Agent) (image : List Byte) (s : State) : StepResult := .next (s.settle.answerPropose p image)

/-! ## CONSENT and VETO -/

/-- R164 step 3: the OPEN proposal that a CONSENT or VETO names. -/
def State.namedProposal (s : State) (num : Byte) : Option Proposal :=
  match s.voting with
  | none => none
  | some v => if v.number = num then some v else none

/-- R164 step 6: the consent of agent `p` recorded, and the all-consented test. -/
def State.addConsent (s : State) (p : Agent) (v : Proposal) : State :=
  { s with voting := some { v with consented := v.consented.set p true } }.testConsents

/-- R164 steps 3 to 6. -/
def State.consentBy (s : State) (p : Agent) (num : Byte) : State :=
  match s.namedProposal num with
  | none => s.respond p codeConsent 2 .stale [] none
  | some v =>
    if !v.required[p] then s.respond p codeConsent 2 .notRequired [] none
    else
      let s1 := if v.consented[p] then s else s.addConsent p v
      s1.respond p codeConsent 2 .ok [roundStateCode s1.voting, slotCode s1.slot] none

/-- R164: CONSENT on port `p`. -/
def State.answerConsent (s : State) (p : Agent) (num : Byte) : State :=
  s.transact p codeConsent 2 (s.refuseInactive p) (s.consentBy p num)

/-- CONSENT (R164). -/
def execConsent (p : Agent) (num : Byte) (s : State) : StepResult := .next (s.settle.answerConsent p num)

/-- R165: VETO past the caller-state check. -/
def State.vetoBy (s : State) (p : Agent) (num : Byte) : State :=
  match s.namedProposal num with
  | none => s.respond p codeVeto 2 .stale [] none
  | some v =>
    if v.required[p] then
      (s.endRound v .rejected (some p)).respond p codeVeto 2 .ok [RoundOutcome.rejected.code] none
    else if v.proposer = p then
      (s.endRound v .withdrawn (some p)).respond p codeVeto 2 .ok [RoundOutcome.withdrawn.code] none
    else s.respond p codeVeto 2 .notRequired [] none

/-- R165: VETO on port `p`. -/
def State.answerVeto (s : State) (p : Agent) (num : Byte) : State :=
  s.transact p codeVeto 2 (s.refuseInactive p) (s.vetoBy p num)

/-- VETO (R165). -/
def execVeto (p : Agent) (num : Byte) (s : State) : StepResult := .next (s.settle.answerVeto p num)

/-! ## The apply and the lapse -/

/-- APPLY (R172, R173): the fit test, and the apply where the held table fits. Every event of R172 runs the test itself. -/
def execApplyHeld (s : State) : StepResult := .next s.settle.runFitTest

/-- PROPOSAL_LAPSE (R166): the round ends LAPSED where its window has reached 0. -/
def execProposalLapse (s : State) : StepResult := .next s.takeLapse

end Sys2Proof.Machine
end

