-- ==== Sys2Proof/Machine/Credit.lean ====
section
/-! DEFINITION. WATCH and the firing of a watch (chapter 1). -/

namespace Sys2Proof.Machine

/-- R19: the watch named by an accepted WATCH set DISARMED, or ARMED and tested at once (R20). -/
def State.setWatchTo (s : State) (p : Agent) (k : MsgClass) (threshold : Nat) : State :=
  if threshold = 0 then s.setWatch p k none else (s.setWatch p k (some threshold)).testWatch p k

/-- R19: WATCH past the caller-state check. The response carries the level at request completion. -/
def State.watchBy (s : State) (p : Agent) (cls threshold : Byte) : State :=
  match classOfCode cls with
  | none => s.respond p codeWatch 3 .badarg [] none
  | some k =>
    if 8 < threshold.toNat then s.respond p codeWatch 3 .badarg [] none
    else
      (s.setWatchTo p k threshold.toNat).respond p codeWatch 3 .ok (bytes16Of (s.creditLevel p k)) none

/-- R19: WATCH on port `p`. -/
def State.answerWatch (s : State) (p : Agent) (cls threshold : Byte) : State :=
  s.transact p codeWatch 3 (s.refuseOutsider p) (s.watchBy p cls threshold)

/-- WATCH (R19, R20). -/
def execWatch (p : Agent) (cls threshold : Byte) (s : State) : StepResult :=
  .next (s.settle.answerWatch p cls threshold)

/-- WATCH_FIRE (R22): the watch of agent `a` in class `k` tested, and fired where its level reaches its threshold. Every
evaluation point of R21 makes the test itself. -/
def execWatchFire (a : Agent) (k : MsgClass) (s : State) : StepResult := .next (s.settle.testWatch a k)

end Sys2Proof.Machine
end

