-- ==== Sys2Proof/Machine/Delivery.lean ====
section
/-! DEFINITION. FETCH, ACK, NACK and RECALL (chapters 4 and 2). -/

namespace Sys2Proof.Machine

/-! ## FETCH -/

/-- The FETCH flags byte (R190): receipt, correlation present, repeat. -/
def fetchFlags (m : Message) (repeated : Bool) : Byte :=
  (if m.receipt then 1 else 0) ||| (if m.corr = .absent then 0 else 2) ||| (if repeated then 4 else 0)

/-- The response data of a delivery (R78, R79, R190), with the queue depth after the FETCH's own action. -/
def State.deliveryBytes (s : State) (m : Message) (adm : Admission) (repeated : Bool) : List Byte :=
  let body := corrBytesOf m.corr ++ s.payload m
  [agentCode m.source, classCode m.cls] ++ bytes16 adm.tag ++ bytes16Of m.length ++
    [byteOf m.redeliveries, fetchFlags m repeated, m.charge.code,
      byteOf ((s.queues[m.dest]).get m.cls).length] ++ body ++ bytes16 (checkWord body)

/-- R75: the head of the queue of agent `a` in class `k`, with its record and the entries behind it. -/
def State.queueHead (s : State) (a : Agent) (k : MsgClass) :
    Option (DescId × Message × Admission × List DescId) :=
  match (s.queues[a]).get k with
  | [] => none
  | d :: rest =>
    match s.descs[d] with
    | .free => none
    | .staging _ => none
    | .queued m adm => some (d, m, adm, rest)
    | .inHand _ _ => none

/-- R75: the head of a queue taken into hand. -/
def State.takeIntoHand (s : State) (a : Agent) (k : MsgClass) (d : DescId) (m : Message) (adm : Admission)
    (rest : List DescId) : State :=
  ((s.setQueue a k rest).setDesc d (.inHand m adm)).setHand a k (some d)

/-- R74: FETCH of one class by agent `p`. -/
def State.fetchClass (s : State) (p : Agent) (k : MsgClass) : State :=
  match s.handMessage p k with
  | some (_, m, adm) => s.respond p codeFetch 2 .ok (s.deliveryBytes m adm true) none
  | none =>
    match s.queueHead p k with
    | none => s.respond p codeFetch 2 .empty [] none
    | some (d, m, adm, rest) =>
      let s1 := s.takeIntoHand p k d m adm rest
      s1.respond p codeFetch 2 .ok (s1.deliveryBytes m adm false) none

/-- R76: the class FETCH of ANY selects: the highest-ranked with an occupied slot or a non-empty queue. -/
def State.selectAny (s : State) (p : Agent) : Option MsgClass :=
  classes.find? (fun k => ((s.hands[p]).get k).isSome || !((s.queues[p]).get k).isEmpty)

/-- R73, R76: the class a selector names. -/
def State.selectClass (s : State) (p : Agent) : Selector → Option MsgClass
  | .one k => some k
  | .any => s.selectAny p

/-- R73 step 4. -/
def State.fetchBy (s : State) (p : Agent) (sel : Selector) : State :=
  match s.selectClass p sel with
  | none => s.respond p codeFetch 2 .empty [] none
  | some k => s.fetchClass p k

/-- R73: FETCH on port `p`. -/
def State.answerFetch (s : State) (p : Agent) (sel : Byte) : State :=
  s.transact p codeFetch 2 (s.refuseOutsider p)
    (match selectorOfCode sel with
    | none => s.respond p codeFetch 2 .badarg [] none
    | some x => s.fetchBy p x)

/-- FETCH (R73 to R77). -/
def execFetch (p : Agent) (sel : Byte) (s : State) : StepResult := .next (s.settle.answerFetch p sel)

/-! ## ACK and NACK -/

/-- The message in the hand slot of agent `p` in class `k` that carries the named tag (R82 step 4). -/
def State.namedInHand (s : State) (p : Agent) (k : MsgClass) (tag : Half) :
    Option (DescId × Message × Admission) :=
  match s.handMessage p k with
  | none => none
  | some (d, m, adm) => if adm.tag = tag then some (d, m, adm) else none

/-- R82, R83: ACK past the caller-state check. -/
def State.ackBy (s : State) (p : Agent) (cls : Byte) (tag : Half) : State :=
  match classOfCode cls with
  | none => s.respond p codeAck 4 .badarg [] none
  | some k =>
    match s.namedInHand p k tag with
    | none => s.respond p codeAck 4 .notInHand [] none
    | some (d, _, _) => (s.release d .acked).respond p codeAck 4 .ok [] none

/-- R82: ACK on port `p`. -/
def State.answerAck (s : State) (p : Agent) (cls : Byte) (tag : Half) : State :=
  s.transact p codeAck 4 (s.refuseOutsider p) (s.ackBy p cls tag)

/-- ACK (R82, R83). -/
def execAck (p : Agent) (cls : Byte) (tag : Half) (s : State) : StepResult := .next (s.settle.answerAck p cls tag)

/-- The response data of an accepted NACK: outcome and new redelivery count (R84, R190). -/
def State.nackBytes (s : State) (m : Message) : List Byte :=
  [if s.pastLimit m then codeRejected else codeReturned, byteOf (m.redeliveries + 1)]

/-- R84 to R86: NACK past the caller-state check. -/
def State.nackBy (s : State) (p : Agent) (cls : Byte) (tag : Half) : State :=
  match classOfCode cls with
  | none => s.respond p codeNack 4 .badarg [] none
  | some k =>
    match s.namedInHand p k tag with
    | none => s.respond p codeNack 4 .notInHand [] none
    | some (d, m, adm) => (s.returnOrReject d m adm).respond p codeNack 4 .ok (s.nackBytes m) none

/-- R84: NACK on port `p`. -/
def State.answerNack (s : State) (p : Agent) (cls : Byte) (tag : Half) : State :=
  s.transact p codeNack 4 (s.refuseOutsider p) (s.nackBy p cls tag)

/-- NACK (R84 to R86). -/
def execNack (p : Agent) (cls : Byte) (tag : Half) (s : State) : StepResult :=
  .next (s.settle.answerNack p cls tag)

/-! ## RECALL -/

/-- R47: descriptor `d` holds a QUEUED message of source `p` with tag `t`. -/
def State.isRecalled (s : State) (p : Agent) (t : Half) (d : DescId) : Bool :=
  match s.descs[d] with
  | .free => false
  | .staging _ => false
  | .queued m adm => m.source = p && adm.tag = t
  | .inHand _ _ => false

/-- R47 step 2: the hand slot of agent `d` in class `k` holds a message of source `p` with tag `t`. -/
def State.heldByDest (s : State) (p d : Agent) (k : MsgClass) (t : Half) : Bool :=
  match s.handMessage d k with
  | none => false
  | some (_, m, adm) => m.source = p && adm.tag = t

/-- R47: the search of a RECALL. -/
def State.recallSearch (s : State) (p d : Agent) (k : MsgClass) (t : Half) : State :=
  match ((s.queues[d]).get k).find? (s.isRecalled p t) with
  | some x => (s.release x .recalled).respond p codeRecall 5 .ok [] none
  | none =>
    if s.heldByDest p d k t then s.respond p codeRecall 5 .inHand [] none
    else s.respond p codeRecall 5 .unknownTag [] none

/-- R46 steps 3 to 5. -/
def State.recallBy (s : State) (p : Agent) (dest cls : Byte) (t : Half) : State :=
  match classOfCode cls with
  | none => s.respond p codeRecall 5 .badarg [] none
  | some k =>
    match agentOfCode dest with
    | none => s.respond p codeRecall 5 .baddest [] none
    | some d =>
      if d = p then s.respond p codeRecall 5 .baddest [] none else s.recallSearch p d k t

/-- R46: RECALL on port `p`. -/
def State.answerRecall (s : State) (p : Agent) (dest cls : Byte) (t : Half) : State :=
  s.transact p codeRecall 5 (s.refuseOutsider p) (s.recallBy p dest cls t)

/-- RECALL (R46, R47). -/
def execRecall (p : Agent) (dest cls : Byte) (t : Half) (s : State) : StepResult :=
  .next (s.settle.answerRecall p dest cls t)

end Sys2Proof.Machine
end

