-- ==== Sys2Proof/Machine/Device.lean ====
section
/-! DEFINITION. Device reset, the start-up clear, and the completion of a scrub (chapter 5). -/

namespace Sys2Proof.Machine

/-- DEVICE_RESET (R105): every block takes its reset state, every transaction and staging is lost, and RSTN is low. The
levels of the CSN pins are the agents' own (log 11). -/
def execDeviceReset (s : State) : StepResult :=
  .next (State.inReset (fun p => (s.frames[p]).csnLow) s.pending s.choices)

/-- R102, R109: RSTN rises; the age clock may count and the clear of the first cell begins. -/
def State.releaseReset (s : State) : State :=
  if s.rstnLow then { s with rstnLow := false, clearLeft := Config.scrubPeriods } else s

/-- STARTUP_CLEAR_START (R102). -/
def execStartupClearStart (s : State) : StepResult := .next s.settle.releaseReset

/-- The engine after the start-up clear of cell `p`: START-UP of the next cell, or IDLE after cell 383 (R102). -/
def engineAfterStartUp (p : CellId) : ScrubEngine :=
  if h : p.val + 1 < 384 then .startUp ⟨p.val + 1, h⟩ else .idle

/-- The REFCLK periods of the clear the engine has just begun; none where it is IDLE (R97). -/
def clearPeriodsOf : ScrubEngine → Nat
  | .startUp _ => Config.scrubPeriods
  | .idle => 0
  | .clearing _ => Config.scrubPeriods

/-- R102: the start-up clear of cell `p` completes. -/
def State.finishStartUp (s : State) (p : CellId) : State :=
  let s1 := s.setCell p .free
  { s1 with
    mem := memClear s1.mem p
    freeList := s1.freeList ++ [p]
    engine := engineAfterStartUp p
    clearLeft := clearPeriodsOf (engineAfterStartUp p) }

/-- R102: the clear of the current start-up cell completes, where one is in progress and RSTN is high. DESIGN CHOICE: the
periods left of it are not looked at (log 23). -/
def State.completeStartUp (s : State) : State :=
  match s.engine with
  | .startUp p => if s.rstnLow then s else s.finishStartUp p
  | .idle => s
  | .clearing _ => s

/-- STARTUP_CLEAR_COMPLETION (R102). -/
def execStartupClearCompletion (s : State) : StepResult := .next s.settle.completeStartUp

/-- R98 steps 1 to 4: cell `c`, cleared, leaves the head of the scrub queue and becomes FREE at the tail of the free
list, and the count of its charge falls by one. -/
def State.returnCell (s : State) (c : CellId) : State :=
  let u := match s.cellMap[c] with
    | .awaitingClear => s.used
    | .free => s.used
    | .bound _ _ _ => s.used
    | .scrub ch => s.used.fall ch
  let s1 := s.setCell c .free
  { s1 with
    mem := memClear s1.mem c
    scrubQueue := s1.scrubQueue.tail
    freeList := s1.freeList ++ [c]
    used := u }

/-- R98 step 7, R96: the clear of the new head begins, or the engine is IDLE. -/
def State.nextScrub (s : State) : State :=
  match s.scrubQueue with
  | [] => { s with engine := .idle, clearLeft := 0 }
  | c :: _ => { s with engine := .clearing c, clearLeft := Config.scrubPeriods }

/-- R98: the clear in progress completes, where the engine is CLEARING. DESIGN CHOICE: the periods left of it are not looked
at, so that a completion put into the queue from outside ends it early (log 23). -/
def State.completeScrub (s : State) : State :=
  match s.engine with
  | .startUp _ => s
  | .idle => s
  | .clearing c => (s.returnCell c).fitThenWatches.nextScrub

/-- SCRUB_COMPLETION (R98, R99). -/
def execScrubCompletion (s : State) : StepResult := .next s.settle.completeScrub

end Sys2Proof.Machine
end

