-- ==== Sys2Proof/Machine/Membership.lean ====
section
/-! DEFINITION. JOIN, LEAVE, RENEW and the drain test (chapter 7). -/

namespace Sys2Proof.Machine

/-- R124 step 2: the refusal of a lease period. -/
def refuseLease (period : Half) : Option Result :=
  if period.toNat < 16 || 4095 < period.toNat then some .badarg else none

/-- The lease of agent `a` loaded with a period, its port ACTIVE. -/
def State.loadLease (s : State) (a : Agent) (period : Nat) : State :=
  s.setMember a { s.members[a] with state := .active, leasePeriod := period, leaseLeft := period }

/-- R125: JOIN of agent `a` from OFFLINE. -/
def State.joinFresh (s : State) (a : Agent) (period : Nat) : State :=
  (s.loadLease a period).offerPeers a (.peerJoined a)

/-- R126: JOIN of agent `a` from FENCED. -/
def State.joinResumed (s : State) (a : Agent) (period : Nat) : State :=
  let s1 := (s.loadLease a period).place a (.resumed (s.members[a]).discards)
  (s1.setMember a { s1.members[a] with discards := 0 }).offerPeers a (.peerJoined a)

/-- R128: PROPOSAL_OPEN placed for a rejoining agent `a` that is required and has not consented. -/
def State.remindRequired (s : State) (a : Agent) : State :=
  match s.voting with
  | none => s
  | some v => if v.required[a] && !v.consented[a] then s.place a (.proposalOpen v.proposer v.number) else s

/-- R127: the rejoin of agent `a`. -/
def State.rejoin (s : State) (a : Agent) (period : Nat) : State :=
  let s1 := (s.setMember a { s.members[a] with state := .active }).rejoinReturn a
  let s2 := (((s1.clearNotices a).place a .rejoined).setSnapshot a (.all false)).disarm a
  (s2.loadLease a period).remindRequired a

/-- R124: JOIN by the caller's state. -/
def State.joinBy (s : State) (p : Agent) (period : Nat) : State :=
  match (s.members[p]).state with
  | .offline => s.joinFresh p period
  | .active => s.rejoin p period
  | .closing => s.rejoin p period
  | .fenced => s.joinResumed p period

/-- R124: JOIN on port `p`; the response reports the port state before it. -/
def State.answerJoin (s : State) (p : Agent) (period : Half) : State :=
  s.transact p codeJoin 3 (refuseLease period)
    ((s.joinBy p period.toNat).respond p codeJoin 3 .ok [(s.members[p]).state.code] none)

/-- JOIN (R124 to R128). -/
def execJoin (p : Agent) (period : Half) (s : State) : StepResult := .next (s.settle.answerJoin p period)

/-- R134: LEAVE of agent `a` into OFFLINE: the consent engine is told before PEER_LEFT is offered. -/
def State.leaveToOffline (s : State) (a : Agent) : State :=
  ((s.goOffline a).leaveRound a).offerPeers a (.peerLeft a)

/-- R133, R134: LEAVE of agent `a` into CLOSING. -/
def State.leaveToClosing (s : State) (a : Agent) : State :=
  (s.setMember a { s.members[a] with state := .closing }).leaveRound a

/-- R133: LEAVE past the caller-state check. -/
def State.leaveBy (s : State) (p : Agent) : State :=
  if (s.members[p]).state = .closing then s.respond p codeLeave 1 .ok [PortState.closing.code] none
  else if s.holdsNothing p then
    (s.leaveToOffline p).respond p codeLeave 1 .ok [PortState.offline.code] none
  else (s.leaveToClosing p).respond p codeLeave 1 .ok [PortState.closing.code] none

/-- R133: LEAVE on port `p`. -/
def State.answerLeave (s : State) (p : Agent) : State :=
  s.transact p codeLeave 1 (s.refuseOutsider p) (s.leaveBy p)

/-- LEAVE (R133, R134, R136). -/
def execLeave (p : Agent) (s : State) : StepResult := .next (s.settle.answerLeave p)

/-- R131: RENEW on port `p`. -/
def State.answerRenew (s : State) (p : Agent) : State :=
  s.transact p codeRenew 1 (s.refuseOutsider p)
    ((s.setMember p { s.members[p] with leaseLeft := (s.members[p]).leasePeriod }).respond p codeRenew 1 .ok [] none)

/-- RENEW (R131). -/
def execRenew (p : Agent) (s : State) : StepResult := .next (s.settle.answerRenew p)

/-- DRAIN_COMPLETION (R135): the drain test of agent `a`. Every release runs it itself; taken by itself it changes
nothing unless the agent is CLOSING with its six places empty. -/
def execDrainCompletion (a : Agent) (s : State) : StepResult := .next (s.settle.drainTest a)

end Sys2Proof.Machine
end

