-- ==== Sys2Proof/Machine/Dispatch.lean ====
section
/-! DEFINITION. The dispatch of a command to its meaning. -/

namespace Sys2Proof.Machine

def exec (i : Instr) (s : State) : Host.Outcome State Fault Refusal :=
  match i with
  | .deviceReset => Sys2Proof.Machine.execDeviceReset s
  | .startupClearStart => Sys2Proof.Machine.execStartupClearStart s
  | .startupClearCompletion => Sys2Proof.Machine.execStartupClearCompletion s
  | .csnFall p => Sys2Proof.Machine.execCsnFall p s
  | .csnRise p => Sys2Proof.Machine.execCsnRise p s
  | .badop p code => Sys2Proof.Machine.execBadop p code s
  | .ident p => Sys2Proof.Machine.execIdent p s
  | .status p => Sys2Proof.Machine.execStatus p s
  | .join p period => Sys2Proof.Machine.execJoin p period s
  | .leave p => Sys2Proof.Machine.execLeave p s
  | .renew p => Sys2Proof.Machine.execRenew p s
  | .postHeader p dest cls flags length => Sys2Proof.Machine.execPostHeader p dest cls flags length s
  | .postStagingByte p b => Sys2Proof.Machine.execPostStagingByte p b s
  | .postLastCheckByte p b => Sys2Proof.Machine.execPostLastCheckByte p b s
  | .fetch p sel => Sys2Proof.Machine.execFetch p sel s
  | .ack p cls tag => Sys2Proof.Machine.execAck p cls tag s
  | .nack p cls tag => Sys2Proof.Machine.execNack p cls tag s
  | .recallMessage p dest cls tag => Sys2Proof.Machine.execRecall p dest cls tag s
  | .watch p cls threshold => Sys2Proof.Machine.execWatch p cls threshold s
  | .notices p max => Sys2Proof.Machine.execNotices p max s
  | .noticeRecordRemoval p => Sys2Proof.Machine.execNoticeRecordRemoval p s
  | .overrunLatch p => Sys2Proof.Machine.execOverrunLatch p s
  | .summary p => Sys2Proof.Machine.execSummary p s
  | .readcfg p sel => Sys2Proof.Machine.execReadcfg p sel s
  | .propose p image => Sys2Proof.Machine.execPropose p image s
  | .consent p num => Sys2Proof.Machine.execConsent p num s
  | .veto p num => Sys2Proof.Machine.execVeto p num s
  | .applyHeld => Sys2Proof.Machine.execApplyHeld s
  | .ageTick => Sys2Proof.Machine.execAgeTick s
  | .expiryPass => Sys2Proof.Machine.execExpiryPass s
  | .fencing a => Sys2Proof.Machine.execFencing a s
  | .proposalLapse => Sys2Proof.Machine.execProposalLapse s
  | .drainCompletion a => Sys2Proof.Machine.execDrainCompletion a s
  | .scrubCompletion => Sys2Proof.Machine.execScrubCompletion s
  | .watchFire a k => Sys2Proof.Machine.execWatchFire a k s

end Sys2Proof.Machine
end

