-- ==== Sys2Proof/Safety.lean ====
section
/-! DEFINITION. What counts as a safe state: the laws the manual states of the part at every moment, and the words the
statements use of requests and responses. -/

namespace Sys2Proof.Machine

/-! ## Words of the statements -/

/-- No consumer of a tick is due: the state between two ticks (R112). -/
abbrev State.quiet (s : State) : Prop := s.dueEvents = []

/-- Port `p` is receiving a request, and no consumer of a tick is due. -/
abbrev State.receiving (s : State) (p : Agent) : Prop := s.quiet ∧ s.requestOpen p = true

/-- Port `p` is receiving a request after the start-up clear, and no consumer of a tick is due. -/
abbrev State.ready (s : State) (p : Agent) : Prop := s.receiving p ∧ s.starting = false

/-- The port of agent `p` is in state `x` (R121). -/
abbrev State.portIs (s : State) (p : Agent) (x : PortState) : Prop := (s.members[p]).state = x

/-- Agent `p` is ACTIVE or CLOSING. -/
abbrev State.joined (s : State) (p : Agent) : Prop := s.portIs p .active ∨ s.portIs p .closing

/-- Every port but `p` is framed as before. -/
def sameOtherPorts (s t : State) (p : Agent) : Prop := ∀ q : Agent, q ≠ p → t.frames[q] = s.frames[q]

/-- From `s` to `t` the request phase on port `p` has ended at byte `len`; turnaround, result and data wait to be shifted
out (R178, R181); the last-result record is `last`; no other port is touched. -/
def answersKeeping (s t : State) (p : Agent) (code : Byte) (len : Nat) (r : Result) (data : List Byte)
    (last : Option LastResult) : Prop :=
  t.frames[p] =
      { csnLow := (s.frames[p]).csnLow, phase := .turnaround, bytePos := len, opcode := some code, last := last
        out := 0x5A :: r.code :: data, recordsLeft := 0 } ∧
    sameOtherPorts s t p

/-- From `s` to `t` the request phase on port `p` has ended with result `r`, which the last-result record takes with
`tag` (R181, R183). -/
def answers (s t : State) (p : Agent) (code : Byte) (len : Nat) (r : Result) (tag : Option Half) (data : List Byte) :
    Prop :=
  answersKeeping s t p code len r data (some ⟨code, r, tag⟩)

/-- Notice `n` was offered to the agents that `who` names and to no other (R144). -/
def told (s t : State) (who : Agent → Bool) (n : Notice) : Prop :=
  ∀ b : Agent,
    if who b = true then
      t.notices[b] = ((s.offer b n).notices)[b] ∧ t.latches[b] = ((s.offer b n).latches)[b]
    else t.notices[b] = s.notices[b] ∧ t.latches[b] = s.latches[b]

/-- Notices offered one after another, each to its agent (R146). -/
def State.offerEach (s : State) (offers : List (Agent × Notice)) : State := offers.foldl (fun t x => t.offer x.1 x.2) s

/-- Agent `b` was offered its notices of a list, in the order of the list, and no other. -/
def toldInOrder (s t : State) (b : Agent) (offers : List (Agent × Notice)) : Prop :=
  t.notices[b] = ((s.offerEach offers).notices)[b] ∧ t.latches[b] = ((s.offerEach offers).latches)[b]

/-- The cells of the messages of some descriptors, message by message in cell-list order (R42). -/
def State.cellsOf (s : State) (ds : List DescId) : List CellId :=
  ds.flatMap (fun d => match s.message d with
    | none => []
    | some m => m.cells)

/-- From framing `f` to `g` the response was zero-filled (R184): of a byte partly shifted the bits that had gone stay and the
others are 0, and no other byte is left. -/
def zeroed (f g : Framing) : Prop :=
  g = { f with out := g.out, recordsLeft := 0 } ∧
    (f.bitPos = 0 ∨ f.skipping = true ∨ f.out = [] → g.out = []) ∧
    ∀ b rest, 0 < f.bitPos → f.skipping = false → f.out = b :: rest →
      ∃ x : Byte, g.out = [x] ∧ ∀ i : Nat, i < 8 → x.getLsbD i = (b.getLsbD i && decide (8 - f.bitPos ≤ i))

/-- The command of a consumer of a tick (R112). -/
def TickEvent.command : TickEvent → Instr
  | .pass => .expiryPass
  | .fence a => .fencing a
  | .lapse => .proposalLapse

/-- The active table, the slot, the epoch and the clock counts are as before. -/
def tableKept (s t : State) : Prop :=
  t.table = s.table ∧ t.slot = s.slot ∧ t.epoch = s.epoch ∧ t.prescaleCount = s.prescaleCount ∧
    t.periodCount = s.periodCount ∧ t.postscaleCount = s.postscaleCount

/-- Table `x` has become the active one (R173). -/
def applied (s t : State) (x : Table) : Prop :=
  t.table = x ∧ t.slot = none ∧ t.epoch = (if s.epoch = 0xFFFF then 1 else s.epoch + 1) ∧ t.prescaleCount = 0 ∧
    t.periodCount = 0 ∧ t.postscaleCount = 0

/-- The fit test of R172 was taken with the counts of `t`: a held table that fits has become the active one, and nothing else
of the tables has changed. -/
def fitTested (s t : State) : Prop :=
  match s.slot with
  | none => tableKept s t
  | some h => if t.fits h.table = true then applied s t h.table else tableKept s t

/-- The fit test of R172, taken with the counts of `t`, applies the table that `s` holds. -/
def State.appliesTo (s t : State) : Bool :=
  match s.slot with
  | none => false
  | some h => t.fits h.table

/-- Agent `b` was offered some notices, in the order of the list, and no other. -/
def toldEach (s t : State) (b : Agent) (ns : List Notice) : Prop := toldInOrder s t b (ns.map (fun n => (b, n)))

/-- R21, R22: the CREDIT notice that an evaluation of the watches of `s` under the levels of `t` offers to agent `b` for class
`k`. -/
def State.creditFor (s t : State) (b : Agent) (k : MsgClass) : Option Notice :=
  match (s.watches[b]).get k with
  | none => none
  | some n => if n ≤ t.creditLevel b k then some (.credit k (t.creditLevel b k)) else none

/-- R22: the CREDIT notices of that evaluation to agent `b`, in class rank order. -/
def State.credits (s t : State) (b : Agent) : List Notice := classes.filterMap (s.creditFor t b)

/-- R22: the watch of agent `b` in class `k` after that evaluation: DISARMED where it fired, and as before where not. -/
def State.watchLeft (s t : State) (b : Agent) (k : MsgClass) : Option Nat :=
  match (s.watches[b]).get k with
  | none => none
  | some n => if n ≤ t.creditLevel b k then none else some n

/-- R22: the watches of agent `b` have been evaluated. -/
def evaluated (s t : State) (b : Agent) : Prop := ∀ k, (t.watches[b]).get k = s.watchLeft t b k

/-- Agent `b` was offered `first`, then the CREDIT notices of an evaluation of its watches, then `last`. -/
def toldAndEvaluated (s t : State) (b : Agent) (first last : List Notice) : Prop :=
  toldEach s t b (first ++ s.credits t b ++ last) ∧ evaluated s t b

/-- R173 step 5: CONFIG_APPLIED, where a table applies. -/
def State.configNotice (t : State) (applies : Bool) : List Notice := if applies then [.configApplied t.epoch] else []

/-- R136: the PEER_LEFT of an agent that has reached OFFLINE. -/
def peerNotice (left : Option Agent) : List Notice :=
  match left with
  | none => []
  | some a => [.peerLeft a]

/-- R42 steps 4 to 6, at agent `b`, of a release that brings agent `left` to OFFLINE: the notice of the removal path, then
PEER_LEFT, then CONFIG_APPLIED and CREDIT of an apply. The agent that has left keeps no notice and no watch (R136). -/
def releaseTold (s t : State) (left : Option Agent) (first : List Notice) (b : Agent) : Prop :=
  if left = some b then t.notices[b] = [] ∧ t.latches[b] = none ∧ t.watches[b] = .all none
  else if s.appliesTo t = true then toldAndEvaluated s t b (first ++ peerNotice left ++ t.configNotice true) []
  else toldEach s t b (first ++ peerNotice left) ∧ t.watches[b] = s.watches[b]

/-- The agent that a release of a message destined to agent `a` brings to OFFLINE (R135). -/
def State.leaverAt (s t : State) (a : Agent) : Option Agent :=
  if s.portIs a .closing ∧ t.holdsNothing a = true then some a else none

/-- R152: the port of an agent that the drain test has brought to OFFLINE. -/
def drainedFrame (f g : Framing) : Prop :=
  if f.opcode = some 0x31 ∧ (f.phase = .turnaround ∨ f.phase = .response) then zeroed f g else g = f

/-- The record of descriptor `d` with message `m` was dropped (R42 steps 2 and 3); an IDLE engine starts on the first of its
cells, and a clear in progress goes on (R96, R97). -/
def dropped (s t : State) (d : DescId) (m : Message) : Prop :=
  t.descs[d] = .free ∧ (∀ e : DescId, e ≠ d → t.descs[e] = s.descs[e]) ∧ t.scrubQueue = s.scrubQueue ++ m.cells ∧
    (∀ c rest, s.engine = .idle → s.scrubQueue = [] → m.cells = c :: rest →
      t.engine = .clearing c ∧ t.clearLeft = 32) ∧
    (s.engine ≠ .idle → t.engine = s.engine ∧ t.clearLeft = s.clearLeft) ∧
    (∀ x : CellId, t.cellMap[x] = if x ∈ m.cells then (s.cellMap[x]).released else s.cellMap[x]) ∧
    t.inUse[m.source] = s.inUse[m.source] - 1 ∧ (∀ a : Agent, a ≠ m.source → t.inUse[a] = s.inUse[a])

/-- What agent `a` reaching OFFLINE leaves of its record, its notices, its snapshot and its watches (R136). -/
def wentOffline (s t : State) (a : Agent) : Prop :=
  t.members[a] = { s.members[a] with state := .offline, leaseLeft := 0 } ∧ t.notices[a] = [] ∧
    t.snapshots[a] = .all false ∧ t.watches[a] = .all none

/-- The drain test of agent `a` at a release (R42 step 5, R135). -/
def drained (s t : State) (a : Agent) : Prop :=
  (∀ b : Agent, b ≠ a → t.members[b] = s.members[b] ∧ t.snapshots[b] = s.snapshots[b]) ∧
    if s.portIs a .closing ∧ t.holdsNothing a = true then wentOffline s t a
    else t.members[a] = s.members[a] ∧ t.snapshots[a] = s.snapshots[a]

/-- R40: the hand slot of agent `p` in class `k` at its rejoin. An empty slot is skipped. A message whose raised count lies
within the limit of the class in the active table of this moment goes back to the head of its queue. Past that limit it is
released: REJECTED is offered to its source, then a held table that fits applies, with CONFIG_APPLIED and CREDIT (R42). -/
def returnedOrRejected (s t : State) (p : Agent) (k : MsgClass) : Prop :=
  ((s.hands[p]).get k = none → t = s) ∧
    ∀ d m adm, (s.hands[p]).get k = some d → s.descs[d] = .inHand m adm →
      (t.hands[p]).get k = none ∧
        (∀ (a : Agent) (j : MsgClass), a ≠ p ∨ j ≠ k → (t.hands[a]).get j = (s.hands[a]).get j) ∧
        (m.redeliveries + 1 ≤ s.table.redelivery.get k →
          t.descs[d] = .queued { m with redeliveries := m.redeliveries + 1 } adm ∧
          (∀ e : DescId, e ≠ d → t.descs[e] = s.descs[e]) ∧
          (t.queues[p]).get k = d :: (s.queues[p]).get k ∧
          (∀ (a : Agent) (j : MsgClass), a ≠ p ∨ j ≠ k → (t.queues[a]).get j = (s.queues[a]).get j) ∧
          t = { s with descs := t.descs, queues := t.queues, hands := t.hands }) ∧
        (s.table.redelivery.get k < m.redeliveries + 1 →
          dropped s t d m ∧ fitTested s t ∧
          (∀ b : Agent, releaseTold s t none (if b = m.source then [.rejected p k adm.tag] else []) b) ∧
          t = { s with
            cellMap := t.cellMap, scrubQueue := t.scrubQueue, engine := t.engine, clearLeft := t.clearLeft
            descs := t.descs, inUse := t.inUse, hands := t.hands, table := t.table, slot := t.slot
            epoch := t.epoch, prescaleCount := t.prescaleCount, periodCount := t.periodCount
            postscaleCount := t.postscaleCount, notices := t.notices, latches := t.latches
            watches := t.watches })

/-- R40: the rejoin return of agent `p`: its slots one after another in class rank order, each under the tables that the one
before has left. -/
def rejoinReturned (s t : State) (p : Agent) : Prop :=
  ∃ u v, returnedOrRejected s u p .express ∧ returnedOrRejected u v p .standard ∧ returnedOrRejected v t p .bulk

/-- The part of the OPEN round in which agent `a` has left ACTIVE (R167). -/
def leftRound (s t : State) (a : Agent) : Prop :=
  (s.voting = none → t.voting = none) ∧
    ∀ v, s.voting = some v →
      if v.proposer = a then t.voting = none
      else if v.required[a] = true then
        (if v.consented.set a false = v.required.set a false then t.voting = none
        else t.voting = some { v with required := v.required.set a false, consented := v.consented.set a false })
      else t.voting = some v

/-- R170: the table of proposal `v` was committed, with the counts of `t`: it applies where it fits and is held where not. -/
def committed (s t : State) (v : Proposal) : Prop :=
  if t.fits v.table = true then applied s t v.table
  else
    t.slot = some ⟨v.table, v.number⟩ ∧ t.table = s.table ∧ t.epoch = s.epoch ∧ t.prescaleCount = s.prescaleCount ∧
      t.periodCount = s.periodCount ∧ t.postscaleCount = s.postscaleCount

/-- R168 step 1: the PROPOSAL_CLOSED that agent `b` is offered where the round of `v` ends without a vetoing agent. -/
def closedTo (v : Proposal) (o : RoundOutcome) (b : Agent) : List Notice :=
  if b = v.proposer ∨ v.required[b] = true then [.proposalClosed none v.number o] else []

/-- R168, R170: the round of `v` ended COMMITTED, at agent `b`, between `first` and `last`: PROPOSAL_CLOSED, CONFIG_APPLIED
where the table applies, and CREDIT. -/
def commitTold (s t : State) (v : Proposal) (first last : List Notice) (b : Agent) : Prop :=
  toldAndEvaluated s t b (first ++ closedTo v .committed b ++ t.configNotice (t.fits v.table)) last

/-- R167: proposal `v` without agent `a` in its required and consented sets. -/
def Proposal.without (v : Proposal) (a : Agent) : Proposal :=
  { v with required := v.required.set a false, consented := v.consented.set a false }

/-- R167: the proposal that agent `a` commits by leaving ACTIVE, as it stands then. -/
def State.commitsAt (s : State) (a : Agent) : Option Proposal :=
  match s.voting with
  | none => none
  | some v =>
    if v.proposer ≠ a ∧ v.required[a] = true ∧ (v.without a).consented = (v.without a).required then some (v.without a)
    else none

/-- R167, R168: the PROPOSAL_CLOSED that agent `b` is offered where agent `a` leaving ACTIVE withdraws the round. -/
def State.withdrawnTo (s : State) (a b : Agent) : List Notice :=
  match s.voting with
  | none => []
  | some v => if v.proposer = a then closedTo v .withdrawn b else []

/-- R134, R138 steps 5 and 6: agent `a` has left ACTIVE, at agent `b`, between `first` and `last`. -/
def leaveTold (s t : State) (a : Agent) (first last : List Notice) (b : Agent) : Prop :=
  match s.commitsAt a with
  | none => toldEach s t b (first ++ s.withdrawnTo a b ++ last) ∧ t.watches[b] = s.watches[b]
  | some v => commitTold s t v first last b

/-- FETCH selector byte `sel` of agent `p` selects class `k` (R73, R76). -/
def selects (s : State) (p : Agent) (sel : Byte) (k : MsgClass) : Prop :=
  classOfCode sel = some k ∨
    (sel = 3 ∧ ((s.hands[p]).get k ≠ none ∨ (s.queues[p]).get k ≠ []) ∧
      ∀ j : MsgClass, (classCode j).toNat < (classCode k).toNat →
        (s.hands[p]).get j = none ∧ (s.queues[p]).get j = [])

/-- Commands taken one after another. -/
def runAll : List Instr → State → Option State
  | [], s => some s
  | c :: rest, s =>
    match exec c s with
    | .next t => runAll rest t
    | .fault _ => none
    | .refused _ => none

/-- From `s` to `t` the consumers of a tick that were due have been taken, each by its own command and each once; the expiry
pass among them where it was due. A fencing or a lapse that another consumer brought to nothing need not be taken (R112,
R132, R141). Then none is due. -/
def consumed (s t : State) : Prop :=
  ∃ cs : List Instr, cs.Nodup ∧ (∀ c ∈ cs, ∃ e ∈ s.dueEvents, c = e.command) ∧
    (TickEvent.pass ∈ s.dueEvents → Instr.expiryPass ∈ cs) ∧ runAll cs s = some t ∧ t.dueEvents = []

/-! ## Laws of one block -/

/-- The cell contents are in canonical form. -/
def MemoryLaw (s : State) : Prop := memWf s.mem = true

/-- R26, R34: no count passes its limit in the active table. -/
def LimitLaw (s : State) : Prop := s.fits s.table = true

/-- R160: the active table, a held table and an open round's table are valid. -/
def TableLaw (s : State) : Prop :=
  s.table.valid = true ∧ (∀ h, s.slot = some h → h.table.valid = true) ∧
    (∀ v, s.voting = some v → v.table.valid = true)

/-- R167: the required set of an OPEN round holds only ACTIVE agents and never the proposer; the consented set lies in
the required set (R159); the proposer is ACTIVE. -/
def RoundLaw (s : State) : Prop :=
  ∀ v, s.voting = some v →
    s.portIs v.proposer .active ∧
      ∀ a : Agent, (v.required[a] = true → s.portIs a .active ∧ a ≠ v.proposer) ∧
        (v.consented[a] = true → v.required[a] = true)

/-- R144: a notice queue holds at most 16 records, an OVERRUN record only as its last, and 16 records end in
OVERRUN. -/
def noticeShape (q : List Notice) : Prop :=
  q.length ≤ 16 ∧ (∀ n ∈ q.dropLast, n.isOverrun = false) ∧ (q.length = 16 → endsInOverrun q = true)

/-- R144 for every agent, and R142: no notices while OFFLINE or FENCED. -/
def NoticeLaw (s : State) : Prop :=
  ∀ a : Agent, noticeShape s.notices[a] ∧ (s.isMember a = false → s.notices[a] = [])

/-- R142, R121, R155: an OFFLINE or FENCED agent has no notices, no armed watch, an empty snapshot and no lease
running. -/
def AbsenceLaw (s : State) : Prop :=
  ∀ a : Agent, s.isMember a = false →
    s.notices[a] = [] ∧ s.watches[a] = .all none ∧ s.snapshots[a] = .all false ∧ (s.members[a]).leaseLeft = 0

/-- R96: while starting nothing is staged or waits for scrubbing; IDLE with an empty scrub queue; CLEARING its
head. -/
def EngineLaw (s : State) : Prop :=
  match s.engine with
  | .startUp _ => s.scrubQueue = [] ∧ ∀ d : DescId, s.descs[d] = .free
  | .idle => s.scrubQueue = []
  | .clearing c => s.scrubQueue.head? = some c

/-- The admission of descriptor `d`, where it is QUEUED or IN_HAND, with its message. -/
def State.admitted (s : State) (d : DescId) : Option (Message × Admission) :=
  match s.descs[d] with
  | .free => none
  | .staging _ => none
  | .queued m adm => some (m, adm)
  | .inHand m adm => some (m, adm)

/-- R32: among QUEUED and IN_HAND messages no two share source and tag, and no tag is 0; R31: no next-tag counter
is 0. -/
def TagLaw (s : State) : Prop :=
  (∀ a : Agent, s.nextTag[a] ≠ 0) ∧
    (∀ d m adm, s.admitted d = some (m, adm) → adm.tag ≠ 0) ∧
    (∀ d d' m m' adm adm', s.admitted d = some (m, adm) → s.admitted d' = some (m', adm') →
      m.source = m'.source → adm.tag = adm'.tag → d = d')

/-! ## Laws across blocks -/

/-- Descriptor `d` is QUEUED for agent `a` in class `k`. -/
def State.queuedFor (s : State) (d : DescId) (a : Agent) (k : MsgClass) : Bool :=
  match s.descs[d] with
  | .free => false
  | .staging _ => false
  | .queued m _ => m.dest = a && m.cls = k
  | .inHand _ _ => false

/-- Descriptor `d` is IN_HAND for agent `a` in class `k`. -/
def State.inHandFor (s : State) (d : DescId) (a : Agent) (k : MsgClass) : Bool :=
  match s.descs[d] with
  | .free => false
  | .staging _ => false
  | .queued _ _ => false
  | .inHand m _ => m.dest = a && m.cls = k

/-- Descriptor `d` is STAGING on port `p`. -/
def State.stagedOn (s : State) (d : DescId) (p : Agent) : Bool :=
  match s.descs[d] with
  | .free => false
  | .staging m => m.source = p
  | .queued _ _ => false
  | .inHand _ _ => false

/-- R35, R38, R57: the queues hold exactly the QUEUED descriptors, the hand slots exactly the IN_HAND ones and the
staging contexts exactly the STAGING ones, each in its own place and once. -/
def PlaceLaw (s : State) : Prop :=
  (∀ (a : Agent) (k : MsgClass), ((s.queues[a]).get k).Nodup) ∧
    (∀ (a : Agent) (k : MsgClass) (d : DescId), d ∈ (s.queues[a]).get k ↔ s.queuedFor d a k = true) ∧
    (∀ (a : Agent) (k : MsgClass) (d : DescId), (s.hands[a]).get k = some d ↔ s.inHandFor d a k = true) ∧
    (∀ (p : Agent) (d : DescId), (s.stagings[p]).map StagingContext.desc = some d ↔ s.stagedOn d p = true)

/-- R37: `order` holds the QUEUED and IN_HAND messages in the order of their admission, and every inbound queue stands in that
order, with the message in the hand slot of its class ahead of it. -/
def AdmissionOrder (s : State) (order : List DescId) : Prop :=
  order.Nodup ∧ (∀ d : DescId, d ∈ order ↔ s.admitted d ≠ none) ∧
    ∀ (a : Agent) (k : MsgClass), (((s.hands[a]).get k).toList ++ (s.queues[a]).get k).Sublist order

/-- R33: each source's count of descriptors in use is the number of its descriptors out of FREE. -/
def InUseLaw (s : State) : Prop :=
  ∀ a : Agent, s.inUse[a] =
    (List.finRange 128).countP (fun d => match s.message d with
      | none => false
      | some m => m.source = a)

/-- R142: an OFFLINE or FENCED agent has no QUEUED or IN_HAND message destined to it. -/
def NothingForAbsent (s : State) : Prop :=
  ∀ a : Agent, s.isMember a = false → s.holdsNothing a = true

/-- The charge a cell carries (R3). -/
def CellRecord.charge : CellRecord → Option Charge
  | .awaitingClear => none
  | .free => none
  | .bound c _ _ => some c
  | .scrub c => some c

/-- R24: each cell is in exactly one place, and the cell map agrees. -/
def CellLaw (s : State) : Prop :=
  s.freeList.Nodup ∧ s.scrubQueue.Nodup ∧
    (∀ c : CellId, s.cellMap[c] = .free ↔ c ∈ s.freeList) ∧
    (∀ c : CellId, (∃ ch, s.cellMap[c] = .scrub ch) ↔ c ∈ s.scrubQueue) ∧
    (∀ (c : CellId) (ch : Charge) (d : DescId) (pos : Nat), s.cellMap[c] = .bound ch d pos ↔
      ∃ m, s.message d = some m ∧ m.charge = ch ∧ m.cells[pos]? = some c) ∧
    (∀ c : CellId, s.cellMap[c] = .awaitingClear ↔ ∃ p, s.engine = .startUp p ∧ p ≤ c)

/-- The number of cells that carry a charge (R25). -/
def State.charged (s : State) (ch : Charge) : Nat :=
  (List.finRange 384).countP (fun c => (s.cellMap[c]).charge = some ch)

/-- R25: each count is the number of cells charged to its bucket; the common counts per agent sum to the common
total. -/
def CreditLaw (s : State) : Prop :=
  (∀ a : Agent, s.used.commonBy[a] = s.charged (.common a)) ∧
    (∀ (a : Agent) (k : MsgClass), (s.used.reserved[a]).get k = s.charged (.reserved a k)) ∧
    s.used.commonTotal = s.used.commonBy[0] + s.used.commonBy[1] + s.used.commonBy[2] + s.used.commonBy[3]

/-- R28, R3: a message of n bytes has ceil(n/32) cells, lies within its class maximum and is charged to its source. -/
def MessageLaw (s : State) : Prop :=
  ∀ d m, s.message d = some m →
    m.source ≠ m.dest ∧ 0 < m.length ∧ m.length ≤ maxLength m.cls ∧ m.cells.length = cellsFor m.length ∧
      (m.charge = .common m.source ∨ m.charge = .reserved m.source m.cls)

/-- The laws of the cell store, the credit unit and the queue manager together (R24, R25, R26, R33, R34, R35, R38,
R96, R142, R160). -/
def PartLaw (s : State) : Prop :=
  EngineLaw s ∧ PlaceLaw s ∧ InUseLaw s ∧ NothingForAbsent s ∧ CellLaw s ∧ CreditLaw s ∧ MessageLaw s ∧
    LimitLaw s ∧ TableLaw s

/-- R172: a held table does not fit the counts as they stand. -/
def HeldLaw (s : State) : Prop := ∀ h, s.slot = some h → s.fits h.table = false

/-- R21, R22: every ARMED watch has its threshold above the credit level. -/
def WatchLaw (s : State) : Prop :=
  ∀ (a : Agent) (k : MsgClass) (n : Nat), (s.watches[a]).get k = some n → s.creditLevel a k < n

/-- R101: a FREE cell holds nothing of the message it last held: all its bytes read 0x00. -/
def FreeCellsLaw (s : State) : Prop :=
  ∀ (c : CellId) (j : Nat), s.cellMap[c] = .free → j < 32 → memRead s.mem (cellAddr c j) = 0

/-- A safe state: every law the manual states of the part holds. -/
def State.safe (s : State) : Prop :=
  PartLaw s ∧ MemoryLaw s ∧ RoundLaw s ∧ NoticeLaw s ∧ AbsenceLaw s ∧ TagLaw s ∧ FreeCellsLaw s ∧
    HeldLaw s ∧ WatchLaw s

end Sys2Proof.Machine
end

