-- ==== Sys2Proof/WellFormed.lean ====
section
/-! DEFINITION. Which commands are well formed: those that a port can complete. -/

namespace Sys2Proof

/-- BADOP carries a byte that is no transaction code (R180); PROPOSE carries 38 image bytes (R188, R192). Every
other operand is a field whose every value the wire admits. -/
def Instr.wellFormed : Instr → Bool
  | .badop _ code => !isTransactionCode code
  | .propose _ image => image.length == imageBytes
  | .deviceReset => true
  | .startupClearStart => true
  | .startupClearCompletion => true
  | .csnFall _ => true
  | .csnRise _ => true
  | .ident _ => true
  | .status _ => true
  | .join _ _ => true
  | .leave _ => true
  | .renew _ => true
  | .postHeader _ _ _ _ _ => true
  | .postStagingByte _ _ => true
  | .postLastCheckByte _ _ => true
  | .fetch _ _ => true
  | .ack _ _ _ => true
  | .nack _ _ _ => true
  | .recallMessage _ _ _ _ => true
  | .watch _ _ _ => true
  | .notices _ _ => true
  | .noticeRecordRemoval _ => true
  | .overrunLatch _ => true
  | .summary _ => true
  | .readcfg _ _ => true
  | .consent _ _ => true
  | .veto _ _ => true
  | .applyHeld => true
  | .ageTick => true
  | .expiryPass => true
  | .fencing _ => true
  | .proposalLapse => true
  | .drainCompletion _ => true
  | .scrubCompletion => true
  | .watchFire _ _ => true

end Sys2Proof
end

