-- ==== Sys2Proof/Certificates/Slice0/Obligations.lean ====
section
/-! DEFINITION. The statements about the model, for the provers. Each cites the rule of the manual it formalises, or says
that it is the model's choice and names the log entry. -/

open Sys2Proof Sys2Proof.Machine

/-! ## The step and the queue of commands -/

/-- A step takes the command at the front of the queue: it is exec of that command on the state with the queue's rest. -/
def Obligations.StepTakesFrontCommand : Prop :=
  ∀ (c : Instr) (rest : List Instr) (s : State),
    step { s with pending := c :: rest } = exec c { s with pending := rest }

/-- Every command answers a next state and leaves the queue of waiting commands alone. -/
def Obligations.EveryCommandAnswersAndKeepsTheQueue : Prop :=
  ∀ (c : Instr) (s : State), ∃ t, exec c s = .next t ∧ t.pending = s.pending

/-- The model's choice (log 5): a step on an empty queue takes an age tick that is due, else one period of one clock, which
the free value Config.nextClock names. In a period of REFCLK the age clock counts in the three stages of R107 and the clear
in progress advances (R97, R102); its completion enters the queue. An age tick that completes is taken at once, or left due
behind what else falls due in that period, as the free value Config.tickFirst says (R111); an apply taken while a tick is
due restarts the counts, and that tick does not occur (R111). While RSTN is low nothing advances (R109). -/
def Obligations.IdleStepIsOneClockPeriod : Prop :=
  ∀ s : State, s.pending = [] → s.quiet →
    (s.rstnLow = true → step s = .next s) ∧
    (s.rstnLow = false → s.table.postscale ≤ s.postscaleCount → step s = exec .ageTick s) ∧
    (s.rstnLow = false → s.postscaleCount < s.table.postscale →
      step s = .next ({ s with choices := s.choices + 1 }.clockPeriod (Config.nextClock s.choices)
        (Config.tickFirst s.choices))) ∧
    (s.rstnLow = false → s.postscaleCount < s.table.postscale →
      ∀ first : Bool,
        (let stage2 : Bool := decide (s.table.prescale ≤ s.prescaleCount + 1)
         let stage3 : Bool := stage2 && decide (s.table.period ≤ s.periodCount + 1)
         let tick : Bool := stage3 && decide (s.table.postscale ≤ s.postscaleCount + 1)
         let counted : State := { s with
           prescaleCount := if stage2 then 0 else s.prescaleCount + 1
           periodCount := if stage3 then 0 else if stage2 then s.periodCount + 1 else s.periodCount
           postscaleCount := if stage3 then s.postscaleCount + 1 else s.postscaleCount
           clearLeft := if s.engine = .idle then s.clearLeft else s.clearLeft - 1
           pending := if s.clearLeft ≤ 1 then completionOf s.engine else [] }
         (tick = true → first = true → exec .ageTick counted = .next (s.clockPeriod none first)) ∧
         (tick = false ∨ first = false → s.clockPeriod none first = counted))) ∧
    ∀ h, s.slot = some h → s.fits h.table = true → 0 < h.table.postscale →
      ∃ t, exec .applyHeld s = .next t ∧ t.ticks = s.ticks ∧ t.postscaleCount < t.table.postscale

/-- R178 to R181, R58, R63: one period of SCK of a port, with SDI at a level, exchanges one bit; on a port whose CSN is high
or that is IDLE it does nothing. The most significant bit goes first. In REQUEST the eighth bit completes a byte: the byte
position advances, the first byte is the opcode in progress, and a byte that completes the request phase, the header of a
POST or a byte of a staging brings its command into the queue. In TURNAROUND and RESPONSE SDI is not read, and the eighth bit
shifts a byte out: the last byte of a notice record removes the record (R150), and before the first bit of an OVERRUN
record its count is latched (R151), where a command has brought the port to that bit at the beginning of the period (log 17).
That a completed request comes into the queue as a command is the model's form (log 1);
that the rest of a byte position in which a staging was aborted is passed over is read from R69 (log 16). -/
def Obligations.SckPeriodExchangesOneBit : Prop :=
  ∀ (s : State) (p : Agent) (b first : Bool), s.quiet → s.rstnLow = false →
    (let f := s.frames[p]
     let t := s.clockPeriod (some (p, b)) first
     let x : Byte := f.shiftIn <<< 1 ||| (if b then 1 else 0)
     let latchesFirst : Prop := f.csnLow = true ∧ (f.phase = .turnaround ∨ f.phase = .response) ∧ f.recordsLeft = 1 ∧
       f.out.length = 6 ∧ f.bitPos = 0 ∧ s.latches[p] = none ∧ ∃ n q, s.notices[p] = .overrun n :: q
     (f.csnLow = false ∨ f.phase = .idle → t = s) ∧
     (latchesFirst → ∃ v, exec (.overrunLatch p) s = .next v ∧ t = v.clockPeriod (some (p, b)) first) ∧
     (f.csnLow = true → f.phase ≠ .idle → ¬latchesFirst → f.bitPos < 7 →
       t = { s with frames := s.frames.set p { f with
         bitPos := f.bitPos + 1, shiftIn := if f.phase = .request then x else f.shiftIn } }) ∧
     (f.csnLow = true → f.phase = .request → 7 ≤ f.bitPos →
       (s.stagings[p] = none →
         t = { s with
           frames := s.frames.set p { f with
             bytePos := f.bytePos + 1, opcode := (f.received ++ [x]).head?, bitPos := 0, shiftIn := 0
             received := f.received ++ [x] }
           pending := s.pending ++ (decodeRequest p (f.received ++ [x])).toList }) ∧
       ∀ c m, s.stagings[p] = some c → s.descs[c.desc] = .staging m →
         t = { s with
           frames := s.frames.set p { f with bitPos := 0, shiftIn := 0 }
           pending := s.pending ++ [if c.corrToCome = 0 ∧ m.length ≤ c.payloadReceived ∧ c.checkReceived = 1 then
             .postLastCheckByte p x else .postStagingByte p x] }) ∧
     (f.csnLow = true → f.phase = .turnaround ∨ f.phase = .response → 7 ≤ f.bitPos →
       (f.skipping = true → f.recordsLeft = 0 →
         t = { s with frames := s.frames.set p { f with bytePos := f.bytePos + 1, bitPos := 0, skipping := false } }) ∧
       (f.skipping = false →
         (let u := { s with frames := s.frames.set p { f with
            phase := .response, bytePos := f.bytePos + 1, out := f.out.tail, bitPos := 0 } }
          let recordGone : Prop := 0 < f.recordsLeft ∧ f.out.tail.length ≤ 6 * (f.recordsLeft - 1)
          let overrunNext (v : State) : Prop := (v.frames[p]).recordsLeft = 1 ∧ v.latches[p] = none ∧
            (v.frames[p]).out.length = 6 ∧ ∃ n q, v.notices[p] = .overrun n :: q
          ∃ v, (recordGone → exec (.noticeRecordRemoval p) u = .next v) ∧ (¬recordGone → v = u) ∧
            (overrunNext v → exec (.overrunLatch p) v = .next t) ∧ (¬overrunNext v → t = v)))))

/-- The model's choice (log 4): before any command but the tick consumers themselves and a device reset is taken, every
consumer of the tick taken last that is still due is taken, each by its own command, in an order that the free value
Config.tickOrder chooses; one that is due alone is taken by its command, and where none is due nothing changes. -/
def Obligations.DueConsumersComeFirst : Prop :=
  (∀ s : State, ∃ t, consumed s t ∧ s.settle = { t with choices := s.settle.choices }) ∧
    (∀ (s : State) (e : TickEvent), s.dueEvents = [e] → exec e.command s = .next s.settle) ∧
    (∀ s : State, s.quiet → s.settle = s) ∧
    ∀ (c : Instr) (s : State),
      c ≠ .deviceReset → c ≠ .expiryPass → (∀ a, c ≠ .fencing a) → c ≠ .proposalLapse → exec c s = exec c s.settle

/-! ## Device reset and the start-up clear -/

/-- A device reset takes every block to its reset value, whatever it was doing (R2, R4, R7, R18, R27, R57, R105, R109,
R121, R143, R159, R178, R183). That CSN levels stay, and that nothing is left to
shift out and no byte is partly exchanged, is the model's choice (log 11, log 14). -/
def Obligations.DeviceResetTakesEveryBlock : Prop :=
  ∀ s : State, ∃ t, exec .deviceReset s = .next t ∧
    t.rstnLow = true ∧ (∀ c : CellId, t.cellMap[c] = .awaitingClear) ∧ t.freeList = [] ∧ t.scrubQueue = [] ∧
    t.engine = .startUp 0 ∧
    t.used.commonTotal = 0 ∧ (∀ a : Agent, t.used.commonBy[a] = 0) ∧
    (∀ (a : Agent) (k : MsgClass), (t.used.reserved[a]).get k = 0 ∧ (t.watches[a]).get k = none ∧
      (t.queues[a]).get k = [] ∧ (t.hands[a]).get k = none) ∧
    (∀ d : DescId, t.descs[d] = .free) ∧
    (∀ a : Agent, t.inUse[a] = 0 ∧ t.nextTag[a] = 1 ∧ t.stagings[a] = none ∧ t.members[a] = ⟨.offline, 0, 0, 0⟩ ∧
      t.notices[a] = [] ∧ t.snapshots[a] = .all false ∧ t.attentionLow a = false ∧
      t.frames[a] = { csnLow := (s.frames[a]).csnLow, phase := .idle, bytePos := 0, opcode := none, last := none
                      out := [], recordsLeft := 0 }) ∧
    t.prescaleCount = 0 ∧ t.periodCount = 0 ∧ t.postscaleCount = 0 ∧ t.ticks = 0 ∧
    t.table = Table.default ∧ t.slot = none ∧ t.voting = none ∧ t.nextProposal = 1 ∧ t.lastProposal = 0 ∧ t.epoch = 0

/-- R102: the start-up clear begins when RSTN rises, and the completion of the clear of cell p makes it FREE at the tail
of the free list, all its bytes 0x00; the next clear begins at once, and after cell 383 the engine is IDLE. After the 384
completions the free list holds 0 to 383 ascending, every record is FREE and every byte is 0x00. A command whose moment it
is not changes nothing (log 2). That a completion put into the queue from outside ends a clear with periods left is the
model's choice (log 23). -/
def Obligations.StartupClearGoesCellByCell : Prop :=
  ∀ s : State, s.quiet →
    (s.rstnLow = true →
      exec .startupClearStart s = .next { s with rstnLow := false, clearLeft := 32 } ∧
      exec .startupClearCompletion s = .next s) ∧
    (s.rstnLow = false → exec .startupClearStart s = .next s) ∧
    (∀ p : CellId, s.rstnLow = false → s.engine = .startUp p →
      ∃ t, exec .startupClearCompletion s = .next t ∧
        t.cellMap[p] = .free ∧ (∀ c : CellId, c ≠ p → t.cellMap[c] = s.cellMap[c]) ∧
        (∀ (c : CellId) (j : Nat), j < 32 → t.cellByte c j = if c = p then 0 else s.cellByte c j) ∧
        t.freeList = s.freeList ++ [p] ∧
        (∀ q : CellId, q.val = p.val + 1 → t.engine = .startUp q ∧ t.clearLeft = 32) ∧
        (p.val = 383 → t.engine = .idle ∧ t.clearLeft = 0) ∧
        t = { s with
          mem := t.mem, cellMap := t.cellMap, freeList := t.freeList, engine := t.engine, clearLeft := t.clearLeft }) ∧
    (s.rstnLow = false → s.engine = .startUp 0 → s.freeList = [] →
      ∃ t, runAll (List.replicate 384 .startupClearCompletion) s = some t ∧
        t.engine = .idle ∧ t.clearLeft = 0 ∧ t.freeList = List.finRange 384 ∧ (∀ c : CellId, t.cellMap[c] = .free) ∧
        (∀ (c : CellId) (j : Nat), j < 32 → t.cellByte c j = 0) ∧
        t = { s with
          mem := t.mem, cellMap := t.cellMap, freeList := t.freeList, engine := t.engine, clearLeft := t.clearLeft })

/-- R103, R180: during the start-up clear every request but IDENT, an unknown first byte included, is answered STARTING;
the last-result record stays, and no block changes. -/
def Obligations.RequestsDuringStartupAnswerStarting : Prop :=
  ∀ (s : State) (c : Instr) (p : Agent) (code : Byte) (args : List Byte),
    requestBytes c = some (p, code :: args) → c.wellFormed = true → c ≠ .ident p →
    s.receiving p → s.starting = true →
    ∃ t, exec c s = .next t ∧
      answersKeeping s t p code (args.length + 1) .starting [] (s.frames[p]).last ∧
      t = { s with frames := t.frames }

/-! ## Framing, IDENT, STATUS -/

/-- R122: after the start-up clear every transaction but IDENT, STATUS and JOIN is refused NOTJOINED from OFFLINE and
FENCED from FENCED; POST, READCFG, PROPOSE, CONSENT and VETO are refused CLOSING from CLOSING. No block changes. R180: a
first byte that is no transaction code is answered BADOP, and the last-result record takes that byte. -/
def Obligations.CallerStateAndOpcodeAreChecked : Prop :=
  (∀ (s : State) (c : Instr) (p : Agent) (code : Byte) (args : List Byte),
    requestBytes c = some (p, code :: args) → c.wellFormed = true → isTransactionCode code = true →
    code ≠ codeIdent → code ≠ codeStatus → code ≠ codeJoin → s.ready p →
    ∀ r : Result,
      (s.portIs p .offline ∧ r = .notJoined) ∨ (s.portIs p .fenced ∧ r = .fenced) ∨
        (s.portIs p .closing ∧ r = .closing ∧
          code ∈ [codePost, codeReadcfg, codePropose, codeConsent, codeVeto]) →
      ∃ t, exec c s = .next t ∧ answers s t p code (args.length + 1) r none [] ∧ t = { s with frames := t.frames }) ∧
  ∀ (s : State) (p : Agent) (code : Byte), s.ready p → code ∉ transactionCodes →
    ∃ t, exec (.badop p code) s = .next t ∧ answers s t p code 1 .badop none [] ∧ t = { s with frames := t.frames }

/-- R178: a falling CSN starts a transaction on a port that is IDLE; while RSTN is low it starts none; where CSN is low
already it is no falling edge (log 2). R182, R151: a CSN rise with no staging loaded ends the transaction and keeps the
last-result record; a partly exchanged byte is discarded; an OVERRUN record cut short keeps the latched count plus the
offers folded in since, at most 255. That byte position 0 and an absent opcode are left is the model's choice (log 12). -/
def Obligations.CsnEdgesStartAndEndTransactions : Prop :=
  ∀ (s : State) (p : Agent), s.quiet →
    ((s.frames[p]).csnLow = true → exec (.csnFall p) s = .next s) ∧
    ((s.frames[p]).csnLow = false →
      ∃ t, exec (.csnFall p) s = .next t ∧ sameOtherPorts s t p ∧ t = { s with frames := t.frames } ∧
        (s.rstnLow = true → t.frames[p] = { s.frames[p] with csnLow := true }) ∧
        (s.rstnLow = false → (s.frames[p]).phase = .idle →
          t.frames[p] = { csnLow := true, phase := .request, bytePos := 0, opcode := none
                          last := (s.frames[p]).last, out := [], recordsLeft := 0 })) ∧
    (s.rstnLow = false → (s.frames[p]).csnLow = true → s.stagings[p] = none →
      ∃ t, exec (.csnRise p) s = .next t ∧
        t.frames[p] = { csnLow := false, phase := .idle, bytePos := 0, opcode := none, last := (s.frames[p]).last
                        out := [], recordsLeft := 0 } ∧
        sameOtherPorts s t p ∧
        (s.latches[p] = none → t.notices = s.notices ∧ t.latches = s.latches) ∧
        (∀ l q n, s.latches[p] = some l → s.notices[p] = q ++ [.overrun n] →
          t.notices[p] = q ++ [.overrun (min 255 (l.latched + l.since))] ∧ t.latches[p] = none) ∧
        (∀ b : Agent, b ≠ p → t.notices[b] = s.notices[b] ∧ t.latches[b] = s.latches[b]) ∧
        t = { s with frames := t.frames, notices := t.notices, latches := t.latches })

/-- R67: a CSN rise during a staging cuts it: the message is released without notice, its cells enter the scrub queue
still charged, no tag is taken, and the last-result record takes POST, CUT and no tag. A held table that fits
then applies, with CONFIG_APPLIED and CREDIT (R42, R172, R173), and else stays HELD; nobody is offered anything else. That byte
position 0 and an absent opcode are left is the model's choice (log 12). -/
def Obligations.CsnRiseCutsStaging : Prop :=
  ∀ (s : State) (p : Agent) (c : StagingContext) (m : Message),
    s.quiet → s.rstnLow = false → (s.frames[p]).csnLow = true → s.stagings[p] = some c →
    s.descs[c.desc] = .staging m →
    ∃ t, exec (.csnRise p) s = .next t ∧ dropped s t c.desc m ∧
      t.stagings[p] = none ∧ (∀ q : Agent, q ≠ p → t.stagings[q] = s.stagings[q]) ∧
      t.frames[p] = { csnLow := false, phase := .idle, bytePos := 0, opcode := none
                      last := some ⟨codePost, .cut, none⟩, out := [], recordsLeft := 0 } ∧
      sameOtherPorts s t p ∧
      fitTested s t ∧ (∀ b : Agent, b ≠ p ∨ s.latches[p] = none → releaseTold s t none [] b) ∧
      t = { s with
        cellMap := t.cellMap, scrubQueue := t.scrubQueue, engine := t.engine, clearLeft := t.clearLeft
        descs := t.descs, inUse := t.inUse, stagings := t.stagings, frames := t.frames
        table := t.table, slot := t.slot, epoch := t.epoch, prescaleCount := t.prescaleCount
        periodCount := t.periodCount, postscaleCount := t.postscaleCount
        notices := t.notices, latches := t.latches, watches := t.watches }

/-- R186: IDENT is answered in every port state and during the start-up clear with the vendor code, the part code, the
revision and the port; nothing but the response changes. -/
def Obligations.IdentNamesThePart : Prop :=
  ∀ (s : State) (p : Agent), s.receiving p →
    ∃ t, exec (.ident p) s = .next t ∧
      answersKeeping s t p 0x01 1 .ok [0xC4, 0x41, 0x18, 0x01, BitVec.ofNat 8 p.val] (s.frames[p]).last ∧
      t = { s with frames := t.frames }

/-- R187: STATUS is answered STARTING during the start-up clear and OK in every port state after it, with the caller's
standing in 26 bytes by the offsets of section 10.5; nothing but the response changes. -/
def Obligations.StatusReportsTheCallersStanding : Prop :=
  ∀ (s : State) (p : Agent), s.receiving p →
    (s.starting = true →
      ∃ t, exec (.status p) s = .next t ∧ answersKeeping s t p 0x02 1 .starting [] (s.frames[p]).last ∧
        t = { s with frames := t.frames }) ∧
    (s.starting = false →
      ∃ t data, exec (.status p) s = .next t ∧ answersKeeping s t p 0x02 1 .ok data (s.frames[p]).last ∧
        t = { s with frames := t.frames } ∧ data.length = 26 ∧
        (let byte (i : Nat) : Byte := data.getD i 0
         let field (i : Nat) : Half := half (data.getD i 0) (data.getD (i + 1) 0)
         byte 0 = (s.members[p]).state.code ∧
         field 1 = BitVec.ofNat 16 (s.members[p]).leasePeriod ∧
         field 3 = BitVec.ofNat 16 (s.members[p]).leaseLeft ∧
         field 5 = BitVec.ofNat 16 (s.members[p]).discards ∧
         field 7 = BitVec.ofNat 16 (s.creditLevel p .express) ∧
         field 9 = BitVec.ofNat 16 (s.creditLevel p .standard) ∧
         field 11 = BitVec.ofNat 16 (s.creditLevel p .bulk) ∧
         byte 13 = BitVec.ofNat 8 s.inUse[p] ∧
         ((s.frames[p]).last = none → byte 14 = 0 ∧ byte 15 = 0 ∧ field 16 = 0) ∧
         (∀ l, (s.frames[p]).last = some l →
           byte 14 = l.opcode ∧ byte 15 = l.result.code ∧ field 16 = l.tag.getD 0) ∧
         field 18 = s.epoch ∧
         (s.voting = none → byte 20 = 0 ∧ byte 21 = s.lastProposal ∧ byte 22 = 0) ∧
         (∀ v, s.voting = some v →
           byte 20 = 1 ∧ byte 21 = v.number ∧
           byte 22 = BitVec.ofNat 8 ((if v.required[p] then 1 else 0) + (if v.consented[p] then 2 else 0))) ∧
         byte 23 = (if s.slot = none then 0 else 1) ∧
         field 24 = s.ticks.truncate 16))

/-! ## Membership -/

/-- R131: RENEW is answered STARTING during the start-up clear, NOTJOINED from OFFLINE and FENCED from FENCED; from ACTIVE
and CLOSING it sets the lease remaining to the lease period and nothing else. -/
def Obligations.RenewReloadsTheLease : Prop :=
  ∀ (s : State) (p : Agent), s.receiving p →
    ∃ t, exec (.renew p) s = .next t ∧
      (s.starting = true →
        answersKeeping s t p 0x12 1 .starting [] (s.frames[p]).last ∧ t = { s with frames := t.frames }) ∧
      (s.starting = false → s.portIs p .offline →
        answers s t p 0x12 1 .notJoined none [] ∧ t = { s with frames := t.frames }) ∧
      (s.starting = false → s.portIs p .fenced →
        answers s t p 0x12 1 .fenced none [] ∧ t = { s with frames := t.frames }) ∧
      (s.starting = false → s.joined p →
        answers s t p 0x12 1 .ok none [] ∧
        t.members[p] = { s.members[p] with leaseLeft := (s.members[p]).leasePeriod } ∧
        (∀ a : Agent, a ≠ p → t.members[a] = s.members[a]) ∧
        t = { s with frames := t.frames, members := t.members })

/-- R124 to R126: JOIN with a period outside 16 to 4095 is refused BADARG in every port state; from OFFLINE and FENCED it
makes the port ACTIVE, loads the lease and offers PEER_JOINED to the peers; from FENCED it places RESUMED with the
discard count and zeroes the count. The response gives the state before. -/
def Obligations.JoinBringsAnAgentIn : Prop :=
  ∀ (s : State) (p : Agent) (period : Half), s.ready p →
    ∃ t, exec (.join p period) s = .next t ∧
      (period.toNat < 16 ∨ 4095 < period.toNat →
        answers s t p 0x10 3 .badarg none [] ∧ t = { s with frames := t.frames }) ∧
      (16 ≤ period.toNat → period.toNat ≤ 4095 → s.portIs p .offline →
        answers s t p 0x10 3 .ok none [0x00] ∧
        t.members[p] = ⟨.active, period.toNat, period.toNat, (s.members[p]).discards⟩ ∧
        (∀ a : Agent, a ≠ p → t.members[a] = s.members[a]) ∧
        told s t (fun b => b ≠ p) (.peerJoined p) ∧
        t = { s with frames := t.frames, members := t.members, notices := t.notices, latches := t.latches }) ∧
      (16 ≤ period.toNat → period.toNat ≤ 4095 → s.portIs p .fenced →
        answers s t p 0x10 3 .ok none [0x03] ∧
        t.members[p] = ⟨.active, period.toNat, period.toNat, 0⟩ ∧
        (∀ a : Agent, a ≠ p → t.members[a] = s.members[a]) ∧
        t.notices[p] = s.notices[p] ++ [.resumed (s.members[p]).discards] ∧ t.latches[p] = s.latches[p] ∧
        (∀ b : Agent, b ≠ p →
          t.notices[b] = ((s.offer b (.peerJoined p)).notices)[b] ∧
          t.latches[b] = ((s.offer b (.peerJoined p)).latches)[b]) ∧
        t = { s with frames := t.frames, members := t.members, notices := t.notices, latches := t.latches })

/-- R127, R128, R40: JOIN from ACTIVE or CLOSING is a rejoin: the lease is loaded, the notice queue holds REJOINED, and
PROPOSAL_OPEN behind it where the agent is required and has not consented, the snapshot is empty, the watches are
disarmed, the hand slots are empty, and each in-hand message is back at the head of its queue with its count raised or,
past the limit, released. The slots are taken in class rank order: each rejected message gives up its cells and its
descriptor, REJECTED is offered to its source, and a table held then applies if it fits, with CONFIG_APPLIED and CREDIT to
every agent whose watch fires, and else stays HELD (R42, R172, R173); the classes behind an apply meet the limits of the
table that applied (R87). Nothing else is offered to another agent. No other descriptor and no round changes. -/
def Obligations.JoinOfAMemberRejoins : Prop :=
  ∀ (s : State) (p : Agent) (period : Half),
    s.ready p → s.joined p → 16 ≤ period.toNat → period.toNat ≤ 4095 → PlaceLaw s →
    ∃ t, exec (.join p period) s = .next t ∧
      answers s t p 0x10 3 .ok none [(s.members[p]).state.code] ∧
      t.members[p] = ⟨.active, period.toNat, period.toNat, (s.members[p]).discards⟩ ∧
      (∀ a : Agent, a ≠ p → t.members[a] = s.members[a]) ∧
      t.snapshots[p] = .all false ∧ (∀ a : Agent, a ≠ p → t.snapshots[a] = s.snapshots[a]) ∧
      t.watches[p] = .all none ∧ (∀ k, (t.hands[p]).get k = none) ∧ t.voting = s.voting ∧ t.latches[p] = none ∧
      (s.voting = none → t.notices[p] = [.rejoined]) ∧
      (∀ v, s.voting = some v →
        t.notices[p] = if v.required[p] = true ∧ v.consented[p] = false then
          [.rejoined, .proposalOpen v.proposer v.number] else [.rejoined]) ∧
      (∀ k, (s.hands[p]).get k = none → (t.queues[p]).get k = (s.queues[p]).get k) ∧
      (∀ d : DescId, (∀ k, (s.hands[p]).get k ≠ some d) → t.descs[d] = s.descs[d]) ∧
      (∀ k d m adm, (s.hands[p]).get k = some d → s.descs[d] = .inHand m adm →
        (let back : Prop := t.descs[d] = .queued { m with redeliveries := m.redeliveries + 1 } adm ∧
           (t.queues[p]).get k = d :: (s.queues[p]).get k
         let gone : Prop := t.descs[d] = .free ∧ (t.queues[p]).get k = (s.queues[p]).get k
         let limit := s.table.redelivery.get k
         (s.slot = none ∨ t.epoch = s.epoch ∨ k = .express →
           (m.redeliveries + 1 ≤ limit → back) ∧ (limit < m.redeliveries + 1 → gone)) ∧
         ∀ h, s.slot = some h →
           (m.redeliveries + 1 ≤ min limit (h.table.redelivery.get k) → back) ∧
           (max limit (h.table.redelivery.get k) < m.redeliveries + 1 → gone))) ∧
      (∃ w, rejoinReturned { s with members := s.members.set p { s.members[p] with state := .active } } w p ∧
        (∀ b : Agent, b ≠ p →
          t.notices[b] = w.notices[b] ∧ t.latches[b] = w.latches[b] ∧ t.watches[b] = w.watches[b]) ∧
        t = { w with
          members := t.members, snapshots := t.snapshots, frames := t.frames, notices := t.notices
          latches := t.latches, watches := t.watches }) ∧
      (HeldLaw s → fitTested s t) ∧
      (s.slot = none →
        (let rejected : List (Message × Admission) := classes.filterMap (fun k =>
           match (s.hands[p]).get k with
           | none => none
           | some d =>
             match s.admitted d with
             | none => none
             | some (m, adm) => if s.table.redelivery.get k < m.redeliveries + 1 then some (m, adm) else none)
         let cells := rejected.flatMap (fun r => r.1.cells)
         t.scrubQueue = s.scrubQueue ++ cells ∧
         (∀ x : CellId, t.cellMap[x] = if x ∈ cells then (s.cellMap[x]).released else s.cellMap[x]) ∧
         (∀ a : Agent, t.inUse[a] = s.inUse[a] - rejected.countP (fun r => r.1.source = a)) ∧
         (s.engine ≠ .idle → t.engine = s.engine ∧ t.clearLeft = s.clearLeft) ∧
         (∀ b : Agent, b ≠ p →
           toldInOrder s t b (rejected.map (fun r => (r.1.source, .rejected p r.1.cls r.2.tag))) ∧
           t.watches[b] = s.watches[b]) ∧
         t.table = s.table ∧ t.slot = none ∧ t.epoch = s.epoch ∧ t.prescaleCount = s.prescaleCount ∧
         t.periodCount = s.periodCount ∧ t.postscaleCount = s.postscaleCount)) ∧
      (∀ a : Agent, a ≠ p → t.queues[a] = s.queues[a] ∧ t.hands[a] = s.hands[a]) ∧
      t = { s with
        cellMap := t.cellMap, scrubQueue := t.scrubQueue, engine := t.engine, clearLeft := t.clearLeft
        descs := t.descs, inUse := t.inUse, queues := t.queues, hands := t.hands, members := t.members
        snapshots := t.snapshots, frames := t.frames, table := t.table, slot := t.slot, epoch := t.epoch
        prescaleCount := t.prescaleCount, periodCount := t.periodCount, postscaleCount := t.postscaleCount
        notices := t.notices, latches := t.latches, watches := t.watches }

/-- R133, R134, R136: LEAVE of a CLOSING agent changes nothing; of an ACTIVE agent that holds nothing it brings the port
to OFFLINE; of one that holds a message it brings the port to CLOSING. The round is told either way (R167, R168, R170): the
proposer leaving withdraws it; a required agent leaves the sets, and where every member that remains has consented the
table is committed, and applies if it fits and is held if not. PROPOSAL_CLOSED goes to the proposer and the agents still
required, then CONFIG_APPLIED and CREDIT follow, and PEER_LEFT last where the port is OFFLINE. -/
def Obligations.LeaveEndsMembership : Prop :=
  ∀ (s : State) (p : Agent), s.ready p → s.joined p →
    ∃ t, exec (.leave p) s = .next t ∧
      (s.portIs p .closing → answers s t p 0x11 1 .ok none [0x02] ∧ t = { s with frames := t.frames }) ∧
      (s.portIs p .active → s.holdsNothing p = true →
        answers s t p 0x11 1 .ok none [0x00] ∧ wentOffline s t p ∧ t.latches[p] = none ∧
        ∀ b : Agent, b ≠ p → leaveTold s t p [] [.peerLeft p] b) ∧
      (s.portIs p .active → s.holdsNothing p = false →
        answers s t p 0x11 1 .ok none [0x02] ∧ t.members[p] = { s.members[p] with state := .closing } ∧
        t.snapshots = s.snapshots ∧ ∀ b : Agent, leaveTold s t p [] [] b) ∧
      (s.portIs p .active → leftRound s t p ∧
        match s.commitsAt p with
        | none => tableKept s t
        | some v => committed s t v) ∧
      (∀ a : Agent, a ≠ p → t.members[a] = s.members[a] ∧ t.snapshots[a] = s.snapshots[a]) ∧
      t = { s with
        members := t.members, snapshots := t.snapshots, frames := t.frames, voting := t.voting, table := t.table
        slot := t.slot, epoch := t.epoch, prescaleCount := t.prescaleCount, periodCount := t.periodCount
        postscaleCount := t.postscaleCount, notices := t.notices, latches := t.latches, watches := t.watches }

/-- R135, R136: the drain test brings a CLOSING agent whose six places are empty to OFFLINE and offers PEER_LEFT to the
others; the rest of its own NOTICES response becomes 0x00 (R152, R184), in TURNAROUND too as the model reads it (log 15), and
of a byte partly shifted the remaining bits (log 16). Of any other agent it changes nothing. That a command of its own runs
the test is the model's choice (log 20). -/
def Obligations.DrainEndsClosing : Prop :=
  ∀ (s : State) (a : Agent), s.quiet →
    (s.portIs a .closing → s.holdsNothing a = true →
      ∃ t, exec (.drainCompletion a) s = .next t ∧ wentOffline s t a ∧ t.latches[a] = none ∧
        (∀ b : Agent, b ≠ a → t.members[b] = s.members[b] ∧ t.snapshots[b] = s.snapshots[b] ∧
          t.watches[b] = s.watches[b] ∧ t.frames[b] = s.frames[b] ∧
          t.notices[b] = ((s.offer b (.peerLeft a)).notices)[b] ∧
          t.latches[b] = ((s.offer b (.peerLeft a)).latches)[b]) ∧
        (if (s.frames[a]).opcode = some 0x31 ∧
            ((s.frames[a]).phase = .turnaround ∨ (s.frames[a]).phase = .response) then
          zeroed s.frames[a] t.frames[a] else t.frames[a] = s.frames[a]) ∧
        t = { s with
          members := t.members, snapshots := t.snapshots, frames := t.frames, notices := t.notices
          latches := t.latches, watches := t.watches }) ∧
    (¬s.portIs a .closing ∨ s.holdsNothing a = false → exec (.drainCompletion a) s = .next s)

/-! ## Posting -/

/-- R52, R55: of an ACTIVE caller's POST header the first failing step gives the result: BADARG, BADDEST, BADLEN,
PEER_ABSENT or PEER_CLOSING, NOSLOT, NOCREDIT. The request phase ends at the sixth byte and no block changes. -/
def Obligations.HeaderIsRefusedAtItsFirstFailingStep : Prop :=
  ∀ (s : State) (p : Agent) (dest cls flags : Byte) (len : Half), s.ready p → s.portIs p .active →
    ∀ r : Result,
      (let badFlags : Prop := ∃ i : Nat, 2 ≤ i ∧ i ≤ 7 ∧ flags.getLsbD i = true
       (((badFlags ∨ 2 < cls.toNat) ∧ r = .badarg) ∨
        (¬badFlags ∧ cls.toNat ≤ 2 ∧ (3 < dest.toNat ∨ dest.toNat = p.val) ∧ r = .baddest) ∨
        ∃ (k : MsgClass) (d : Agent), ¬badFlags ∧ classCode k = cls ∧ d.val = dest.toNat ∧ d ≠ p ∧
          (((len.toNat = 0 ∨ maxLength k < len.toNat) ∧ r = .badlen) ∨
           (0 < len.toNat ∧ len.toNat ≤ maxLength k ∧
            (((s.portIs d .offline ∨ s.portIs d .fenced) ∧ r = .peerAbsent) ∨
             (s.portIs d .closing ∧ r = .peerClosing) ∨
             (s.portIs d .active ∧
              (let noSlot : Prop := (∀ x : DescId, s.descs[x] ≠ .free) ∨ s.table.descLimit[p] ≤ s.inUse[p] ∨
                 ∃ h, s.slot = some h ∧ h.table.descLimit[p] ≤ s.inUse[p]
               ((noSlot ∧ r = .noSlot) ∨
                (¬noSlot ∧ s.commonHeadroom p < cellsFor len.toNat ∧
                  s.reservedHeadroom p k < cellsFor len.toNat ∧ r = .noCredit))))))))) →
      ∃ t, exec (.postHeader p dest cls flags len) s = .next t ∧ answers s t p 0x20 6 r none [] ∧
        t = { s with frames := t.frames }

/-- R56, R28, R15, R57: a header that passes every step stages the message: the lowest FREE descriptor, the first cells of
the free list BOUND in order, the chosen bucket's counts and the caller's descriptors in use raised, the staging context
loaded with the check register at 0xFFFF, every armed watch evaluated after the counts have risen (R21, R22). -/
def Obligations.HeaderThatPassesIsStaged : Prop :=
  ∀ (s : State) (p d : Agent) (k : MsgClass) (flags : Byte) (len : Half) (x : DescId) (c : Charge),
    s.ready p → s.portIs p .active → s.freeList.Nodup → d ≠ p → s.portIs d .active →
    (∀ i : Nat, 2 ≤ i → i ≤ 7 → flags.getLsbD i = false) → 0 < len.toNat → len.toNat ≤ maxLength k →
    s.descs[x] = .free → (∀ y : DescId, y < x → s.descs[y] ≠ .free) → s.inUse[p] < s.table.descLimit[p] →
    (∀ h, s.slot = some h → s.inUse[p] < h.table.descLimit[p]) →
    ((cellsFor len.toNat ≤ s.commonHeadroom p ∧ c = .common p) ∨
      (s.commonHeadroom p < cellsFor len.toNat ∧ cellsFor len.toNat ≤ s.reservedHeadroom p k ∧ c = .reserved p k)) →
    ∃ t, exec (.postHeader p (BitVec.ofNat 8 d.val) (classCode k) flags len) s = .next t ∧
      (let n := cellsFor len.toNat
       t.descs[x] = .staging
         { source := p, dest := d, cls := k, length := len.toNat, cells := s.freeList.take n, charge := c
           redeliveries := 0, receipt := flags.getLsbD 0
           corr := if flags.getLsbD 1 = true then .awaited else .absent } ∧
       (∀ y : DescId, y ≠ x → t.descs[y] = s.descs[y]) ∧
       t.freeList = s.freeList.drop n ∧
       (∀ (i : Nat) (y : CellId), (s.freeList.take n)[i]? = some y → t.cellMap[y] = .bound c x i) ∧
       (∀ y : CellId, y ∉ s.freeList.take n → t.cellMap[y] = s.cellMap[y]) ∧
       (c = .common p →
         t.used.commonTotal = s.used.commonTotal + n ∧ t.used.commonBy[p] = s.used.commonBy[p] + n ∧
         (∀ a : Agent, a ≠ p → t.used.commonBy[a] = s.used.commonBy[a]) ∧ t.used.reserved = s.used.reserved) ∧
       (c = .reserved p k →
         t.used.commonTotal = s.used.commonTotal ∧ t.used.commonBy = s.used.commonBy ∧
         (t.used.reserved[p]).get k = (s.used.reserved[p]).get k + n ∧
         ∀ (a : Agent) (j : MsgClass), a ≠ p ∨ j ≠ k →
           (t.used.reserved[a]).get j = (s.used.reserved[a]).get j)) ∧
      t.inUse[p] = s.inUse[p] + 1 ∧ (∀ a : Agent, a ≠ p → t.inUse[a] = s.inUse[a]) ∧
      t.stagings[p] = some
        { desc := x, corrToCome := if flags.getLsbD 1 = true then 4 else 0, corrBytes := 0, payloadReceived := 0
          checkReceived := 0, checkRegister := 0xFFFF, checkHigh := none } ∧
      (∀ q : Agent, q ≠ p → t.stagings[q] = s.stagings[q]) ∧
      t.frames[p] = { s.frames[p] with bytePos := 6, opcode := some 0x20, bitPos := 0, shiftIn := 0, received := [] } ∧
      sameOtherPorts s t p ∧
      (∀ b : Agent, toldAndEvaluated s t b [] []) ∧
      t = { s with
        descs := t.descs, freeList := t.freeList, cellMap := t.cellMap, used := t.used, inUse := t.inUse
        stagings := t.stagings, frames := t.frames, notices := t.notices, latches := t.latches
        watches := t.watches }

/-- R58 to R62: a byte of a staged POST is the next correlation byte, then the next payload byte, then the high check
byte. Correlation and payload bytes are folded into the check register; payload byte j goes to byte j mod 32 of the cell
at position j/32, and no other byte of any cell changes; the last-result record stays. -/
def Obligations.StagedBytesAreTakenInOrder : Prop :=
  ∀ (s : State) (p : Agent) (c : StagingContext) (m : Message) (b : Byte),
    s.quiet → s.rstnLow = false → s.stagings[p] = some c → s.descs[c.desc] = .staging m → MemoryLaw s →
    (0 < c.corrToCome ∨ c.payloadReceived < m.length ∨ c.checkReceived = 0) →
    ∃ t, exec (.postStagingByte p b) s = .next t ∧
      t.frames[p] = { s.frames[p] with bytePos := (s.frames[p]).bytePos + 1, bitPos := 0, shiftIn := 0 } ∧
      sameOtherPorts s t p ∧
      (∀ q : Agent, q ≠ p → t.stagings[q] = s.stagings[q]) ∧
      (0 < c.corrToCome →
        t.stagings[p] = some { c with
          corrToCome := c.corrToCome - 1, corrBytes := c.corrBytes <<< 8 ||| b.zeroExtend 32
          checkRegister := checkByte c.checkRegister b } ∧
        (1 < c.corrToCome → t.descs = s.descs) ∧
        (c.corrToCome = 1 →
          t.descs[c.desc] = .staging { m with corr := .word (c.corrBytes <<< 8 ||| b.zeroExtend 32) } ∧
          ∀ y : DescId, y ≠ c.desc → t.descs[y] = s.descs[y]) ∧
        t.mem = s.mem) ∧
      (c.corrToCome = 0 → c.payloadReceived < m.length →
        t.stagings[p] = some { c with
          payloadReceived := c.payloadReceived + 1, checkRegister := checkByte c.checkRegister b } ∧
        t.descs = s.descs ∧
        ∀ x : CellId, m.cells[c.payloadReceived / 32]? = some x →
          ∀ a : Nat, memRead t.mem a = if a = cellAddr x (c.payloadReceived % 32) then b else memRead s.mem a) ∧
      (c.corrToCome = 0 → m.length ≤ c.payloadReceived → c.checkReceived = 0 →
        t.stagings[p] = some { c with checkReceived := 1, checkHigh := some b } ∧ t.descs = s.descs ∧
        t.mem = s.mem) ∧
      t = { s with mem := t.mem, descs := t.descs, stagings := t.stagings, frames := t.frames }

/-- R63, R44: at the last check byte a wrong check word gives BADCHECK, and a right one with a destination that is not
ACTIVE gives PEER_GONE; the message is released without notice and takes no tag. A held table that
fits then applies, with CONFIG_APPLIED and CREDIT (R42, R172, R173), and else stays HELD; nobody is offered anything else. -/
def Obligations.LastCheckByteRefuses : Prop :=
  ∀ (s : State) (p : Agent) (c : StagingContext) (m : Message) (hi b : Byte) (r : Result),
    s.quiet → s.rstnLow = false → s.stagings[p] = some c → s.descs[c.desc] = .staging m →
    c.corrToCome = 0 → m.length ≤ c.payloadReceived → c.checkReceived = 1 → c.checkHigh = some hi →
    ((half hi b ≠ c.checkRegister ∧ r = .badcheck) ∨
      (half hi b = c.checkRegister ∧ ¬s.portIs m.dest .active ∧ r = .peerGone)) →
    ∃ t, exec (.postLastCheckByte p b) s = .next t ∧ dropped s t c.desc m ∧
      t.stagings[p] = none ∧ (∀ q : Agent, q ≠ p → t.stagings[q] = s.stagings[q]) ∧
      answers s t p 0x20 ((s.frames[p]).bytePos + 1) r none [] ∧
      fitTested s t ∧ (∀ b : Agent, releaseTold s t none [] b) ∧
      t = { s with
        cellMap := t.cellMap, scrubQueue := t.scrubQueue, engine := t.engine, clearLeft := t.clearLeft
        descs := t.descs, inUse := t.inUse, stagings := t.stagings, frames := t.frames
        table := t.table, slot := t.slot, epoch := t.epoch, prescaleCount := t.prescaleCount
        periodCount := t.periodCount, postscaleCount := t.postscaleCount
        notices := t.notices, latches := t.latches, watches := t.watches }

/-- R63, R64, R30: a right check word with an ACTIVE destination admits the message: it takes the next tag and the present
tick, joins the tail of its queue, and the response carries tag and charge. -/
def Obligations.LastCheckByteAdmits : Prop :=
  ∀ (s : State) (p : Agent) (c : StagingContext) (m : Message) (hi b : Byte),
    s.quiet → s.rstnLow = false → s.stagings[p] = some c → s.descs[c.desc] = .staging m →
    c.corrToCome = 0 → m.length ≤ c.payloadReceived → c.checkReceived = 1 → c.checkHigh = some hi →
    half hi b = c.checkRegister → s.portIs m.dest .active →
    ∃ t, exec (.postLastCheckByte p b) s = .next t ∧
      (let tag := s.assignTag m.source
       t.descs[c.desc] = .queued m ⟨tag, s.ticks⟩ ∧ (∀ y : DescId, y ≠ c.desc → t.descs[y] = s.descs[y]) ∧
       (t.queues[m.dest]).get m.cls = (s.queues[m.dest]).get m.cls ++ [c.desc] ∧
       (∀ (a : Agent) (k : MsgClass), a ≠ m.dest ∨ k ≠ m.cls →
         (t.queues[a]).get k = (s.queues[a]).get k) ∧
       t.nextTag[m.source] = (if tag = 0xFFFF then 1 else tag + 1) ∧
       (∀ a : Agent, a ≠ m.source → t.nextTag[a] = s.nextTag[a]) ∧
       t.stagings[p] = none ∧ (∀ q : Agent, q ≠ p → t.stagings[q] = s.stagings[q]) ∧
       answers s t p 0x20 ((s.frames[p]).bytePos + 1) .ok (some tag) (bytes16 tag ++ [m.charge.code])) ∧
      t = { s with
        descs := t.descs, queues := t.queues, nextTag := t.nextTag, stagings := t.stagings, frames := t.frames }

/-- R31: the tag of an admission is the first value from the source's counter on, with the wrap from 65535 to 1, that no
QUEUED or IN_HAND message of the source carries; at most 128 values are passed over. -/
def Obligations.TagIsTheFirstUnusedValue : Prop :=
  ∀ (s : State) (a : Agent),
    ∃ n : Nat, n ≤ 128 ∧ s.assignTag a = (tagAfter^[n]) s.nextTag[a] ∧
      (∀ i : Nat, i < n → ∃ d m adm, s.admitted d = some (m, adm) ∧ m.source = a ∧
        adm.tag = (tagAfter^[i]) s.nextTag[a]) ∧
      ∀ d m adm, s.admitted d = some (m, adm) → m.source = a → adm.tag ≠ s.assignTag a

/-- R60, R79, R61: the payload bytes of a staging, sent one after another, are the message's payload, and the check register
is folded over them. -/
def Obligations.StagedPayloadReadsBack : Prop :=
  ∀ (s : State) (p : Agent) (c : StagingContext) (m : Message) (bs : List Byte),
    s.quiet → s.rstnLow = false → PartLaw s → MemoryLaw s →
    s.stagings[p] = some c → s.descs[c.desc] = .staging m →
    c.corrToCome = 0 → c.payloadReceived = 0 → bs.length = m.length →
    ∃ t, runAll (bs.map (.postStagingByte p)) s = some t ∧ t.payload m = bs ∧
      t.stagings[p] = some { c with
        payloadReceived := m.length, checkRegister := bs.foldl checkByte c.checkRegister } ∧
      t = { s with mem := t.mem, stagings := t.stagings, frames := t.frames }

/-- R61: the check register starts at 0xFFFF; each byte is folded in bit by bit, the most significant first: the bit is
combined with the top bit of the register, the register shifts left by one, and where the combined bit is 1 it is combined
with 0x1021. Both values R61 gives come out. -/
def Obligations.CheckWordIsFoldedBitByBit : Prop :=
  (∀ (reg : Half) (b : Byte), checkByte reg b =
    ([7, 6, 5, 4, 3, 2, 1, 0] : List Nat).foldl
      (fun (r : Half) (i : Nat) => r <<< 1 ^^^ (if xor (b.getLsbD i) (r.getLsbD 15) then 0x1021 else 0)) reg) ∧
  checkWord [] = 0xFFFF ∧ (∀ (bs : List Byte) (b : Byte), checkWord (bs ++ [b]) = checkByte (checkWord bs) b) ∧
  checkWord [0x31, 0x32, 0x33, 0x34, 0x35, 0x36, 0x37, 0x38, 0x39] = 0x29B1 ∧ checkWord [0x00] = 0xE1F0

/-! ## Delivery -/

/-- R73 to R79, R190: FETCH with a selector above 3 is refused BADARG; a class with an occupied hand slot is delivered
again as a repeat; else the head of its queue is taken into hand and delivered; with neither, and for ANY with nothing
anywhere, the answer is EMPTY. ANY selects the highest-ranked class that has either. -/
def Obligations.FetchDelivers : Prop :=
  ∀ (s : State) (p : Agent) (sel : Byte), s.ready p → s.joined p → PlaceLaw s →
    (3 < sel.toNat →
      ∃ t, exec (.fetch p sel) s = .next t ∧ answers s t p 0x21 2 .badarg none [] ∧
        t = { s with frames := t.frames }) ∧
    (sel = 3 → (∀ k, (s.hands[p]).get k = none ∧ (s.queues[p]).get k = []) →
      ∃ t, exec (.fetch p sel) s = .next t ∧ answers s t p 0x21 2 .empty none [] ∧
        t = { s with frames := t.frames }) ∧
    ∀ k, selects s p sel k →
      (let reply (t : State) (m : Message) (adm : Admission) (again : Nat) : List Byte :=
         [BitVec.ofNat 8 m.source.val, classCode k] ++ bytes16 adm.tag ++ bytes16 (BitVec.ofNat 16 m.length) ++
           [BitVec.ofNat 8 m.redeliveries,
            BitVec.ofNat 8 ((if m.receipt then 1 else 0) + (if m.corr = .absent then 0 else 2) + again),
            m.charge.code, BitVec.ofNat 8 ((t.queues[p]).get k).length] ++
           (corrBytesOf m.corr ++ s.payload m) ++ bytes16 (checkWord (corrBytesOf m.corr ++ s.payload m))
       (((s.hands[p]).get k = none → (s.queues[p]).get k = [] →
         ∃ t, exec (.fetch p sel) s = .next t ∧ answers s t p 0x21 2 .empty none [] ∧
           t = { s with frames := t.frames }) ∧
        (∀ d m adm, (s.hands[p]).get k = some d → s.descs[d] = .inHand m adm →
         ∃ t, exec (.fetch p sel) s = .next t ∧ answers s t p 0x21 2 .ok none (reply t m adm 4) ∧
           t = { s with frames := t.frames }) ∧
        (∀ d rest m adm, (s.hands[p]).get k = none → (s.queues[p]).get k = d :: rest →
          s.descs[d] = .queued m adm →
         ∃ t, exec (.fetch p sel) s = .next t ∧ answers s t p 0x21 2 .ok none (reply t m adm 0) ∧
           t.descs[d] = .inHand m adm ∧ (∀ y : DescId, y ≠ d → t.descs[y] = s.descs[y]) ∧
           (t.queues[p]).get k = rest ∧ (t.hands[p]).get k = some d ∧
           (∀ (a : Agent) (j : MsgClass), a ≠ p ∨ j ≠ k →
             (t.queues[a]).get j = (s.queues[a]).get j ∧ (t.hands[a]).get j = (s.hands[a]).get j) ∧
           t = { s with descs := t.descs, queues := t.queues, hands := t.hands, frames := t.frames })))

/-- R82, R83: ACK of a class above 2 is refused BADARG, and of a tag that is not in hand in that class NOT_IN_HAND; an
accepted ACK releases the in-hand message. In this order: DELIVERED is offered to its source where a receipt was asked for;
a CLOSING caller that holds nothing more reaches OFFLINE and the others are offered PEER_LEFT (R93, R135); and a held table
that fits applies, with CONFIG_APPLIED and CREDIT, and else stays HELD (R42, R172, R173). -/
def Obligations.AckReleasesTheMessageInHand : Prop :=
  ∀ (s : State) (p : Agent) (cls : Byte) (tag : Half), s.ready p → s.joined p → PlaceLaw s →
    (2 < cls.toNat →
      ∃ t, exec (.ack p cls tag) s = .next t ∧ answers s t p 0x22 4 .badarg none [] ∧
        t = { s with frames := t.frames }) ∧
    ∀ k, classCode k = cls →
      (((∀ d m adm, (s.hands[p]).get k = some d → s.descs[d] = .inHand m adm → adm.tag ≠ tag) →
        ∃ t, exec (.ack p cls tag) s = .next t ∧ answers s t p 0x22 4 .notInHand none [] ∧
          t = { s with frames := t.frames }) ∧
       ∀ d m adm, (s.hands[p]).get k = some d → s.descs[d] = .inHand m adm → adm.tag = tag →
        ∃ t, exec (.ack p cls tag) s = .next t ∧ answers s t p 0x22 4 .ok none [] ∧
          dropped s t d m ∧ (t.hands[p]).get k = none ∧
          (∀ (a : Agent) (j : MsgClass), a ≠ p ∨ j ≠ k → (t.hands[a]).get j = (s.hands[a]).get j) ∧
          drained s t p ∧
          fitTested s t ∧
          (∀ b : Agent, releaseTold s t (s.leaverAt t p)
            (if m.receipt = true ∧ b = m.source then [.delivered p k tag] else []) b) ∧
          t = { s with
            cellMap := t.cellMap, scrubQueue := t.scrubQueue, engine := t.engine, clearLeft := t.clearLeft
            descs := t.descs, inUse := t.inUse, hands := t.hands, members := t.members, snapshots := t.snapshots
            frames := t.frames, table := t.table, slot := t.slot, epoch := t.epoch
            prescaleCount := t.prescaleCount, periodCount := t.periodCount, postscaleCount := t.postscaleCount
            notices := t.notices, latches := t.latches, watches := t.watches })

/-- R84 to R86: NACK is refused as ACK is; an accepted one raises the redelivery count: up to the limit of the class in
the active table the message goes back to the head of its queue, past it the message is released with REJECTED. The
response carries outcome and new count. After REJECTED a CLOSING caller that holds nothing more reaches OFFLINE and the
others are offered PEER_LEFT (R93, R135); then a held table that fits applies, with CONFIG_APPLIED and CREDIT, and else
stays HELD (R42, R172, R173). -/
def Obligations.NackReturnsOrRejects : Prop :=
  ∀ (s : State) (p : Agent) (cls : Byte) (tag : Half), s.ready p → s.joined p → PlaceLaw s →
    (2 < cls.toNat →
      ∃ t, exec (.nack p cls tag) s = .next t ∧ answers s t p 0x23 4 .badarg none [] ∧
        t = { s with frames := t.frames }) ∧
    ∀ k, classCode k = cls →
      (((∀ d m adm, (s.hands[p]).get k = some d → s.descs[d] = .inHand m adm → adm.tag ≠ tag) →
        ∃ t, exec (.nack p cls tag) s = .next t ∧ answers s t p 0x23 4 .notInHand none [] ∧
          t = { s with frames := t.frames }) ∧
       (∀ d m adm, (s.hands[p]).get k = some d → s.descs[d] = .inHand m adm → adm.tag = tag →
        m.redeliveries + 1 ≤ s.table.redelivery.get k →
        ∃ t, exec (.nack p cls tag) s = .next t ∧
          answers s t p 0x23 4 .ok none [0x00, BitVec.ofNat 8 (m.redeliveries + 1)] ∧
          t.descs[d] = .queued { m with redeliveries := m.redeliveries + 1 } adm ∧
          (∀ y : DescId, y ≠ d → t.descs[y] = s.descs[y]) ∧
          (t.queues[p]).get k = d :: (s.queues[p]).get k ∧ (t.hands[p]).get k = none ∧
          (∀ (a : Agent) (j : MsgClass), a ≠ p ∨ j ≠ k →
            (t.queues[a]).get j = (s.queues[a]).get j ∧ (t.hands[a]).get j = (s.hands[a]).get j) ∧
          t = { s with descs := t.descs, queues := t.queues, hands := t.hands, frames := t.frames }) ∧
       ∀ d m adm, (s.hands[p]).get k = some d → s.descs[d] = .inHand m adm → adm.tag = tag →
        s.table.redelivery.get k < m.redeliveries + 1 →
        ∃ t, exec (.nack p cls tag) s = .next t ∧
          answers s t p 0x23 4 .ok none [0x01, BitVec.ofNat 8 (m.redeliveries + 1)] ∧
          dropped s t d m ∧ (t.hands[p]).get k = none ∧
          (∀ (a : Agent) (j : MsgClass), a ≠ p ∨ j ≠ k → (t.hands[a]).get j = (s.hands[a]).get j) ∧
          drained s t p ∧
          fitTested s t ∧
          (∀ b : Agent, releaseTold s t (s.leaverAt t p) (if b = m.source then [.rejected p k tag] else []) b) ∧
          t = { s with
            cellMap := t.cellMap, scrubQueue := t.scrubQueue, engine := t.engine, clearLeft := t.clearLeft
            descs := t.descs, inUse := t.inUse, hands := t.hands, members := t.members, snapshots := t.snapshots
            frames := t.frames, table := t.table, slot := t.slot, epoch := t.epoch
            prescaleCount := t.prescaleCount, periodCount := t.periodCount, postscaleCount := t.postscaleCount
            notices := t.notices, latches := t.latches, watches := t.watches })

/-- R46, R47: RECALL of a class above 2 is refused BADARG, of a destination above 3 or the caller itself BADDEST; a queued
message of the caller with that destination, class and tag is released without notice; one in hand gives IN_HAND, and no
such message UNKNOWN_TAG. A CLOSING destination that holds nothing more reaches OFFLINE, the rest of its NOTICES response is
zero-filled and the others are offered PEER_LEFT (R135, R152; log 15, log 16); then a held table that fits applies, with
CONFIG_APPLIED and CREDIT, and else stays HELD (R42, R172, R173). -/
def Obligations.RecallReleasesAQueuedMessage : Prop :=
  ∀ (s : State) (p : Agent) (dest cls : Byte) (tag : Half), s.ready p → s.joined p → PlaceLaw s → TagLaw s →
    ∀ r : Result,
      (((2 < cls.toNat ∧ r = .badarg) ∨
        (cls.toNat ≤ 2 ∧ (3 < dest.toNat ∨ dest.toNat = p.val) ∧ r = .baddest) ∨
        ∃ (k : MsgClass) (d : Agent), classCode k = cls ∧ d.val = dest.toNat ∧ d ≠ p ∧
          (∀ (x : DescId) m adm, s.descs[x] = .queued m adm → m.source = p → m.dest = d → m.cls = k → adm.tag ≠ tag) ∧
          (((∃ (x : DescId) (m : Message) (adm : Admission), s.descs[x] = .inHand m adm ∧ m.source = p ∧ m.dest = d ∧
              m.cls = k ∧ adm.tag = tag) ∧
            r = .inHand) ∨
           ((∀ (x : DescId) m adm, s.descs[x] = .inHand m adm → m.source = p → m.dest = d → m.cls = k → adm.tag ≠ tag) ∧
            r = .unknownTag))) →
        ∃ t, exec (.recallMessage p dest cls tag) s = .next t ∧ answers s t p 0x24 5 r none [] ∧
          t = { s with frames := t.frames }) ∧
      ∀ x m adm, s.descs[x] = .queued m adm → m.source = p → m.dest ≠ p → m.dest.val = dest.toNat →
        classCode m.cls = cls → adm.tag = tag →
        ∃ t, exec (.recallMessage p dest cls tag) s = .next t ∧ dropped s t x m ∧
          (t.queues[m.dest]).get m.cls = ((s.queues[m.dest]).get m.cls).filter (fun y => y ≠ x) ∧
          (∀ (a : Agent) (j : MsgClass), a ≠ m.dest ∨ j ≠ m.cls →
            (t.queues[a]).get j = (s.queues[a]).get j) ∧
          t.frames[p] = { csnLow := (s.frames[p]).csnLow, phase := .turnaround, bytePos := 5, opcode := some 0x24
                          last := some ⟨0x24, .ok, none⟩, out := [0x5A, 0x01], recordsLeft := 0 } ∧
          (∀ q : Agent, q ≠ p → q ≠ m.dest → t.frames[q] = s.frames[q]) ∧
          drained s t m.dest ∧
          (if s.leaverAt t m.dest = some m.dest then drainedFrame s.frames[m.dest] t.frames[m.dest]
            else t.frames[m.dest] = s.frames[m.dest]) ∧
          fitTested s t ∧ (∀ b : Agent, releaseTold s t (s.leaverAt t m.dest) [] b) ∧
          t = { s with
            cellMap := t.cellMap, scrubQueue := t.scrubQueue, engine := t.engine, clearLeft := t.clearLeft
            descs := t.descs, inUse := t.inUse, queues := t.queues, members := t.members
            snapshots := t.snapshots, frames := t.frames, table := t.table, slot := t.slot, epoch := t.epoch
            prescaleCount := t.prescaleCount, periodCount := t.periodCount, postscaleCount := t.postscaleCount
            notices := t.notices, latches := t.latches, watches := t.watches }

/-! ## Credit -/

/-- R11, R12, R13, R14: the common headroom of an agent is the smaller of the pool figure and the cap figure, and the reserved
headroom of one bucket is its size less its count, each floored at 0; while a table is held the common headroom is the
smallest of the four figures of both tables, and the reserved headroom takes the smaller of the two sizes. The credit level
is the larger of the two headrooms. -/
def Obligations.HeadroomIsTheSmallestFigure : Prop :=
  ∀ (s : State) (a : Agent) (k : MsgClass),
    (let pool (x : Table) : Nat :=
       384 - (∑ b : Agent, ((x.reserved[b]).express + (x.reserved[b]).standard + (x.reserved[b]).bulk)) -
         s.used.commonTotal
     let cap (x : Table) : Nat := x.cap[a] - s.used.commonBy[a]
     let size (x : Table) : Nat := (x.reserved[a]).get k
     (s.slot = none →
       s.commonHeadroom a = min (pool s.table) (cap s.table) ∧
       s.reservedHeadroom a k = size s.table - (s.used.reserved[a]).get k) ∧
     (∀ h, s.slot = some h →
       s.commonHeadroom a = min (min (pool s.table) (cap s.table)) (min (pool h.table) (cap h.table)) ∧
       s.reservedHeadroom a k = min (size s.table) (size h.table) - (s.used.reserved[a]).get k) ∧
     s.creditLevel a k = max (s.commonHeadroom a) (s.reservedHeadroom a k))

/-- R19: WATCH by its table: STARTING, NOTJOINED, FENCED, BADARG, disarm, and arm with the test at once. The response
carries the caller's credit level in the class. -/
def Obligations.WatchAnswersByItsTable : Prop :=
  ∀ (s : State) (p : Agent) (cls threshold : Byte), s.receiving p →
    ∃ t, exec (.watch p cls threshold) s = .next t ∧
      (s.starting = true →
        answersKeeping s t p 0x30 3 .starting [] (s.frames[p]).last ∧ t = { s with frames := t.frames }) ∧
      (s.starting = false → s.portIs p .offline →
        answers s t p 0x30 3 .notJoined none [] ∧ t = { s with frames := t.frames }) ∧
      (s.starting = false → s.portIs p .fenced →
        answers s t p 0x30 3 .fenced none [] ∧ t = { s with frames := t.frames }) ∧
      (s.starting = false → s.joined p → 2 < cls.toNat ∨ 8 < threshold.toNat →
        answers s t p 0x30 3 .badarg none [] ∧ t = { s with frames := t.frames }) ∧
      (s.starting = false → s.joined p → threshold.toNat ≤ 8 → ∀ k, classCode k = cls →
        answers s t p 0x30 3 .ok none (bytes16 (BitVec.ofNat 16 (s.creditLevel p k))) ∧
        (∀ (a : Agent) (j : MsgClass), a ≠ p ∨ j ≠ k → (t.watches[a]).get j = (s.watches[a]).get j) ∧
        (threshold = 0 → (t.watches[p]).get k = none ∧ t.notices = s.notices ∧ t.latches = s.latches) ∧
        (threshold ≠ 0 → s.creditLevel p k < threshold.toNat →
          (t.watches[p]).get k = some threshold.toNat ∧ t.notices = s.notices ∧ t.latches = s.latches) ∧
        (threshold ≠ 0 → threshold.toNat ≤ s.creditLevel p k →
          (t.watches[p]).get k = none ∧ told s t (fun b => b = p) (.credit k (s.creditLevel p k))) ∧
        t = { s with watches := t.watches, notices := t.notices, latches := t.latches, frames := t.frames })

/-- R22: the test of an armed watch fires it where the level reaches its threshold: CREDIT with the level is offered to
its agent and the watch is DISARMED. That a command of its own runs the test, and changes nothing where it fails, is the
model's choice (log 20). -/
def Obligations.WatchFiresAtItsThreshold : Prop :=
  ∀ (s : State) (a : Agent) (k : MsgClass), s.quiet →
    ((s.watches[a]).get k = none → exec (.watchFire a k) s = .next s) ∧
    ∀ n, (s.watches[a]).get k = some n →
      (s.creditLevel a k < n → exec (.watchFire a k) s = .next s) ∧
      (n ≤ s.creditLevel a k →
        ∃ t, exec (.watchFire a k) s = .next t ∧ (t.watches[a]).get k = none ∧
          (∀ (b : Agent) (j : MsgClass), b ≠ a ∨ j ≠ k → (t.watches[b]).get j = (s.watches[b]).get j) ∧
          told s t (fun b => b = a) (.credit k (s.creditLevel a k)) ∧
          t = { s with watches := t.watches, notices := t.notices, latches := t.latches })

/-! ## Notices and the summary -/

/-- R144, R151: the four tests of an offer. An offer folded into an OVERRUN record that is being shifted out is counted
apart. -/
def Obligations.OfferIsJudgedByFourTests : Prop :=
  ∀ (s : State) (a : Agent) (n : Notice),
    (s.portIs a .offline ∨ s.portIs a .fenced → s.offer a n = s) ∧
    (s.joined a →
      (∀ q c, s.notices[a] = q ++ [.overrun c] →
        (s.latches[a] = none →
          (s.offer a n).notices[a] = q ++ [.overrun (min 255 (c + 1))] ∧ (s.offer a n).latches = s.latches) ∧
        (∀ l, s.latches[a] = some l →
          (s.offer a n).notices = s.notices ∧
          (s.offer a n).latches[a] = some { l with since := min 255 (l.since + 1) })) ∧
      ((∀ q c, s.notices[a] ≠ q ++ [.overrun c]) → (s.notices[a]).length < 15 →
        (s.offer a n).notices[a] = s.notices[a] ++ [n] ∧ (s.offer a n).latches = s.latches) ∧
      ((∀ q c, s.notices[a] ≠ q ++ [.overrun c]) → 15 ≤ (s.notices[a]).length →
        (s.offer a n).notices[a] = s.notices[a] ++ [.overrun 1] ∧ (s.offer a n).latches = s.latches)) ∧
    (∀ b : Agent, b ≠ a →
      (s.offer a n).notices[b] = s.notices[b] ∧ (s.offer a n).latches[b] = s.latches[b]) ∧
    s.offer a n = { s with notices := (s.offer a n).notices, latches := (s.offer a n).latches }

/-- R149: NOTICES with a maximum of 0 or above 16 is refused BADARG; else it returns a count and that many records from
the head of the queue, which all stay in the queue until they have been shifted out. -/
def Obligations.NoticesReturnsTheHeadRecords : Prop :=
  ∀ (s : State) (p : Agent) (max : Byte), s.ready p → s.joined p →
    ∃ t, exec (.notices p max) s = .next t ∧ sameOtherPorts s t p ∧ t = { s with frames := t.frames } ∧
      (max = 0 ∨ 16 < max.toNat → answers s t p 0x31 2 .badarg none []) ∧
      (max ≠ 0 → max.toNat ≤ 16 →
        (let n := min max.toNat (s.notices[p]).length
         t.frames[p] =
          { csnLow := (s.frames[p]).csnLow, phase := .turnaround, bytePos := 2, opcode := some 0x31
            last := some ⟨0x31, .ok, none⟩
            out := [0x5A, 0x01, BitVec.ofNat 8 n] ++ ((s.notices[p]).take n).flatMap Notice.record
            recordsLeft := n }))

/-- R150, R151: when the last byte of a record of a readout has been shifted out, the head record leaves the queue; an
OVERRUN record that was latched leaves it only if no offer was folded in since, else it stays with that count. When the
first bit of the OVERRUN record is driven, its present count is latched, and the record goes out with it. Where neither
moment has come nothing changes (log 2); the byte position comes forward to the moment (log 17). -/
def Obligations.ReadoutLatchesAndRemovesRecords : Prop :=
  ∀ (s : State) (p : Agent), s.quiet →
    (s.answering p = false ∨ (s.frames[p]).recordsLeft = 0 → exec (.noticeRecordRemoval p) s = .next s) ∧
    (∀ r : Nat, s.answering p = true → (s.frames[p]).recordsLeft = r + 1 →
      ∃ t, exec (.noticeRecordRemoval p) s = .next t ∧
        (s.latches[p] = none → t.notices[p] = (s.notices[p]).tail ∧ t.latches = s.latches) ∧
        (∀ l, s.latches[p] = some l → l.since = 0 → t.notices[p] = (s.notices[p]).tail ∧ t.latches[p] = none) ∧
        (∀ l n, s.latches[p] = some l → 0 < l.since → s.notices[p] = [.overrun n] →
          t.notices[p] = [.overrun l.since] ∧ t.latches[p] = none) ∧
        (∀ b : Agent, b ≠ p → t.notices[b] = s.notices[b] ∧ t.latches[b] = s.latches[b]) ∧
        (let gone := (s.frames[p]).out.length - 6 * r
         t.frames[p] = { s.frames[p] with
          phase := .response, bytePos := (s.frames[p]).bytePos + gone, out := (s.frames[p]).out.drop gone
          recordsLeft := r, bitPos := 0 }) ∧
        sameOtherPorts s t p ∧ t = { s with notices := t.notices, latches := t.latches, frames := t.frames }) ∧
    (s.answering p = false ∨ (s.frames[p]).recordsLeft ≠ 1 ∨ s.latches[p] ≠ none ∨
        (s.frames[p]).out.length < 6 ∨ ((s.frames[p]).out.length = 6 ∧ (s.frames[p]).bitPos ≠ 0) ∨
        (∀ n q, s.notices[p] ≠ .overrun n :: q) → exec (.overrunLatch p) s = .next s) ∧
    ∀ n q, s.answering p = true → (s.frames[p]).recordsLeft = 1 → s.latches[p] = none →
      s.notices[p] = .overrun n :: q →
      6 < (s.frames[p]).out.length ∨ ((s.frames[p]).out.length = 6 ∧ (s.frames[p]).bitPos = 0) →
      ∃ t, exec (.overrunLatch p) s = .next t ∧ t.latches[p] = some ⟨n, 0⟩ ∧
        (∀ b : Agent, b ≠ p → t.latches[b] = s.latches[b]) ∧
        (let gone := (s.frames[p]).out.length - 6
         t.frames[p] = { s.frames[p] with
          phase := .response, bytePos := (s.frames[p]).bytePos + gone
          out := [0x0E, 0xFF, 0x00, 0x00] ++ bytes16 (BitVec.ofNat 16 n), bitPos := 0 }) ∧
        sameOtherPorts s t p ∧ t = { s with latches := t.latches, frames := t.frames }

/-- R156: ATTN is low exactly for an ACTIVE or CLOSING agent with a notice queued or a summary that differs from its
snapshot; a JOIN from FENCED and a rejoin leave it low, SUMMARY leaves it to the notices alone, fencing releases it. R178,
R179: SDO is at high impedance while RSTN is low and while CSN is high, 0x00 in REQUEST, and the next byte of the response,
0x00 past its end, after that; the most significant bit goes first. That it is 0x00 in the rest of a byte position in which
a staging was aborted is read from R69 (log 16). -/
def Obligations.PinsFollowTheState : Prop :=
  ∀ (s : State) (p : Agent),
    (s.attentionLow p = true ↔ s.joined p ∧
      (s.notices[p] ≠ [] ∨ ∃ k, ((s.queues[p]).get k = [] ↔ (s.snapshots[p]).get k = true))) ∧
    (∀ period : Half, s.ready p → ¬s.portIs p .offline → 16 ≤ period.toNat → period.toNat ≤ 4095 →
      ∃ t, exec (.join p period) s = .next t ∧ t.attentionLow p = true) ∧
    (s.ready p → s.joined p →
      ∃ t, exec (.summary p) s = .next t ∧ (t.attentionLow p = true ↔ s.notices[p] ≠ [])) ∧
    (s.joined p → (s.members[p]).leaseLeft = 0 →
      ∃ t, exec (.fencing p) s = .next t ∧ t.attentionLow p = false) ∧
    (s.rstnLow = true ∨ (s.frames[p]).csnLow = false → s.sdo p = none ∧ s.sdoBit p = none) ∧
    (∀ x, s.sdo p = some x → s.sdoBit p = some (x.getLsbD (7 - (s.frames[p]).bitPos))) ∧
    (s.rstnLow = false → (s.frames[p]).csnLow = true →
      ((s.frames[p]).phase = .request → s.sdo p = some 0x00) ∧
      ((s.frames[p]).phase = .turnaround ∨ (s.frames[p]).phase = .response →
        ((s.frames[p]).skipping = true → s.sdo p = some 0x00) ∧
        (∀ b rest, (s.frames[p]).skipping = false → (s.frames[p]).out = b :: rest → s.sdo p = some b) ∧
        ((s.frames[p]).out = [] → s.sdo p = some 0x00)))

/-- R154, R155, R190: SUMMARY reports the summary, the three depths, the occupied hand slots and the notice queue's
length, and sets the snapshot equal to the summary. -/
def Obligations.SummaryTakesTheSnapshot : Prop :=
  ∀ (s : State) (p : Agent), s.ready p → s.joined p →
    ∃ t, exec (.summary p) s = .next t ∧
      (∀ k, (t.snapshots[p]).get k = !((s.queues[p]).get k).isEmpty) ∧
      (∀ a : Agent, a ≠ p → t.snapshots[a] = s.snapshots[a]) ∧
      (let bit (b : Bool) (v : Nat) : Nat := if b then v else 0
       let set (f : MsgClass → Bool) : Byte :=
         BitVec.ofNat 8 (bit (f .express) 1 + bit (f .standard) 2 + bit (f .bulk) 4)
       answers s t p 0x32 1 .ok none
        [set (fun k => !((s.queues[p]).get k).isEmpty),
          BitVec.ofNat 8 ((s.queues[p]).get .express).length, BitVec.ofNat 8 ((s.queues[p]).get .standard).length,
          BitVec.ofNat 8 ((s.queues[p]).get .bulk).length,
          set (fun k => ((s.hands[p]).get k).isSome), BitVec.ofNat 8 (s.notices[p]).length]) ∧
      t = { s with snapshots := t.snapshots, frames := t.frames }

/-! ## The table and consent -/

/-- R176: READCFG of the active table, of the held one, of an EMPTY slot, and with another selector. -/
def Obligations.ReadcfgReturnsTheTable : Prop :=
  ∀ (s : State) (p : Agent) (sel : Byte), s.ready p → s.portIs p .active →
    ∃ t, exec (.readcfg p sel) s = .next t ∧ t = { s with frames := t.frames } ∧
      (sel = 0 → answers s t p 0x40 2 .ok none
        (s.table.image ++ bytes16 s.epoch ++ [if s.slot = none then 0 else 1, 0])) ∧
      (sel = 1 → s.slot = none → answers s t p 0x40 2 .empty none []) ∧
      (∀ h, sel = 1 → s.slot = some h → answers s t p 0x40 2 .ok none
        (h.table.image ++ bytes16 s.epoch ++ [1, h.number])) ∧
      (1 < sel.toNat → answers s t p 0x40 2 .badarg none [])

/-- R160: a table is valid exactly when each field lies in its range and the reserved sizes sum to at most 352. R162, R163,
R168, R170: PROPOSE of an invalid table is refused INVALID_TABLE, and of a valid one in an OPEN round
BUSY; else the round opens under the next number with every other ACTIVE agent required, or, with none required, commits
at once: PROPOSAL_CLOSED is offered to the proposer, the table applies if it fits, with CONFIG_APPLIED, and is held if not,
and every armed watch is evaluated (R21, R22). -/
def Obligations.ProposeOpensARound : Prop :=
  (∀ x : Table, x.valid = true ↔
    (∀ (a : Agent) (k : MsgClass), (x.reserved[a]).get k ≤ 64) ∧
    (∑ a : Agent, ((x.reserved[a]).express + (x.reserved[a]).standard + (x.reserved[a]).bulk)) ≤ 352 ∧
    (∀ a : Agent, x.cap[a] ≤ 384 ∧ 1 ≤ x.descLimit[a] ∧ x.descLimit[a] ≤ 128) ∧
    (∀ k : MsgClass, x.lifetime.get k ≤ 65535 ∧ 1 ≤ x.redelivery.get k ∧ x.redelivery.get k ≤ 7) ∧
    (x.prescale = 1 ∨ x.prescale = 4 ∨ x.prescale = 16 ∨ x.prescale = 64) ∧ 1 ≤ x.period ∧ x.period ≤ 256 ∧
    1 ≤ x.postscale ∧ x.postscale ≤ 16 ∧ 10 ≤ x.window ∧ x.window ≤ 1000) ∧
  ∀ (s : State) (p : Agent) (image : List Byte), s.ready p → s.portIs p .active → image.length = 38 →
    ∃ t, exec (.propose p image) s = .next t ∧
      ((tableOfImage image).valid = false →
        answers s t p 0x41 39 .invalidTable none [] ∧ t = { s with frames := t.frames }) ∧
      ((tableOfImage image).valid = true → s.voting ≠ none →
        answers s t p 0x41 39 .busy none [] ∧ t = { s with frames := t.frames }) ∧
      ((tableOfImage image).valid = true → s.voting = none →
        t.lastProposal = s.nextProposal ∧
        t.nextProposal = (if s.nextProposal = 0xFF then 1 else s.nextProposal + 1) ∧
        (let required (b : Agent) : Bool := b ≠ p && (s.members[b]).state = .active
         (((∃ b, required b = true) →
          (∃ v, t.voting = some v ∧ v.number = s.nextProposal ∧ v.proposer = p ∧ v.table = tableOfImage image ∧
            (∀ b : Agent, v.required[b] = required b ∧ v.consented[b] = false) ∧ v.window = s.table.window) ∧
          told s t required (.proposalOpen p s.nextProposal) ∧
          answers s t p 0x41 39 .ok none [s.nextProposal, 0x01, if s.slot = none then 0 else 1] ∧
          t = { s with
            voting := t.voting, nextProposal := t.nextProposal, lastProposal := t.lastProposal
            notices := t.notices, latches := t.latches, frames := t.frames }) ∧
         ((∀ b, required b = false) →
          t.voting = none ∧
          (let v : Proposal := { number := s.nextProposal, proposer := p, table := tableOfImage image
                                 required := noAgents, consented := noAgents, window := s.table.window }
           committed s t v ∧ (∀ b : Agent, commitTold s t v [] [] b) ∧
           answers s t p 0x41 39 .ok none [s.nextProposal, 0x02, if s.fits v.table then 0x00 else 0x01]) ∧
          t = { s with
            nextProposal := t.nextProposal, lastProposal := t.lastProposal, table := t.table, slot := t.slot
            epoch := t.epoch, prescaleCount := t.prescaleCount, periodCount := t.periodCount
            postscaleCount := t.postscaleCount, notices := t.notices, latches := t.latches
            watches := t.watches, frames := t.frames }))))

/-- R164, R168, R170: CONSENT is STALE without an OPEN round of that number and NOT_REQUIRED from an agent outside the
required set; a second consent changes nothing; a consent that does not complete the set is recorded; one that completes
it commits: PROPOSAL_CLOSED is offered to the proposer and the required agents, the table applies if it fits, with
CONFIG_APPLIED, and is held if not, and every armed watch is evaluated (R21, R22). -/
def Obligations.ConsentIsRecordedOrCommits : Prop :=
  ∀ (s : State) (p : Agent) (num : Byte), s.ready p → s.portIs p .active →
    ∃ t, exec (.consent p num) s = .next t ∧
      ((∀ v, s.voting = some v → v.number ≠ num) →
        answers s t p 0x42 2 .stale none [] ∧ t = { s with frames := t.frames }) ∧
      ∀ v, s.voting = some v → v.number = num →
        (v.required[p] = false → answers s t p 0x42 2 .notRequired none [] ∧ t = { s with frames := t.frames }) ∧
        (v.required[p] = true → v.consented[p] = true →
          answers s t p 0x42 2 .ok none [0x01, if s.slot = none then 0 else 1] ∧ t = { s with frames := t.frames }) ∧
        (v.required[p] = true → v.consented[p] = false → v.consented.set p true ≠ v.required →
          t.voting = some { v with consented := v.consented.set p true } ∧
          answers s t p 0x42 2 .ok none [0x01, if s.slot = none then 0 else 1] ∧
          t = { s with voting := t.voting, frames := t.frames }) ∧
        (v.required[p] = true → v.consented[p] = false → v.consented.set p true = v.required →
          t.voting = none ∧
          committed s t v ∧ (∀ b : Agent, commitTold s t v [] [] b) ∧
          answers s t p 0x42 2 .ok none [0x02, if s.fits v.table then 0x00 else 0x01] ∧
          t = { s with
            voting := t.voting, table := t.table, slot := t.slot, epoch := t.epoch
            prescaleCount := t.prescaleCount, periodCount := t.periodCount, postscaleCount := t.postscaleCount
            notices := t.notices, latches := t.latches, watches := t.watches, frames := t.frames })

/-- R165, R168: VETO is STALE and NOT_REQUIRED as CONSENT is; from a required agent it ends the round REJECTED, from the
proposer WITHDRAWN; PROPOSAL_CLOSED names the vetoing agent and goes to the proposer and the required agents; the slot
is not touched. -/
def Obligations.VetoEndsTheRound : Prop :=
  ∀ (s : State) (p : Agent) (num : Byte), s.ready p → s.portIs p .active →
    ∃ t, exec (.veto p num) s = .next t ∧
      ((∀ v, s.voting = some v → v.number ≠ num) →
        answers s t p 0x43 2 .stale none [] ∧ t = { s with frames := t.frames }) ∧
      ∀ v, s.voting = some v → v.number = num →
        (v.required[p] = true →
          answers s t p 0x43 2 .ok none [0x03] ∧ t.voting = none ∧
          told s t (fun b => b = v.proposer || v.required[b]) (.proposalClosed (some p) num .rejected)) ∧
        (v.required[p] = false → v.proposer = p →
          answers s t p 0x43 2 .ok none [0x05] ∧ t.voting = none ∧
          told s t (fun b => b = v.proposer || v.required[b]) (.proposalClosed (some p) num .withdrawn)) ∧
        (v.required[p] = false → v.proposer ≠ p →
          answers s t p 0x43 2 .notRequired none [] ∧ t = { s with frames := t.frames }) ∧
        t = { s with voting := t.voting, notices := t.notices, latches := t.latches, frames := t.frames }

/-- R171 to R173: the fit test passes exactly when every count lies within the held table; then that table becomes active,
the epoch advances, the slot is EMPTY, the clock counts restart, CONFIG_APPLIED is offered and
every armed watch whose level under the new table has reached its threshold fires (R21, R22); a failed test, or an EMPTY
slot, changes nothing. That a command of its own runs the test is the model's choice (log 20). -/
def Obligations.HeldTableAppliesWhenItFits : Prop :=
  ∀ s : State, s.quiet →
    (s.slot = none → exec .applyHeld s = .next s) ∧
    ∀ h, s.slot = some h →
      (let fits : Prop :=
         (∀ (a : Agent) (k : MsgClass), (s.used.reserved[a]).get k ≤ (h.table.reserved[a]).get k) ∧
         s.used.commonTotal ≤ 384 -
           (∑ a : Agent, ((h.table.reserved[a]).express + (h.table.reserved[a]).standard + (h.table.reserved[a]).bulk)) ∧
         (∀ a : Agent, s.used.commonBy[a] ≤ h.table.cap[a]) ∧
         (∀ a : Agent, s.inUse[a] ≤ h.table.descLimit[a])
       ((¬fits → exec .applyHeld s = .next s) ∧
        (fits →
          ∃ t, exec .applyHeld s = .next t ∧ applied s t h.table ∧
            (∀ b : Agent, toldAndEvaluated s t b [.configApplied t.epoch] []) ∧
            t = { s with
              table := t.table, slot := t.slot, epoch := t.epoch, prescaleCount := t.prescaleCount
              periodCount := t.periodCount, postscaleCount := t.postscaleCount, notices := t.notices
              latches := t.latches, watches := t.watches })))

/-- R166, R168: an OPEN round whose window has reached 0 lapses: the proposer and the required agents are told, voting is
IDLE and the last proposal number stays; otherwise nothing changes (log 2). -/
def Obligations.RoundLapsesAtItsWindow : Prop :=
  ∀ s : State,
    (s.voting = none → exec .proposalLapse s = .next s) ∧
    ∀ v, s.voting = some v →
      (v.window ≠ 0 → exec .proposalLapse s = .next s) ∧
      (v.window = 0 →
        ∃ t, exec .proposalLapse s = .next t ∧ t.voting = none ∧
          told s t (fun b => b = v.proposer || v.required[b]) (.proposalClosed none v.number .lapsed) ∧
          t = { s with voting := t.voting, notices := t.notices, latches := t.latches })

/-! ## Time -/

/-- R108, R130, R166, R116: an age tick advances the counter with wrap, lowers by one the lease of every ACTIVE and CLOSING
port and the window of an OPEN round, and makes the expiry pass due with the lifetimes of this moment. While RSTN is low
nothing advances (R109). That the three clock counts are 0 after it is read from R107 (log 6). -/
def Obligations.AgeTickLowersLeasesAndWindow : Prop :=
  ∀ s : State, s.quiet →
    (s.rstnLow = true → exec .ageTick s = .next s) ∧
    (s.rstnLow = false →
      ∃ t, exec .ageTick s = .next t ∧
        t.ticks.toNat = (s.ticks.toNat + 1) % 2 ^ 32 ∧ t.passDue = some s.table.lifetime ∧
        t.prescaleCount = 0 ∧ t.periodCount = 0 ∧ t.postscaleCount = 0 ∧
        (∀ a : Agent, (s.joined a →
            t.members[a] = { s.members[a] with leaseLeft := (s.members[a]).leaseLeft - 1 }) ∧
          (¬s.joined a → t.members[a] = s.members[a])) ∧
        (s.voting = none → t.voting = none) ∧
        (∀ v, s.voting = some v → t.voting = some { v with window := v.window - 1 }) ∧
        t = { s with
          ticks := t.ticks, passDue := t.passDue, prescaleCount := t.prescaleCount
          periodCount := t.periodCount, postscaleCount := t.postscaleCount, members := t.members
          voting := t.voting })

/-- R114, R113, R116: the expiry pass releases every QUEUED message whose age is at or over the lifetime of its class,
where that is not 0, under the lifetimes of the tick, and no other; the queues close up. The cells enter the scrub queue
in the order of the pass: by destination, by class, from head to tail; with no table held and no drain completed the
sources are offered EXPIRED in that order, and nobody anything else; of a pass that releases one message the offers are
EXPIRED, then PEER_LEFT of a CLOSING destination that holds nothing more, then those of an apply (R42). A CLOSING agent
whose last message the pass releases reaches OFFLINE (R115, R135, R136, R152; log 15, log 16), and every other agent stays
as it was; a held table applies where it fits (R172), with the watches evaluated (R21). A pass that is not due changes
nothing (log 2). -/
def Obligations.ExpiryPassReleasesTheOld : Prop :=
  ∀ s : State, PlaceLaw s →
    (s.passDue = none → exec .expiryPass s = .next s) ∧
    ∀ life, s.passDue = some life →
      (let old (m : Message) (adm : Admission) : Bool :=
         decide (life.get m.cls ≠ 0 ∧ life.get m.cls ≤ (s.ticks - adm.tick).toNat)
       let expired : List DescId := agents.flatMap (fun a => classes.flatMap (fun k =>
         ((s.queues[a]).get k).filter (fun d => match s.admitted d with
           | none => false
           | some (m, adm) => old m adm)))
       ∃ t, exec .expiryPass s = .next t ∧ t.passDue = none ∧
        (∀ (d : DescId) m adm, s.descs[d] = .queued m adm → old m adm → t.descs[d] = .free) ∧
        (∀ (d : DescId) m adm, s.descs[d] = .queued m adm → old m adm = false → t.descs[d] = .queued m adm) ∧
        (∀ (d : DescId), (∀ m adm, s.descs[d] ≠ .queued m adm) → t.descs[d] = s.descs[d]) ∧
        (∀ (a : Agent) (k : MsgClass),
          (t.queues[a]).get k = ((s.queues[a]).get k).filter (fun d => t.descs[d] ≠ .free)) ∧
        (∀ (a : Agent) (k : MsgClass), (t.hands[a]).get k = (s.hands[a]).get k) ∧
        (∀ (d : DescId) m adm, s.descs[d] = .queued m adm → old m adm →
          (∀ (e : DescId) m' adm', s.descs[e] = .queued m' adm' → old m' adm' → e = d) →
          dropped s t d m ∧ fitTested s t ∧
            ∀ b : Agent, releaseTold s t (s.leaverAt t m.dest)
              (if b = m.source then [.expired m.dest m.cls adm.tag] else []) b) ∧
        t.scrubQueue = s.scrubQueue ++ s.cellsOf expired ∧ (HeldLaw s → fitTested s t) ∧
        (∀ a : Agent,
          (let gone : Prop := s.leaverAt t a = some a ∧ ∃ (d : DescId) (m : Message) (adm : Admission),
             s.descs[d] = .queued m adm ∧ old m adm ∧ m.dest = a
           (gone → wentOffline s t a ∧ t.latches[a] = none ∧ drainedFrame s.frames[a] t.frames[a]) ∧
           (¬gone →
             t.members[a] = s.members[a] ∧ t.snapshots[a] = s.snapshots[a] ∧ t.frames[a] = s.frames[a] ∧
             (HeldLaw s → if s.appliesTo t = true then evaluated s t a else t.watches[a] = s.watches[a])))) ∧
        (s.slot = none → t.members = s.members → ∀ b : Agent,
          toldInOrder s t b (expired.filterMap (fun d => match s.admitted d with
            | none => none
            | some (m, adm) => some (m.source, .expired m.dest m.cls adm.tag)))) ∧
        t = { s with
          passDue := t.passDue, cellMap := t.cellMap, scrubQueue := t.scrubQueue, engine := t.engine
          clearLeft := t.clearLeft, descs := t.descs, inUse := t.inUse, queues := t.queues, hands := t.hands
          members := t.members, snapshots := t.snapshots, frames := t.frames, table := t.table, slot := t.slot
          epoch := t.epoch, prescaleCount := t.prescaleCount, periodCount := t.periodCount
          postscaleCount := t.postscaleCount, notices := t.notices, latches := t.latches
          watches := t.watches })

/-- R138 to R140, R41, R69: the fencing of a member whose lease has reached 0: the port is FENCED, its own staging ends
with FENCED, every message destined to it is released and counted, its notices, snapshot and watches are cleared, and it
leaves the round. The cells enter the scrub queue in order: of the staging, of the hand slots by class, of the queues by
class from head to tail. The round is told as at LEAVE (R138 step 5, R167, R168, R170), and a held table applies where it
fits (R172). With no table held DISCARDED is offered to the sources in that order, then PROPOSAL_CLOSED, CONFIG_APPLIED
and CREDIT where the round ends, then PEER_FENCED to the others. R184: a response under way on its port is zero-filled;
which bits of a byte partly shifted remain, and what SDO carries in the byte position of an aborted staging, is the
model's reading (log 16). An agent whose lease has not run out is not fenced (log 2). -/
def Obligations.FencingReclaimsWhatAnAgentHolds : Prop :=
  ∀ (s : State) (a : Agent), PlaceLaw s →
    (¬s.joined a ∨ (s.members[a]).leaseLeft ≠ 0 → exec (.fencing a) s = .next s) ∧
    (s.joined a → (s.members[a]).leaseLeft = 0 →
      ∃ t, exec (.fencing a) s = .next t ∧
        t.members[a] = { s.members[a] with
          state := .fenced, leaseLeft := 0
          discards := min 65535 ((s.members[a]).discards +
            (List.finRange 128).countP (fun d => match s.admitted d with
              | none => false
              | some (m, _) => m.dest = a)) } ∧
        (∀ b : Agent, b ≠ a → t.members[b] = s.members[b]) ∧
        (∀ k, (t.queues[a]).get k = [] ∧ (t.hands[a]).get k = none) ∧
        (∀ b : Agent, b ≠ a → t.queues[b] = s.queues[b] ∧ t.hands[b] = s.hands[b] ∧
          t.stagings[b] = s.stagings[b] ∧ t.snapshots[b] = s.snapshots[b] ∧ t.frames[b] = s.frames[b]) ∧
        t.stagings[a] = none ∧ t.notices[a] = [] ∧ t.latches[a] = none ∧ t.snapshots[a] = .all false ∧
        t.watches[a] = .all none ∧
        (∀ d m adm, s.admitted d = some (m, adm) → m.dest = a → t.descs[d] = .free) ∧
        (∀ (d : DescId) m, s.descs[d] = .staging m → m.source = a → t.descs[d] = .free) ∧
        (∀ d m adm, s.admitted d = some (m, adm) → m.dest ≠ a → t.descs[d] = s.descs[d]) ∧
        (∀ (d : DescId) m, s.descs[d] = .staging m → m.source ≠ a → t.descs[d] = s.descs[d]) ∧
        leftRound s t a ∧
        (let held : List DescId := classes.filterMap (fun k => (s.hands[a]).get k) ++
           classes.flatMap (fun k => (s.queues[a]).get k)
         t.scrubQueue = s.scrubQueue ++ s.cellsOf ((s.stagings[a]).map StagingContext.desc).toList ++ s.cellsOf held ∧
         (s.slot = none → ∀ b : Agent, b ≠ a →
           leaveTold s t a (held.filterMap (fun d => match s.admitted d with
             | none => none
             | some (m, adm) => if m.source = b then some (.discarded a m.cls adm.tag) else none)) [.peerFenced a] b)) ∧
        (match s.commitsAt a with
         | none => HeldLaw s → fitTested s t
         | some v =>
           (s.slot = none → committed s t v) ∧
           (t.fits v.table = true → t.table = v.table ∧ t.slot = none) ∧
           (t.fits v.table = false → t.slot = some ⟨v.table, v.number⟩)) ∧
        (∀ c, s.stagings[a] = some c →
          (t.frames[a]).phase = .turnaround ∧ (t.frames[a]).out = [0x5A, 0x0A] ∧
          (t.frames[a]).bitPos = (s.frames[a]).bitPos ∧ (t.frames[a]).skipping = decide (0 < (s.frames[a]).bitPos) ∧
          (t.frames[a]).last = some ⟨0x20, .fenced, none⟩) ∧
        (s.stagings[a] = none → (s.frames[a]).phase = .turnaround ∨ (s.frames[a]).phase = .response →
          zeroed s.frames[a] t.frames[a]) ∧
        (s.stagings[a] = none → (s.frames[a]).phase = .idle ∨ (s.frames[a]).phase = .request →
          t.frames[a] = s.frames[a]) ∧
        t = { s with
          cellMap := t.cellMap, scrubQueue := t.scrubQueue, engine := t.engine, clearLeft := t.clearLeft
          descs := t.descs, inUse := t.inUse, queues := t.queues, hands := t.hands, stagings := t.stagings
          members := t.members, snapshots := t.snapshots, frames := t.frames, voting := t.voting
          table := t.table, slot := t.slot, epoch := t.epoch, prescaleCount := t.prescaleCount
          periodCount := t.periodCount, postscaleCount := t.postscaleCount, notices := t.notices
          latches := t.latches, watches := t.watches })

/-- R98, R97, R99, R9: the clear of the head of the scrub queue completes: the cell is FREE, all 0x00, at the tail of the
free list, its charge's count falls by one, a held table applies if it fits then, with CONFIG_APPLIED, every armed watch
whose level has reached its threshold fires, with CREDIT in class rank order (R21, R22), and the clear of the next head
begins or the engine is IDLE. Where no scrub is in progress nothing changes (log 2). That a completion put into the queue
from outside ends a clear with periods left is the model's choice (log 23). -/
def Obligations.ScrubReturnsCellAndCredit : Prop :=
  ∀ s : State, s.quiet →
    ((∀ c, s.engine ≠ .clearing c) → exec .scrubCompletion s = .next s) ∧
    ∀ (c : CellId) (rest : List CellId) (ch : Charge),
      s.engine = .clearing c → s.scrubQueue = c :: rest → s.cellMap[c] = .scrub ch →
      ∃ t, exec .scrubCompletion s = .next t ∧
        t.cellMap[c] = .free ∧ (∀ x : CellId, x ≠ c → t.cellMap[x] = s.cellMap[x]) ∧
        (∀ (x : CellId) (j : Nat), j < 32 → t.cellByte x j = if x = c then 0 else s.cellByte x j) ∧
        t.freeList = s.freeList ++ [c] ∧ t.scrubQueue = rest ∧
        (rest = [] → t.engine = .idle) ∧ (∀ x more, rest = x :: more → t.engine = .clearing x ∧ t.clearLeft = 32) ∧
        (∀ a, ch = .common a →
          t.used.commonTotal = s.used.commonTotal - 1 ∧ t.used.commonBy[a] = s.used.commonBy[a] - 1 ∧
          (∀ b : Agent, b ≠ a → t.used.commonBy[b] = s.used.commonBy[b]) ∧ t.used.reserved = s.used.reserved) ∧
        (∀ a k, ch = .reserved a k →
          t.used.commonTotal = s.used.commonTotal ∧ t.used.commonBy = s.used.commonBy ∧
          (t.used.reserved[a]).get k = (s.used.reserved[a]).get k - 1 ∧
          ∀ (b : Agent) (j : MsgClass), b ≠ a ∨ j ≠ k →
            (t.used.reserved[b]).get j = (s.used.reserved[b]).get j) ∧
        fitTested s t ∧ (∀ b : Agent, toldAndEvaluated s t b (t.configNotice (s.appliesTo t)) []) ∧
        t = { s with
          mem := t.mem, cellMap := t.cellMap, freeList := t.freeList, scrubQueue := t.scrubQueue
          engine := t.engine, clearLeft := t.clearLeft, used := t.used, table := t.table, slot := t.slot
          epoch := t.epoch, prescaleCount := t.prescaleCount, periodCount := t.periodCount
          postscaleCount := t.postscaleCount, notices := t.notices, latches := t.latches
          watches := t.watches }

/-- R108, R130: the tick counter changes at an age tick and at a device reset alone; no lease rises but at the JOIN and
the RENEW of its own agent. -/
def Obligations.OnlyTicksCountAndOnlyJoinAndRenewReload : Prop :=
  ∀ (c : Instr) (s t : State), exec c s = .next t →
    (c ≠ .ageTick → c ≠ .deviceReset → t.ticks = s.ticks) ∧
    ∀ a : Agent, (∀ period, c ≠ .join a period) → c ≠ .renew a →
      (t.members[a]).leaseLeft ≤ (s.members[a]).leaseLeft

/-! ## Wire formats -/

/-- R188: the bytes of every well-formed request decode to that request and to no other. -/
def Obligations.RequestsDecodeToThemselves : Prop :=
  ∀ (c : Instr) (p : Agent) (bytes : List Byte),
    c.wellFormed = true → requestBytes c = some (p, bytes) → decodeRequest p bytes = some c

/-- R192, R160: the image of a valid table is 38 bytes and carries it; every valid image is the image of the table it
carries; and the default table reads as the manual lists it. -/
def Obligations.TableImageCarriesTheTable : Prop :=
  (∀ t : Table, t.valid = true → t.image.length = 38 ∧ tableOfImage t.image = t) ∧
    (∀ image : List Byte, image.length = 38 → (tableOfImage image).valid = true →
      (tableOfImage image).image = image) ∧
    Table.default.image =
      List.replicate 12 0x10 ++ [0x00, 0x60, 0x00, 0x60, 0x00, 0x60, 0x00, 0x60] ++ List.replicate 4 0x20 ++
        [0x00, 0x32, 0x03, 0xE8, 0x00, 0x00, 0x03, 0x03, 0x03, 0x10, 0xF9, 0x01, 0x00, 0x64]

/-- R189: the codes of the enumerated fields and of the results, as the part encodes and decodes them. -/
def Obligations.EnumeratedFieldsHaveTheirCodes : Prop :=
  (∀ b : Byte, classOfCode b =
    if b = 0x00 then some .express else if b = 0x01 then some .standard else if b = 0x02 then some .bulk else none) ∧
  [classCode .express, classCode .standard, classCode .bulk] = [0x00, 0x01, 0x02] ∧
  (∀ x y z : Bool, classSetCode ⟨x, y, z⟩ =
    BitVec.ofNat 8 ((if x then 1 else 0) + (if y then 2 else 0) + (if z then 4 else 0))) ∧
  [PortState.offline.code, PortState.active.code, PortState.closing.code, PortState.fenced.code] =
    [0x00, 0x01, 0x02, 0x03] ∧
  (∀ (a : Agent) (k : MsgClass), (Charge.common a).code = 0x00 ∧ (Charge.reserved a k).code = 0x01) ∧
  [codeReturned, codeRejected] = [0x00, 0x01] ∧ [codeVotingIdle, codeVotingOpen] = [0x00, 0x01] ∧
  [RoundOutcome.committed.code, RoundOutcome.rejected.code, RoundOutcome.lapsed.code, RoundOutcome.withdrawn.code] =
    [0x02, 0x03, 0x04, 0x05] ∧
  (∀ h, slotCode none = 0x00 ∧ slotCode (some h) = 0x01) ∧
  [Result.ok, .empty, .starting, .badop, .badarg, .baddest, .badlen, .badcheck, .notJoined, .fenced, .closing,
      .peerAbsent, .peerClosing, .peerGone, .noSlot, .noCredit, .notInHand, .inHand, .unknownTag, .busy, .stale,
      .notRequired, .invalidTable, .cut].map Result.code =
    [0x01, 0x02, 0x03, 0x04, 0x05, 0x06, 0x07, 0x08, 0x09, 0x0A, 0x0B, 0x0C, 0x0D, 0x0E, 0x0F, 0x10, 0x11, 0x12,
      0x13, 0x14, 0x15, 0x16, 0x17, 0x18]

/-- R191: a notice record is six bytes: the kind code, peer and class with 0xF for an absent one, the tag, and the value
with 0x0000 for an absent one; PROPOSAL_CLOSED carries number and outcome code. -/
def Obligations.NoticeRecordsHaveSixBytes : Prop :=
  ∀ (a : Agent) (k : MsgClass) (tag epoch : Half) (num : Byte) (n : Nat) (o : RoundOutcome),
    (let peer (x : Option Agent) : Nat := match x with
       | none => 15
       | some b => b.val
     let first (x : Option Agent) (y : Nat) : Byte := BitVec.ofNat 8 (16 * peer x + y)
     let none' : List Byte := [0x00, 0x00]
     (Notice.delivered a k tag).record = [0x01, first (some a) (classCode k).toNat] ++ bytes16 tag ++ none' ∧
     (Notice.expired a k tag).record = [0x02, first (some a) (classCode k).toNat] ++ bytes16 tag ++ none' ∧
     (Notice.rejected a k tag).record = [0x03, first (some a) (classCode k).toNat] ++ bytes16 tag ++ none' ∧
     (Notice.discarded a k tag).record = [0x04, first (some a) (classCode k).toNat] ++ bytes16 tag ++ none' ∧
     (Notice.credit k n).record = [0x05, first none (classCode k).toNat] ++ none' ++ bytes16 (BitVec.ofNat 16 n) ∧
     (Notice.peerJoined a).record = [0x06, first (some a) 15] ++ none' ++ none' ∧
     (Notice.peerLeft a).record = [0x07, first (some a) 15] ++ none' ++ none' ∧
     (Notice.peerFenced a).record = [0x08, first (some a) 15] ++ none' ++ none' ∧
     (Notice.proposalOpen a num).record = [0x09, first (some a) 15] ++ none' ++ [0x00, num] ∧
     (∀ x, (Notice.proposalClosed x num o).record = [0x0A, first x 15] ++ none' ++ [num, o.code]) ∧
     (Notice.configApplied epoch).record = [0x0B, 0xFF] ++ none' ++ bytes16 epoch ∧
     Notice.rejoined.record = [0x0C, 0xFF] ++ none' ++ none' ∧
     (Notice.resumed n).record = [0x0D, 0xFF] ++ none' ++ bytes16 (BitVec.ofNat 16 n) ∧
     (Notice.overrun n).record = [0x0E, 0xFF] ++ none' ++ bytes16 (BitVec.ofNat 16 n))

/-! ## Laws that every step keeps -/

/-- Every law holds after device reset, and no message stands in the order of admission. -/
def Obligations.ResetMeetsEveryLaw : Prop := State.reset.safe ∧ AdmissionOrder State.reset []

/-- R26, R34: every step keeps every count within its limit in the active table. R160, R167: every step keeps the active, held
and proposed tables valid, and the required set of an OPEN round within the ACTIVE agents other than its proposer. R172: every
step leaves a held table that does not fit, since one that fits has applied. R21, R22: every step leaves each ARMED watch with
its threshold above the credit level, since one that had reached it has fired. -/
def Obligations.EveryStepKeepsLimitsTablesAndRound : Prop :=
  ∀ s t : State, step s = .next t →
    (LimitLaw s → LimitLaw t) ∧ (TableLaw s → RoundLaw s → TableLaw t ∧ RoundLaw t) ∧ (HeldLaw s → HeldLaw t) ∧
      (WatchLaw s → WatchLaw t)

/-- R144, R142: every step keeps the shape of the notice queues, and an OFFLINE or FENCED agent without notices, watches,
snapshot and lease. -/
def Obligations.EveryStepKeepsNoticesInShape : Prop :=
  ∀ s t : State, NoticeLaw s → AbsenceLaw s → step s = .next t → NoticeLaw t ∧ AbsenceLaw t

/-- R32: every step keeps the tags of QUEUED and IN_HAND messages of one source apart and none 0. -/
def Obligations.EveryStepKeepsTagsApart : Prop := ∀ s t : State, TagLaw s → step s = .next t → TagLaw t

/-- R24, R25, R33, R35, R38, R96, R142: every step keeps the cells, the counts, the descriptors and the queues in
agreement. -/
def Obligations.EveryStepKeepsThePartConsistent : Prop := ∀ s t : State, PartLaw s → step s = .next t → PartLaw t

/-- The model's choice (log 7): every step keeps the canonical form of the list that holds the cell contents. R101: every step
keeps every FREE cell clear, so that no cell is bound with bytes of an earlier message in it. -/
def Obligations.EveryStepKeepsFreeCellsClear : Prop :=
  ∀ s t : State, step s = .next t →
    (MemoryLaw s → MemoryLaw t) ∧ (PartLaw s → MemoryLaw s → FreeCellsLaw s → FreeCellsLaw t)

/-- R37: every step keeps every inbound queue in the order in which its messages were admitted, with the message in the hand
slot of the class ahead of it: messages leave the order, and at most one, STAGING before the step, joins it at its end. -/
def Obligations.EveryStepKeepsAdmissionOrder : Prop :=
  ∀ (s t : State) (order : List DescId), PlaceLaw s → AdmissionOrder s order → step s = .next t →
    ∃ joined : List DescId,
      AdmissionOrder t (order.filter (fun d => (t.admitted d).isSome) ++ joined) ∧
      (joined = [] ∨ ∃ d m, joined = [d] ∧ s.descs[d] = .staging m)
end

