-- ==== Sys2Proof/Laws/State.lean ====
section
/-! SUPPORT. One lemma per field per field update of State, each true by rfl, and the lookups after an update. -/

namespace Sys2Proof.Machine

/-! ## Lookups -/

@[simp] theorem PerClass.get_set_same {α : Type} (v : PerClass α) (k : MsgClass) (x : α) : (v.set k x).get k = x := by
  cases k <;> rfl

theorem PerClass.get_set_ne {α : Type} (v : PerClass α) (k j : MsgClass) (x : α) (h : k ≠ j) :
    (v.set k x).get j = v.get j := by
  cases k <;> cases j <;> first | rfl | exact absurd rfl h

theorem PerClass.get_set {α : Type} (v : PerClass α) (k j : MsgClass) (x : α) :
    (v.set k x).get j = if k = j then x else v.get j := by
  by_cases h : k = j
  · subst h; simp
  · simp [h, PerClass.get_set_ne v k j x h]

@[simp] theorem PerClass.get_all {α : Type} (x : α) (k : MsgClass) : (PerClass.all x).get k = x := by cases k <;> rfl

theorem PerClass.ext_get {α : Type} (v w : PerClass α) (h : ∀ k, v.get k = w.get k) : v = w := by
  have he := h .express
  have hs := h .standard
  have hb := h .bulk
  cases v; cases w
  simp only [PerClass.get] at he hs hb
  simp [he, hs, hb]

/-- A lookup in a table after one entry was replaced. -/
theorem vec_get_set {α : Type} {n : Nat} (v : Vector α n) (i j : Fin n) (x : α) :
    (v.set i x)[j] = if i = j then x else v[j] := by
  by_cases h : i = j
  · subst h; simp
  · have hv : i.val ≠ j.val := fun e => h (Fin.ext e)
    simp [h, hv]

@[simp] theorem vec_get_set_same {α : Type} {n : Nat} (v : Vector α n) (i : Fin n) (x : α) :
    (v.set i x)[i] = x := by simp

theorem vec_get_set_ne {α : Type} {n : Nat} (v : Vector α n) (i j : Fin n) (x : α) (h : i ≠ j) :
    (v.set i x)[j] = v[j] := by rw [vec_get_set, if_neg h]

/-! ## Field updates -/

@[simp] theorem State.setMember_rstnLow (s : State) (a : Agent) (m : Member) :
    (s.setMember a m).rstnLow = s.rstnLow := rfl
@[simp] theorem State.setMember_mem (s : State) (a : Agent) (m : Member) :
    (s.setMember a m).mem = s.mem := rfl
@[simp] theorem State.setMember_cellMap (s : State) (a : Agent) (m : Member) :
    (s.setMember a m).cellMap = s.cellMap := rfl
@[simp] theorem State.setMember_freeList (s : State) (a : Agent) (m : Member) :
    (s.setMember a m).freeList = s.freeList := rfl
@[simp] theorem State.setMember_scrubQueue (s : State) (a : Agent) (m : Member) :
    (s.setMember a m).scrubQueue = s.scrubQueue := rfl
@[simp] theorem State.setMember_engine (s : State) (a : Agent) (m : Member) :
    (s.setMember a m).engine = s.engine := rfl
@[simp] theorem State.setMember_clearLeft (s : State) (a : Agent) (m : Member) :
    (s.setMember a m).clearLeft = s.clearLeft := rfl
@[simp] theorem State.setMember_used (s : State) (a : Agent) (m : Member) :
    (s.setMember a m).used = s.used := rfl
@[simp] theorem State.setMember_watches (s : State) (a : Agent) (m : Member) :
    (s.setMember a m).watches = s.watches := rfl
@[simp] theorem State.setMember_descs (s : State) (a : Agent) (m : Member) :
    (s.setMember a m).descs = s.descs := rfl
@[simp] theorem State.setMember_inUse (s : State) (a : Agent) (m : Member) :
    (s.setMember a m).inUse = s.inUse := rfl
@[simp] theorem State.setMember_nextTag (s : State) (a : Agent) (m : Member) :
    (s.setMember a m).nextTag = s.nextTag := rfl
@[simp] theorem State.setMember_queues (s : State) (a : Agent) (m : Member) :
    (s.setMember a m).queues = s.queues := rfl
@[simp] theorem State.setMember_hands (s : State) (a : Agent) (m : Member) :
    (s.setMember a m).hands = s.hands := rfl
@[simp] theorem State.setMember_stagings (s : State) (a : Agent) (m : Member) :
    (s.setMember a m).stagings = s.stagings := rfl
@[simp] theorem State.setMember_prescaleCount (s : State) (a : Agent) (m : Member) :
    (s.setMember a m).prescaleCount = s.prescaleCount := rfl
@[simp] theorem State.setMember_periodCount (s : State) (a : Agent) (m : Member) :
    (s.setMember a m).periodCount = s.periodCount := rfl
@[simp] theorem State.setMember_postscaleCount (s : State) (a : Agent) (m : Member) :
    (s.setMember a m).postscaleCount = s.postscaleCount := rfl
@[simp] theorem State.setMember_ticks (s : State) (a : Agent) (m : Member) :
    (s.setMember a m).ticks = s.ticks := rfl
@[simp] theorem State.setMember_passDue (s : State) (a : Agent) (m : Member) :
    (s.setMember a m).passDue = s.passDue := rfl
@[simp] theorem State.setMember_members (s : State) (a : Agent) (m : Member) :
    (s.setMember a m).members = s.members.set a m := rfl
@[simp] theorem State.setMember_notices (s : State) (a : Agent) (m : Member) :
    (s.setMember a m).notices = s.notices := rfl
@[simp] theorem State.setMember_snapshots (s : State) (a : Agent) (m : Member) :
    (s.setMember a m).snapshots = s.snapshots := rfl
@[simp] theorem State.setMember_latches (s : State) (a : Agent) (m : Member) :
    (s.setMember a m).latches = s.latches := rfl
@[simp] theorem State.setMember_table (s : State) (a : Agent) (m : Member) :
    (s.setMember a m).table = s.table := rfl
@[simp] theorem State.setMember_slot (s : State) (a : Agent) (m : Member) :
    (s.setMember a m).slot = s.slot := rfl
@[simp] theorem State.setMember_voting (s : State) (a : Agent) (m : Member) :
    (s.setMember a m).voting = s.voting := rfl
@[simp] theorem State.setMember_nextProposal (s : State) (a : Agent) (m : Member) :
    (s.setMember a m).nextProposal = s.nextProposal := rfl
@[simp] theorem State.setMember_lastProposal (s : State) (a : Agent) (m : Member) :
    (s.setMember a m).lastProposal = s.lastProposal := rfl
@[simp] theorem State.setMember_epoch (s : State) (a : Agent) (m : Member) :
    (s.setMember a m).epoch = s.epoch := rfl
@[simp] theorem State.setMember_frames (s : State) (a : Agent) (m : Member) :
    (s.setMember a m).frames = s.frames := rfl
@[simp] theorem State.setMember_pending (s : State) (a : Agent) (m : Member) :
    (s.setMember a m).pending = s.pending := rfl
@[simp] theorem State.setMember_choices (s : State) (a : Agent) (m : Member) :
    (s.setMember a m).choices = s.choices := rfl

@[simp] theorem State.setFrame_rstnLow (s : State) (p : Agent) (f : Framing) :
    (s.setFrame p f).rstnLow = s.rstnLow := rfl
@[simp] theorem State.setFrame_mem (s : State) (p : Agent) (f : Framing) :
    (s.setFrame p f).mem = s.mem := rfl
@[simp] theorem State.setFrame_cellMap (s : State) (p : Agent) (f : Framing) :
    (s.setFrame p f).cellMap = s.cellMap := rfl
@[simp] theorem State.setFrame_freeList (s : State) (p : Agent) (f : Framing) :
    (s.setFrame p f).freeList = s.freeList := rfl
@[simp] theorem State.setFrame_scrubQueue (s : State) (p : Agent) (f : Framing) :
    (s.setFrame p f).scrubQueue = s.scrubQueue := rfl
@[simp] theorem State.setFrame_engine (s : State) (p : Agent) (f : Framing) :
    (s.setFrame p f).engine = s.engine := rfl
@[simp] theorem State.setFrame_clearLeft (s : State) (p : Agent) (f : Framing) :
    (s.setFrame p f).clearLeft = s.clearLeft := rfl
@[simp] theorem State.setFrame_used (s : State) (p : Agent) (f : Framing) :
    (s.setFrame p f).used = s.used := rfl
@[simp] theorem State.setFrame_watches (s : State) (p : Agent) (f : Framing) :
    (s.setFrame p f).watches = s.watches := rfl
@[simp] theorem State.setFrame_descs (s : State) (p : Agent) (f : Framing) :
    (s.setFrame p f).descs = s.descs := rfl
@[simp] theorem State.setFrame_inUse (s : State) (p : Agent) (f : Framing) :
    (s.setFrame p f).inUse = s.inUse := rfl
@[simp] theorem State.setFrame_nextTag (s : State) (p : Agent) (f : Framing) :
    (s.setFrame p f).nextTag = s.nextTag := rfl
@[simp] theorem State.setFrame_queues (s : State) (p : Agent) (f : Framing) :
    (s.setFrame p f).queues = s.queues := rfl
@[simp] theorem State.setFrame_hands (s : State) (p : Agent) (f : Framing) :
    (s.setFrame p f).hands = s.hands := rfl
@[simp] theorem State.setFrame_stagings (s : State) (p : Agent) (f : Framing) :
    (s.setFrame p f).stagings = s.stagings := rfl
@[simp] theorem State.setFrame_prescaleCount (s : State) (p : Agent) (f : Framing) :
    (s.setFrame p f).prescaleCount = s.prescaleCount := rfl
@[simp] theorem State.setFrame_periodCount (s : State) (p : Agent) (f : Framing) :
    (s.setFrame p f).periodCount = s.periodCount := rfl
@[simp] theorem State.setFrame_postscaleCount (s : State) (p : Agent) (f : Framing) :
    (s.setFrame p f).postscaleCount = s.postscaleCount := rfl
@[simp] theorem State.setFrame_ticks (s : State) (p : Agent) (f : Framing) :
    (s.setFrame p f).ticks = s.ticks := rfl
@[simp] theorem State.setFrame_passDue (s : State) (p : Agent) (f : Framing) :
    (s.setFrame p f).passDue = s.passDue := rfl
@[simp] theorem State.setFrame_members (s : State) (p : Agent) (f : Framing) :
    (s.setFrame p f).members = s.members := rfl
@[simp] theorem State.setFrame_notices (s : State) (p : Agent) (f : Framing) :
    (s.setFrame p f).notices = s.notices := rfl
@[simp] theorem State.setFrame_snapshots (s : State) (p : Agent) (f : Framing) :
    (s.setFrame p f).snapshots = s.snapshots := rfl
@[simp] theorem State.setFrame_latches (s : State) (p : Agent) (f : Framing) :
    (s.setFrame p f).latches = s.latches := rfl
@[simp] theorem State.setFrame_table (s : State) (p : Agent) (f : Framing) :
    (s.setFrame p f).table = s.table := rfl
@[simp] theorem State.setFrame_slot (s : State) (p : Agent) (f : Framing) :
    (s.setFrame p f).slot = s.slot := rfl
@[simp] theorem State.setFrame_voting (s : State) (p : Agent) (f : Framing) :
    (s.setFrame p f).voting = s.voting := rfl
@[simp] theorem State.setFrame_nextProposal (s : State) (p : Agent) (f : Framing) :
    (s.setFrame p f).nextProposal = s.nextProposal := rfl
@[simp] theorem State.setFrame_lastProposal (s : State) (p : Agent) (f : Framing) :
    (s.setFrame p f).lastProposal = s.lastProposal := rfl
@[simp] theorem State.setFrame_epoch (s : State) (p : Agent) (f : Framing) :
    (s.setFrame p f).epoch = s.epoch := rfl
@[simp] theorem State.setFrame_frames (s : State) (p : Agent) (f : Framing) :
    (s.setFrame p f).frames = s.frames.set p f := rfl
@[simp] theorem State.setFrame_pending (s : State) (p : Agent) (f : Framing) :
    (s.setFrame p f).pending = s.pending := rfl
@[simp] theorem State.setFrame_choices (s : State) (p : Agent) (f : Framing) :
    (s.setFrame p f).choices = s.choices := rfl

@[simp] theorem State.setNotices_rstnLow (s : State) (a : Agent) (q : List Notice) :
    (s.setNotices a q).rstnLow = s.rstnLow := rfl
@[simp] theorem State.setNotices_mem (s : State) (a : Agent) (q : List Notice) :
    (s.setNotices a q).mem = s.mem := rfl
@[simp] theorem State.setNotices_cellMap (s : State) (a : Agent) (q : List Notice) :
    (s.setNotices a q).cellMap = s.cellMap := rfl
@[simp] theorem State.setNotices_freeList (s : State) (a : Agent) (q : List Notice) :
    (s.setNotices a q).freeList = s.freeList := rfl
@[simp] theorem State.setNotices_scrubQueue (s : State) (a : Agent) (q : List Notice) :
    (s.setNotices a q).scrubQueue = s.scrubQueue := rfl
@[simp] theorem State.setNotices_engine (s : State) (a : Agent) (q : List Notice) :
    (s.setNotices a q).engine = s.engine := rfl
@[simp] theorem State.setNotices_clearLeft (s : State) (a : Agent) (q : List Notice) :
    (s.setNotices a q).clearLeft = s.clearLeft := rfl
@[simp] theorem State.setNotices_used (s : State) (a : Agent) (q : List Notice) :
    (s.setNotices a q).used = s.used := rfl
@[simp] theorem State.setNotices_watches (s : State) (a : Agent) (q : List Notice) :
    (s.setNotices a q).watches = s.watches := rfl
@[simp] theorem State.setNotices_descs (s : State) (a : Agent) (q : List Notice) :
    (s.setNotices a q).descs = s.descs := rfl
@[simp] theorem State.setNotices_inUse (s : State) (a : Agent) (q : List Notice) :
    (s.setNotices a q).inUse = s.inUse := rfl
@[simp] theorem State.setNotices_nextTag (s : State) (a : Agent) (q : List Notice) :
    (s.setNotices a q).nextTag = s.nextTag := rfl
@[simp] theorem State.setNotices_queues (s : State) (a : Agent) (q : List Notice) :
    (s.setNotices a q).queues = s.queues := rfl
@[simp] theorem State.setNotices_hands (s : State) (a : Agent) (q : List Notice) :
    (s.setNotices a q).hands = s.hands := rfl
@[simp] theorem State.setNotices_stagings (s : State) (a : Agent) (q : List Notice) :
    (s.setNotices a q).stagings = s.stagings := rfl
@[simp] theorem State.setNotices_prescaleCount (s : State) (a : Agent) (q : List Notice) :
    (s.setNotices a q).prescaleCount = s.prescaleCount := rfl
@[simp] theorem State.setNotices_periodCount (s : State) (a : Agent) (q : List Notice) :
    (s.setNotices a q).periodCount = s.periodCount := rfl
@[simp] theorem State.setNotices_postscaleCount (s : State) (a : Agent) (q : List Notice) :
    (s.setNotices a q).postscaleCount = s.postscaleCount := rfl
@[simp] theorem State.setNotices_ticks (s : State) (a : Agent) (q : List Notice) :
    (s.setNotices a q).ticks = s.ticks := rfl
@[simp] theorem State.setNotices_passDue (s : State) (a : Agent) (q : List Notice) :
    (s.setNotices a q).passDue = s.passDue := rfl
@[simp] theorem State.setNotices_members (s : State) (a : Agent) (q : List Notice) :
    (s.setNotices a q).members = s.members := rfl
@[simp] theorem State.setNotices_notices (s : State) (a : Agent) (q : List Notice) :
    (s.setNotices a q).notices = s.notices.set a q := rfl
@[simp] theorem State.setNotices_snapshots (s : State) (a : Agent) (q : List Notice) :
    (s.setNotices a q).snapshots = s.snapshots := rfl
@[simp] theorem State.setNotices_latches (s : State) (a : Agent) (q : List Notice) :
    (s.setNotices a q).latches = s.latches := rfl
@[simp] theorem State.setNotices_table (s : State) (a : Agent) (q : List Notice) :
    (s.setNotices a q).table = s.table := rfl
@[simp] theorem State.setNotices_slot (s : State) (a : Agent) (q : List Notice) :
    (s.setNotices a q).slot = s.slot := rfl
@[simp] theorem State.setNotices_voting (s : State) (a : Agent) (q : List Notice) :
    (s.setNotices a q).voting = s.voting := rfl
@[simp] theorem State.setNotices_nextProposal (s : State) (a : Agent) (q : List Notice) :
    (s.setNotices a q).nextProposal = s.nextProposal := rfl
@[simp] theorem State.setNotices_lastProposal (s : State) (a : Agent) (q : List Notice) :
    (s.setNotices a q).lastProposal = s.lastProposal := rfl
@[simp] theorem State.setNotices_epoch (s : State) (a : Agent) (q : List Notice) :
    (s.setNotices a q).epoch = s.epoch := rfl
@[simp] theorem State.setNotices_frames (s : State) (a : Agent) (q : List Notice) :
    (s.setNotices a q).frames = s.frames := rfl
@[simp] theorem State.setNotices_pending (s : State) (a : Agent) (q : List Notice) :
    (s.setNotices a q).pending = s.pending := rfl
@[simp] theorem State.setNotices_choices (s : State) (a : Agent) (q : List Notice) :
    (s.setNotices a q).choices = s.choices := rfl

@[simp] theorem State.setLatch_rstnLow (s : State) (a : Agent) (l : Option OverrunLatch) :
    (s.setLatch a l).rstnLow = s.rstnLow := rfl
@[simp] theorem State.setLatch_mem (s : State) (a : Agent) (l : Option OverrunLatch) :
    (s.setLatch a l).mem = s.mem := rfl
@[simp] theorem State.setLatch_cellMap (s : State) (a : Agent) (l : Option OverrunLatch) :
    (s.setLatch a l).cellMap = s.cellMap := rfl
@[simp] theorem State.setLatch_freeList (s : State) (a : Agent) (l : Option OverrunLatch) :
    (s.setLatch a l).freeList = s.freeList := rfl
@[simp] theorem State.setLatch_scrubQueue (s : State) (a : Agent) (l : Option OverrunLatch) :
    (s.setLatch a l).scrubQueue = s.scrubQueue := rfl
@[simp] theorem State.setLatch_engine (s : State) (a : Agent) (l : Option OverrunLatch) :
    (s.setLatch a l).engine = s.engine := rfl
@[simp] theorem State.setLatch_clearLeft (s : State) (a : Agent) (l : Option OverrunLatch) :
    (s.setLatch a l).clearLeft = s.clearLeft := rfl
@[simp] theorem State.setLatch_used (s : State) (a : Agent) (l : Option OverrunLatch) :
    (s.setLatch a l).used = s.used := rfl
@[simp] theorem State.setLatch_watches (s : State) (a : Agent) (l : Option OverrunLatch) :
    (s.setLatch a l).watches = s.watches := rfl
@[simp] theorem State.setLatch_descs (s : State) (a : Agent) (l : Option OverrunLatch) :
    (s.setLatch a l).descs = s.descs := rfl
@[simp] theorem State.setLatch_inUse (s : State) (a : Agent) (l : Option OverrunLatch) :
    (s.setLatch a l).inUse = s.inUse := rfl
@[simp] theorem State.setLatch_nextTag (s : State) (a : Agent) (l : Option OverrunLatch) :
    (s.setLatch a l).nextTag = s.nextTag := rfl
@[simp] theorem State.setLatch_queues (s : State) (a : Agent) (l : Option OverrunLatch) :
    (s.setLatch a l).queues = s.queues := rfl
@[simp] theorem State.setLatch_hands (s : State) (a : Agent) (l : Option OverrunLatch) :
    (s.setLatch a l).hands = s.hands := rfl
@[simp] theorem State.setLatch_stagings (s : State) (a : Agent) (l : Option OverrunLatch) :
    (s.setLatch a l).stagings = s.stagings := rfl
@[simp] theorem State.setLatch_prescaleCount (s : State) (a : Agent) (l : Option OverrunLatch) :
    (s.setLatch a l).prescaleCount = s.prescaleCount := rfl
@[simp] theorem State.setLatch_periodCount (s : State) (a : Agent) (l : Option OverrunLatch) :
    (s.setLatch a l).periodCount = s.periodCount := rfl
@[simp] theorem State.setLatch_postscaleCount (s : State) (a : Agent) (l : Option OverrunLatch) :
    (s.setLatch a l).postscaleCount = s.postscaleCount := rfl
@[simp] theorem State.setLatch_ticks (s : State) (a : Agent) (l : Option OverrunLatch) :
    (s.setLatch a l).ticks = s.ticks := rfl
@[simp] theorem State.setLatch_passDue (s : State) (a : Agent) (l : Option OverrunLatch) :
    (s.setLatch a l).passDue = s.passDue := rfl
@[simp] theorem State.setLatch_members (s : State) (a : Agent) (l : Option OverrunLatch) :
    (s.setLatch a l).members = s.members := rfl
@[simp] theorem State.setLatch_notices (s : State) (a : Agent) (l : Option OverrunLatch) :
    (s.setLatch a l).notices = s.notices := rfl
@[simp] theorem State.setLatch_snapshots (s : State) (a : Agent) (l : Option OverrunLatch) :
    (s.setLatch a l).snapshots = s.snapshots := rfl
@[simp] theorem State.setLatch_latches (s : State) (a : Agent) (l : Option OverrunLatch) :
    (s.setLatch a l).latches = s.latches.set a l := rfl
@[simp] theorem State.setLatch_table (s : State) (a : Agent) (l : Option OverrunLatch) :
    (s.setLatch a l).table = s.table := rfl
@[simp] theorem State.setLatch_slot (s : State) (a : Agent) (l : Option OverrunLatch) :
    (s.setLatch a l).slot = s.slot := rfl
@[simp] theorem State.setLatch_voting (s : State) (a : Agent) (l : Option OverrunLatch) :
    (s.setLatch a l).voting = s.voting := rfl
@[simp] theorem State.setLatch_nextProposal (s : State) (a : Agent) (l : Option OverrunLatch) :
    (s.setLatch a l).nextProposal = s.nextProposal := rfl
@[simp] theorem State.setLatch_lastProposal (s : State) (a : Agent) (l : Option OverrunLatch) :
    (s.setLatch a l).lastProposal = s.lastProposal := rfl
@[simp] theorem State.setLatch_epoch (s : State) (a : Agent) (l : Option OverrunLatch) :
    (s.setLatch a l).epoch = s.epoch := rfl
@[simp] theorem State.setLatch_frames (s : State) (a : Agent) (l : Option OverrunLatch) :
    (s.setLatch a l).frames = s.frames := rfl
@[simp] theorem State.setLatch_pending (s : State) (a : Agent) (l : Option OverrunLatch) :
    (s.setLatch a l).pending = s.pending := rfl
@[simp] theorem State.setLatch_choices (s : State) (a : Agent) (l : Option OverrunLatch) :
    (s.setLatch a l).choices = s.choices := rfl

@[simp] theorem State.setSnapshot_rstnLow (s : State) (a : Agent) (x : ClassSet) :
    (s.setSnapshot a x).rstnLow = s.rstnLow := rfl
@[simp] theorem State.setSnapshot_mem (s : State) (a : Agent) (x : ClassSet) :
    (s.setSnapshot a x).mem = s.mem := rfl
@[simp] theorem State.setSnapshot_cellMap (s : State) (a : Agent) (x : ClassSet) :
    (s.setSnapshot a x).cellMap = s.cellMap := rfl
@[simp] theorem State.setSnapshot_freeList (s : State) (a : Agent) (x : ClassSet) :
    (s.setSnapshot a x).freeList = s.freeList := rfl
@[simp] theorem State.setSnapshot_scrubQueue (s : State) (a : Agent) (x : ClassSet) :
    (s.setSnapshot a x).scrubQueue = s.scrubQueue := rfl
@[simp] theorem State.setSnapshot_engine (s : State) (a : Agent) (x : ClassSet) :
    (s.setSnapshot a x).engine = s.engine := rfl
@[simp] theorem State.setSnapshot_clearLeft (s : State) (a : Agent) (x : ClassSet) :
    (s.setSnapshot a x).clearLeft = s.clearLeft := rfl
@[simp] theorem State.setSnapshot_used (s : State) (a : Agent) (x : ClassSet) :
    (s.setSnapshot a x).used = s.used := rfl
@[simp] theorem State.setSnapshot_watches (s : State) (a : Agent) (x : ClassSet) :
    (s.setSnapshot a x).watches = s.watches := rfl
@[simp] theorem State.setSnapshot_descs (s : State) (a : Agent) (x : ClassSet) :
    (s.setSnapshot a x).descs = s.descs := rfl
@[simp] theorem State.setSnapshot_inUse (s : State) (a : Agent) (x : ClassSet) :
    (s.setSnapshot a x).inUse = s.inUse := rfl
@[simp] theorem State.setSnapshot_nextTag (s : State) (a : Agent) (x : ClassSet) :
    (s.setSnapshot a x).nextTag = s.nextTag := rfl
@[simp] theorem State.setSnapshot_queues (s : State) (a : Agent) (x : ClassSet) :
    (s.setSnapshot a x).queues = s.queues := rfl
@[simp] theorem State.setSnapshot_hands (s : State) (a : Agent) (x : ClassSet) :
    (s.setSnapshot a x).hands = s.hands := rfl
@[simp] theorem State.setSnapshot_stagings (s : State) (a : Agent) (x : ClassSet) :
    (s.setSnapshot a x).stagings = s.stagings := rfl
@[simp] theorem State.setSnapshot_prescaleCount (s : State) (a : Agent) (x : ClassSet) :
    (s.setSnapshot a x).prescaleCount = s.prescaleCount := rfl
@[simp] theorem State.setSnapshot_periodCount (s : State) (a : Agent) (x : ClassSet) :
    (s.setSnapshot a x).periodCount = s.periodCount := rfl
@[simp] theorem State.setSnapshot_postscaleCount (s : State) (a : Agent) (x : ClassSet) :
    (s.setSnapshot a x).postscaleCount = s.postscaleCount := rfl
@[simp] theorem State.setSnapshot_ticks (s : State) (a : Agent) (x : ClassSet) :
    (s.setSnapshot a x).ticks = s.ticks := rfl
@[simp] theorem State.setSnapshot_passDue (s : State) (a : Agent) (x : ClassSet) :
    (s.setSnapshot a x).passDue = s.passDue := rfl
@[simp] theorem State.setSnapshot_members (s : State) (a : Agent) (x : ClassSet) :
    (s.setSnapshot a x).members = s.members := rfl
@[simp] theorem State.setSnapshot_notices (s : State) (a : Agent) (x : ClassSet) :
    (s.setSnapshot a x).notices = s.notices := rfl
@[simp] theorem State.setSnapshot_snapshots (s : State) (a : Agent) (x : ClassSet) :
    (s.setSnapshot a x).snapshots = s.snapshots.set a x := rfl
@[simp] theorem State.setSnapshot_latches (s : State) (a : Agent) (x : ClassSet) :
    (s.setSnapshot a x).latches = s.latches := rfl
@[simp] theorem State.setSnapshot_table (s : State) (a : Agent) (x : ClassSet) :
    (s.setSnapshot a x).table = s.table := rfl
@[simp] theorem State.setSnapshot_slot (s : State) (a : Agent) (x : ClassSet) :
    (s.setSnapshot a x).slot = s.slot := rfl
@[simp] theorem State.setSnapshot_voting (s : State) (a : Agent) (x : ClassSet) :
    (s.setSnapshot a x).voting = s.voting := rfl
@[simp] theorem State.setSnapshot_nextProposal (s : State) (a : Agent) (x : ClassSet) :
    (s.setSnapshot a x).nextProposal = s.nextProposal := rfl
@[simp] theorem State.setSnapshot_lastProposal (s : State) (a : Agent) (x : ClassSet) :
    (s.setSnapshot a x).lastProposal = s.lastProposal := rfl
@[simp] theorem State.setSnapshot_epoch (s : State) (a : Agent) (x : ClassSet) :
    (s.setSnapshot a x).epoch = s.epoch := rfl
@[simp] theorem State.setSnapshot_frames (s : State) (a : Agent) (x : ClassSet) :
    (s.setSnapshot a x).frames = s.frames := rfl
@[simp] theorem State.setSnapshot_pending (s : State) (a : Agent) (x : ClassSet) :
    (s.setSnapshot a x).pending = s.pending := rfl
@[simp] theorem State.setSnapshot_choices (s : State) (a : Agent) (x : ClassSet) :
    (s.setSnapshot a x).choices = s.choices := rfl

@[simp] theorem State.setWatch_rstnLow (s : State) (a : Agent) (k : MsgClass) (w : Option Nat) :
    (s.setWatch a k w).rstnLow = s.rstnLow := rfl
@[simp] theorem State.setWatch_mem (s : State) (a : Agent) (k : MsgClass) (w : Option Nat) :
    (s.setWatch a k w).mem = s.mem := rfl
@[simp] theorem State.setWatch_cellMap (s : State) (a : Agent) (k : MsgClass) (w : Option Nat) :
    (s.setWatch a k w).cellMap = s.cellMap := rfl
@[simp] theorem State.setWatch_freeList (s : State) (a : Agent) (k : MsgClass) (w : Option Nat) :
    (s.setWatch a k w).freeList = s.freeList := rfl
@[simp] theorem State.setWatch_scrubQueue (s : State) (a : Agent) (k : MsgClass) (w : Option Nat) :
    (s.setWatch a k w).scrubQueue = s.scrubQueue := rfl
@[simp] theorem State.setWatch_engine (s : State) (a : Agent) (k : MsgClass) (w : Option Nat) :
    (s.setWatch a k w).engine = s.engine := rfl
@[simp] theorem State.setWatch_clearLeft (s : State) (a : Agent) (k : MsgClass) (w : Option Nat) :
    (s.setWatch a k w).clearLeft = s.clearLeft := rfl
@[simp] theorem State.setWatch_used (s : State) (a : Agent) (k : MsgClass) (w : Option Nat) :
    (s.setWatch a k w).used = s.used := rfl
@[simp] theorem State.setWatch_watches (s : State) (a : Agent) (k : MsgClass) (w : Option Nat) :
    (s.setWatch a k w).watches = s.watches.set a ((s.watches[a]).set k w) := rfl
@[simp] theorem State.setWatch_descs (s : State) (a : Agent) (k : MsgClass) (w : Option Nat) :
    (s.setWatch a k w).descs = s.descs := rfl
@[simp] theorem State.setWatch_inUse (s : State) (a : Agent) (k : MsgClass) (w : Option Nat) :
    (s.setWatch a k w).inUse = s.inUse := rfl
@[simp] theorem State.setWatch_nextTag (s : State) (a : Agent) (k : MsgClass) (w : Option Nat) :
    (s.setWatch a k w).nextTag = s.nextTag := rfl
@[simp] theorem State.setWatch_queues (s : State) (a : Agent) (k : MsgClass) (w : Option Nat) :
    (s.setWatch a k w).queues = s.queues := rfl
@[simp] theorem State.setWatch_hands (s : State) (a : Agent) (k : MsgClass) (w : Option Nat) :
    (s.setWatch a k w).hands = s.hands := rfl
@[simp] theorem State.setWatch_stagings (s : State) (a : Agent) (k : MsgClass) (w : Option Nat) :
    (s.setWatch a k w).stagings = s.stagings := rfl
@[simp] theorem State.setWatch_prescaleCount (s : State) (a : Agent) (k : MsgClass) (w : Option Nat) :
    (s.setWatch a k w).prescaleCount = s.prescaleCount := rfl
@[simp] theorem State.setWatch_periodCount (s : State) (a : Agent) (k : MsgClass) (w : Option Nat) :
    (s.setWatch a k w).periodCount = s.periodCount := rfl
@[simp] theorem State.setWatch_postscaleCount (s : State) (a : Agent) (k : MsgClass) (w : Option Nat) :
    (s.setWatch a k w).postscaleCount = s.postscaleCount := rfl
@[simp] theorem State.setWatch_ticks (s : State) (a : Agent) (k : MsgClass) (w : Option Nat) :
    (s.setWatch a k w).ticks = s.ticks := rfl
@[simp] theorem State.setWatch_passDue (s : State) (a : Agent) (k : MsgClass) (w : Option Nat) :
    (s.setWatch a k w).passDue = s.passDue := rfl
@[simp] theorem State.setWatch_members (s : State) (a : Agent) (k : MsgClass) (w : Option Nat) :
    (s.setWatch a k w).members = s.members := rfl
@[simp] theorem State.setWatch_notices (s : State) (a : Agent) (k : MsgClass) (w : Option Nat) :
    (s.setWatch a k w).notices = s.notices := rfl
@[simp] theorem State.setWatch_snapshots (s : State) (a : Agent) (k : MsgClass) (w : Option Nat) :
    (s.setWatch a k w).snapshots = s.snapshots := rfl
@[simp] theorem State.setWatch_latches (s : State) (a : Agent) (k : MsgClass) (w : Option Nat) :
    (s.setWatch a k w).latches = s.latches := rfl
@[simp] theorem State.setWatch_table (s : State) (a : Agent) (k : MsgClass) (w : Option Nat) :
    (s.setWatch a k w).table = s.table := rfl
@[simp] theorem State.setWatch_slot (s : State) (a : Agent) (k : MsgClass) (w : Option Nat) :
    (s.setWatch a k w).slot = s.slot := rfl
@[simp] theorem State.setWatch_voting (s : State) (a : Agent) (k : MsgClass) (w : Option Nat) :
    (s.setWatch a k w).voting = s.voting := rfl
@[simp] theorem State.setWatch_nextProposal (s : State) (a : Agent) (k : MsgClass) (w : Option Nat) :
    (s.setWatch a k w).nextProposal = s.nextProposal := rfl
@[simp] theorem State.setWatch_lastProposal (s : State) (a : Agent) (k : MsgClass) (w : Option Nat) :
    (s.setWatch a k w).lastProposal = s.lastProposal := rfl
@[simp] theorem State.setWatch_epoch (s : State) (a : Agent) (k : MsgClass) (w : Option Nat) :
    (s.setWatch a k w).epoch = s.epoch := rfl
@[simp] theorem State.setWatch_frames (s : State) (a : Agent) (k : MsgClass) (w : Option Nat) :
    (s.setWatch a k w).frames = s.frames := rfl
@[simp] theorem State.setWatch_pending (s : State) (a : Agent) (k : MsgClass) (w : Option Nat) :
    (s.setWatch a k w).pending = s.pending := rfl
@[simp] theorem State.setWatch_choices (s : State) (a : Agent) (k : MsgClass) (w : Option Nat) :
    (s.setWatch a k w).choices = s.choices := rfl

@[simp] theorem State.setQueue_rstnLow (s : State) (a : Agent) (k : MsgClass) (q : List DescId) :
    (s.setQueue a k q).rstnLow = s.rstnLow := rfl
@[simp] theorem State.setQueue_mem (s : State) (a : Agent) (k : MsgClass) (q : List DescId) :
    (s.setQueue a k q).mem = s.mem := rfl
@[simp] theorem State.setQueue_cellMap (s : State) (a : Agent) (k : MsgClass) (q : List DescId) :
    (s.setQueue a k q).cellMap = s.cellMap := rfl
@[simp] theorem State.setQueue_freeList (s : State) (a : Agent) (k : MsgClass) (q : List DescId) :
    (s.setQueue a k q).freeList = s.freeList := rfl
@[simp] theorem State.setQueue_scrubQueue (s : State) (a : Agent) (k : MsgClass) (q : List DescId) :
    (s.setQueue a k q).scrubQueue = s.scrubQueue := rfl
@[simp] theorem State.setQueue_engine (s : State) (a : Agent) (k : MsgClass) (q : List DescId) :
    (s.setQueue a k q).engine = s.engine := rfl
@[simp] theorem State.setQueue_clearLeft (s : State) (a : Agent) (k : MsgClass) (q : List DescId) :
    (s.setQueue a k q).clearLeft = s.clearLeft := rfl
@[simp] theorem State.setQueue_used (s : State) (a : Agent) (k : MsgClass) (q : List DescId) :
    (s.setQueue a k q).used = s.used := rfl
@[simp] theorem State.setQueue_watches (s : State) (a : Agent) (k : MsgClass) (q : List DescId) :
    (s.setQueue a k q).watches = s.watches := rfl
@[simp] theorem State.setQueue_descs (s : State) (a : Agent) (k : MsgClass) (q : List DescId) :
    (s.setQueue a k q).descs = s.descs := rfl
@[simp] theorem State.setQueue_inUse (s : State) (a : Agent) (k : MsgClass) (q : List DescId) :
    (s.setQueue a k q).inUse = s.inUse := rfl
@[simp] theorem State.setQueue_nextTag (s : State) (a : Agent) (k : MsgClass) (q : List DescId) :
    (s.setQueue a k q).nextTag = s.nextTag := rfl
@[simp] theorem State.setQueue_queues (s : State) (a : Agent) (k : MsgClass) (q : List DescId) :
    (s.setQueue a k q).queues = s.queues.set a ((s.queues[a]).set k q) := rfl
@[simp] theorem State.setQueue_hands (s : State) (a : Agent) (k : MsgClass) (q : List DescId) :
    (s.setQueue a k q).hands = s.hands := rfl
@[simp] theorem State.setQueue_stagings (s : State) (a : Agent) (k : MsgClass) (q : List DescId) :
    (s.setQueue a k q).stagings = s.stagings := rfl
@[simp] theorem State.setQueue_prescaleCount (s : State) (a : Agent) (k : MsgClass) (q : List DescId) :
    (s.setQueue a k q).prescaleCount = s.prescaleCount := rfl
@[simp] theorem State.setQueue_periodCount (s : State) (a : Agent) (k : MsgClass) (q : List DescId) :
    (s.setQueue a k q).periodCount = s.periodCount := rfl
@[simp] theorem State.setQueue_postscaleCount (s : State) (a : Agent) (k : MsgClass) (q : List DescId) :
    (s.setQueue a k q).postscaleCount = s.postscaleCount := rfl
@[simp] theorem State.setQueue_ticks (s : State) (a : Agent) (k : MsgClass) (q : List DescId) :
    (s.setQueue a k q).ticks = s.ticks := rfl
@[simp] theorem State.setQueue_passDue (s : State) (a : Agent) (k : MsgClass) (q : List DescId) :
    (s.setQueue a k q).passDue = s.passDue := rfl
@[simp] theorem State.setQueue_members (s : State) (a : Agent) (k : MsgClass) (q : List DescId) :
    (s.setQueue a k q).members = s.members := rfl
@[simp] theorem State.setQueue_notices (s : State) (a : Agent) (k : MsgClass) (q : List DescId) :
    (s.setQueue a k q).notices = s.notices := rfl
@[simp] theorem State.setQueue_snapshots (s : State) (a : Agent) (k : MsgClass) (q : List DescId) :
    (s.setQueue a k q).snapshots = s.snapshots := rfl
@[simp] theorem State.setQueue_latches (s : State) (a : Agent) (k : MsgClass) (q : List DescId) :
    (s.setQueue a k q).latches = s.latches := rfl
@[simp] theorem State.setQueue_table (s : State) (a : Agent) (k : MsgClass) (q : List DescId) :
    (s.setQueue a k q).table = s.table := rfl
@[simp] theorem State.setQueue_slot (s : State) (a : Agent) (k : MsgClass) (q : List DescId) :
    (s.setQueue a k q).slot = s.slot := rfl
@[simp] theorem State.setQueue_voting (s : State) (a : Agent) (k : MsgClass) (q : List DescId) :
    (s.setQueue a k q).voting = s.voting := rfl
@[simp] theorem State.setQueue_nextProposal (s : State) (a : Agent) (k : MsgClass) (q : List DescId) :
    (s.setQueue a k q).nextProposal = s.nextProposal := rfl
@[simp] theorem State.setQueue_lastProposal (s : State) (a : Agent) (k : MsgClass) (q : List DescId) :
    (s.setQueue a k q).lastProposal = s.lastProposal := rfl
@[simp] theorem State.setQueue_epoch (s : State) (a : Agent) (k : MsgClass) (q : List DescId) :
    (s.setQueue a k q).epoch = s.epoch := rfl
@[simp] theorem State.setQueue_frames (s : State) (a : Agent) (k : MsgClass) (q : List DescId) :
    (s.setQueue a k q).frames = s.frames := rfl
@[simp] theorem State.setQueue_pending (s : State) (a : Agent) (k : MsgClass) (q : List DescId) :
    (s.setQueue a k q).pending = s.pending := rfl
@[simp] theorem State.setQueue_choices (s : State) (a : Agent) (k : MsgClass) (q : List DescId) :
    (s.setQueue a k q).choices = s.choices := rfl

@[simp] theorem State.setHand_rstnLow (s : State) (a : Agent) (k : MsgClass) (h : Option DescId) :
    (s.setHand a k h).rstnLow = s.rstnLow := rfl
@[simp] theorem State.setHand_mem (s : State) (a : Agent) (k : MsgClass) (h : Option DescId) :
    (s.setHand a k h).mem = s.mem := rfl
@[simp] theorem State.setHand_cellMap (s : State) (a : Agent) (k : MsgClass) (h : Option DescId) :
    (s.setHand a k h).cellMap = s.cellMap := rfl
@[simp] theorem State.setHand_freeList (s : State) (a : Agent) (k : MsgClass) (h : Option DescId) :
    (s.setHand a k h).freeList = s.freeList := rfl
@[simp] theorem State.setHand_scrubQueue (s : State) (a : Agent) (k : MsgClass) (h : Option DescId) :
    (s.setHand a k h).scrubQueue = s.scrubQueue := rfl
@[simp] theorem State.setHand_engine (s : State) (a : Agent) (k : MsgClass) (h : Option DescId) :
    (s.setHand a k h).engine = s.engine := rfl
@[simp] theorem State.setHand_clearLeft (s : State) (a : Agent) (k : MsgClass) (h : Option DescId) :
    (s.setHand a k h).clearLeft = s.clearLeft := rfl
@[simp] theorem State.setHand_used (s : State) (a : Agent) (k : MsgClass) (h : Option DescId) :
    (s.setHand a k h).used = s.used := rfl
@[simp] theorem State.setHand_watches (s : State) (a : Agent) (k : MsgClass) (h : Option DescId) :
    (s.setHand a k h).watches = s.watches := rfl
@[simp] theorem State.setHand_descs (s : State) (a : Agent) (k : MsgClass) (h : Option DescId) :
    (s.setHand a k h).descs = s.descs := rfl
@[simp] theorem State.setHand_inUse (s : State) (a : Agent) (k : MsgClass) (h : Option DescId) :
    (s.setHand a k h).inUse = s.inUse := rfl
@[simp] theorem State.setHand_nextTag (s : State) (a : Agent) (k : MsgClass) (h : Option DescId) :
    (s.setHand a k h).nextTag = s.nextTag := rfl
@[simp] theorem State.setHand_queues (s : State) (a : Agent) (k : MsgClass) (h : Option DescId) :
    (s.setHand a k h).queues = s.queues := rfl
@[simp] theorem State.setHand_hands (s : State) (a : Agent) (k : MsgClass) (h : Option DescId) :
    (s.setHand a k h).hands = s.hands.set a ((s.hands[a]).set k h) := rfl
@[simp] theorem State.setHand_stagings (s : State) (a : Agent) (k : MsgClass) (h : Option DescId) :
    (s.setHand a k h).stagings = s.stagings := rfl
@[simp] theorem State.setHand_prescaleCount (s : State) (a : Agent) (k : MsgClass) (h : Option DescId) :
    (s.setHand a k h).prescaleCount = s.prescaleCount := rfl
@[simp] theorem State.setHand_periodCount (s : State) (a : Agent) (k : MsgClass) (h : Option DescId) :
    (s.setHand a k h).periodCount = s.periodCount := rfl
@[simp] theorem State.setHand_postscaleCount (s : State) (a : Agent) (k : MsgClass) (h : Option DescId) :
    (s.setHand a k h).postscaleCount = s.postscaleCount := rfl
@[simp] theorem State.setHand_ticks (s : State) (a : Agent) (k : MsgClass) (h : Option DescId) :
    (s.setHand a k h).ticks = s.ticks := rfl
@[simp] theorem State.setHand_passDue (s : State) (a : Agent) (k : MsgClass) (h : Option DescId) :
    (s.setHand a k h).passDue = s.passDue := rfl
@[simp] theorem State.setHand_members (s : State) (a : Agent) (k : MsgClass) (h : Option DescId) :
    (s.setHand a k h).members = s.members := rfl
@[simp] theorem State.setHand_notices (s : State) (a : Agent) (k : MsgClass) (h : Option DescId) :
    (s.setHand a k h).notices = s.notices := rfl
@[simp] theorem State.setHand_snapshots (s : State) (a : Agent) (k : MsgClass) (h : Option DescId) :
    (s.setHand a k h).snapshots = s.snapshots := rfl
@[simp] theorem State.setHand_latches (s : State) (a : Agent) (k : MsgClass) (h : Option DescId) :
    (s.setHand a k h).latches = s.latches := rfl
@[simp] theorem State.setHand_table (s : State) (a : Agent) (k : MsgClass) (h : Option DescId) :
    (s.setHand a k h).table = s.table := rfl
@[simp] theorem State.setHand_slot (s : State) (a : Agent) (k : MsgClass) (h : Option DescId) :
    (s.setHand a k h).slot = s.slot := rfl
@[simp] theorem State.setHand_voting (s : State) (a : Agent) (k : MsgClass) (h : Option DescId) :
    (s.setHand a k h).voting = s.voting := rfl
@[simp] theorem State.setHand_nextProposal (s : State) (a : Agent) (k : MsgClass) (h : Option DescId) :
    (s.setHand a k h).nextProposal = s.nextProposal := rfl
@[simp] theorem State.setHand_lastProposal (s : State) (a : Agent) (k : MsgClass) (h : Option DescId) :
    (s.setHand a k h).lastProposal = s.lastProposal := rfl
@[simp] theorem State.setHand_epoch (s : State) (a : Agent) (k : MsgClass) (h : Option DescId) :
    (s.setHand a k h).epoch = s.epoch := rfl
@[simp] theorem State.setHand_frames (s : State) (a : Agent) (k : MsgClass) (h : Option DescId) :
    (s.setHand a k h).frames = s.frames := rfl
@[simp] theorem State.setHand_pending (s : State) (a : Agent) (k : MsgClass) (h : Option DescId) :
    (s.setHand a k h).pending = s.pending := rfl
@[simp] theorem State.setHand_choices (s : State) (a : Agent) (k : MsgClass) (h : Option DescId) :
    (s.setHand a k h).choices = s.choices := rfl

@[simp] theorem State.setDesc_rstnLow (s : State) (d : DescId) (x : Descriptor) :
    (s.setDesc d x).rstnLow = s.rstnLow := rfl
@[simp] theorem State.setDesc_mem (s : State) (d : DescId) (x : Descriptor) :
    (s.setDesc d x).mem = s.mem := rfl
@[simp] theorem State.setDesc_cellMap (s : State) (d : DescId) (x : Descriptor) :
    (s.setDesc d x).cellMap = s.cellMap := rfl
@[simp] theorem State.setDesc_freeList (s : State) (d : DescId) (x : Descriptor) :
    (s.setDesc d x).freeList = s.freeList := rfl
@[simp] theorem State.setDesc_scrubQueue (s : State) (d : DescId) (x : Descriptor) :
    (s.setDesc d x).scrubQueue = s.scrubQueue := rfl
@[simp] theorem State.setDesc_engine (s : State) (d : DescId) (x : Descriptor) :
    (s.setDesc d x).engine = s.engine := rfl
@[simp] theorem State.setDesc_clearLeft (s : State) (d : DescId) (x : Descriptor) :
    (s.setDesc d x).clearLeft = s.clearLeft := rfl
@[simp] theorem State.setDesc_used (s : State) (d : DescId) (x : Descriptor) :
    (s.setDesc d x).used = s.used := rfl
@[simp] theorem State.setDesc_watches (s : State) (d : DescId) (x : Descriptor) :
    (s.setDesc d x).watches = s.watches := rfl
@[simp] theorem State.setDesc_descs (s : State) (d : DescId) (x : Descriptor) :
    (s.setDesc d x).descs = s.descs.set d x := rfl
@[simp] theorem State.setDesc_inUse (s : State) (d : DescId) (x : Descriptor) :
    (s.setDesc d x).inUse = s.inUse := rfl
@[simp] theorem State.setDesc_nextTag (s : State) (d : DescId) (x : Descriptor) :
    (s.setDesc d x).nextTag = s.nextTag := rfl
@[simp] theorem State.setDesc_queues (s : State) (d : DescId) (x : Descriptor) :
    (s.setDesc d x).queues = s.queues := rfl
@[simp] theorem State.setDesc_hands (s : State) (d : DescId) (x : Descriptor) :
    (s.setDesc d x).hands = s.hands := rfl
@[simp] theorem State.setDesc_stagings (s : State) (d : DescId) (x : Descriptor) :
    (s.setDesc d x).stagings = s.stagings := rfl
@[simp] theorem State.setDesc_prescaleCount (s : State) (d : DescId) (x : Descriptor) :
    (s.setDesc d x).prescaleCount = s.prescaleCount := rfl
@[simp] theorem State.setDesc_periodCount (s : State) (d : DescId) (x : Descriptor) :
    (s.setDesc d x).periodCount = s.periodCount := rfl
@[simp] theorem State.setDesc_postscaleCount (s : State) (d : DescId) (x : Descriptor) :
    (s.setDesc d x).postscaleCount = s.postscaleCount := rfl
@[simp] theorem State.setDesc_ticks (s : State) (d : DescId) (x : Descriptor) :
    (s.setDesc d x).ticks = s.ticks := rfl
@[simp] theorem State.setDesc_passDue (s : State) (d : DescId) (x : Descriptor) :
    (s.setDesc d x).passDue = s.passDue := rfl
@[simp] theorem State.setDesc_members (s : State) (d : DescId) (x : Descriptor) :
    (s.setDesc d x).members = s.members := rfl
@[simp] theorem State.setDesc_notices (s : State) (d : DescId) (x : Descriptor) :
    (s.setDesc d x).notices = s.notices := rfl
@[simp] theorem State.setDesc_snapshots (s : State) (d : DescId) (x : Descriptor) :
    (s.setDesc d x).snapshots = s.snapshots := rfl
@[simp] theorem State.setDesc_latches (s : State) (d : DescId) (x : Descriptor) :
    (s.setDesc d x).latches = s.latches := rfl
@[simp] theorem State.setDesc_table (s : State) (d : DescId) (x : Descriptor) :
    (s.setDesc d x).table = s.table := rfl
@[simp] theorem State.setDesc_slot (s : State) (d : DescId) (x : Descriptor) :
    (s.setDesc d x).slot = s.slot := rfl
@[simp] theorem State.setDesc_voting (s : State) (d : DescId) (x : Descriptor) :
    (s.setDesc d x).voting = s.voting := rfl
@[simp] theorem State.setDesc_nextProposal (s : State) (d : DescId) (x : Descriptor) :
    (s.setDesc d x).nextProposal = s.nextProposal := rfl
@[simp] theorem State.setDesc_lastProposal (s : State) (d : DescId) (x : Descriptor) :
    (s.setDesc d x).lastProposal = s.lastProposal := rfl
@[simp] theorem State.setDesc_epoch (s : State) (d : DescId) (x : Descriptor) :
    (s.setDesc d x).epoch = s.epoch := rfl
@[simp] theorem State.setDesc_frames (s : State) (d : DescId) (x : Descriptor) :
    (s.setDesc d x).frames = s.frames := rfl
@[simp] theorem State.setDesc_pending (s : State) (d : DescId) (x : Descriptor) :
    (s.setDesc d x).pending = s.pending := rfl
@[simp] theorem State.setDesc_choices (s : State) (d : DescId) (x : Descriptor) :
    (s.setDesc d x).choices = s.choices := rfl

@[simp] theorem State.setStaging_rstnLow (s : State) (p : Agent) (c : Option StagingContext) :
    (s.setStaging p c).rstnLow = s.rstnLow := rfl
@[simp] theorem State.setStaging_mem (s : State) (p : Agent) (c : Option StagingContext) :
    (s.setStaging p c).mem = s.mem := rfl
@[simp] theorem State.setStaging_cellMap (s : State) (p : Agent) (c : Option StagingContext) :
    (s.setStaging p c).cellMap = s.cellMap := rfl
@[simp] theorem State.setStaging_freeList (s : State) (p : Agent) (c : Option StagingContext) :
    (s.setStaging p c).freeList = s.freeList := rfl
@[simp] theorem State.setStaging_scrubQueue (s : State) (p : Agent) (c : Option StagingContext) :
    (s.setStaging p c).scrubQueue = s.scrubQueue := rfl
@[simp] theorem State.setStaging_engine (s : State) (p : Agent) (c : Option StagingContext) :
    (s.setStaging p c).engine = s.engine := rfl
@[simp] theorem State.setStaging_clearLeft (s : State) (p : Agent) (c : Option StagingContext) :
    (s.setStaging p c).clearLeft = s.clearLeft := rfl
@[simp] theorem State.setStaging_used (s : State) (p : Agent) (c : Option StagingContext) :
    (s.setStaging p c).used = s.used := rfl
@[simp] theorem State.setStaging_watches (s : State) (p : Agent) (c : Option StagingContext) :
    (s.setStaging p c).watches = s.watches := rfl
@[simp] theorem State.setStaging_descs (s : State) (p : Agent) (c : Option StagingContext) :
    (s.setStaging p c).descs = s.descs := rfl
@[simp] theorem State.setStaging_inUse (s : State) (p : Agent) (c : Option StagingContext) :
    (s.setStaging p c).inUse = s.inUse := rfl
@[simp] theorem State.setStaging_nextTag (s : State) (p : Agent) (c : Option StagingContext) :
    (s.setStaging p c).nextTag = s.nextTag := rfl
@[simp] theorem State.setStaging_queues (s : State) (p : Agent) (c : Option StagingContext) :
    (s.setStaging p c).queues = s.queues := rfl
@[simp] theorem State.setStaging_hands (s : State) (p : Agent) (c : Option StagingContext) :
    (s.setStaging p c).hands = s.hands := rfl
@[simp] theorem State.setStaging_stagings (s : State) (p : Agent) (c : Option StagingContext) :
    (s.setStaging p c).stagings = s.stagings.set p c := rfl
@[simp] theorem State.setStaging_prescaleCount (s : State) (p : Agent) (c : Option StagingContext) :
    (s.setStaging p c).prescaleCount = s.prescaleCount := rfl
@[simp] theorem State.setStaging_periodCount (s : State) (p : Agent) (c : Option StagingContext) :
    (s.setStaging p c).periodCount = s.periodCount := rfl
@[simp] theorem State.setStaging_postscaleCount (s : State) (p : Agent) (c : Option StagingContext) :
    (s.setStaging p c).postscaleCount = s.postscaleCount := rfl
@[simp] theorem State.setStaging_ticks (s : State) (p : Agent) (c : Option StagingContext) :
    (s.setStaging p c).ticks = s.ticks := rfl
@[simp] theorem State.setStaging_passDue (s : State) (p : Agent) (c : Option StagingContext) :
    (s.setStaging p c).passDue = s.passDue := rfl
@[simp] theorem State.setStaging_members (s : State) (p : Agent) (c : Option StagingContext) :
    (s.setStaging p c).members = s.members := rfl
@[simp] theorem State.setStaging_notices (s : State) (p : Agent) (c : Option StagingContext) :
    (s.setStaging p c).notices = s.notices := rfl
@[simp] theorem State.setStaging_snapshots (s : State) (p : Agent) (c : Option StagingContext) :
    (s.setStaging p c).snapshots = s.snapshots := rfl
@[simp] theorem State.setStaging_latches (s : State) (p : Agent) (c : Option StagingContext) :
    (s.setStaging p c).latches = s.latches := rfl
@[simp] theorem State.setStaging_table (s : State) (p : Agent) (c : Option StagingContext) :
    (s.setStaging p c).table = s.table := rfl
@[simp] theorem State.setStaging_slot (s : State) (p : Agent) (c : Option StagingContext) :
    (s.setStaging p c).slot = s.slot := rfl
@[simp] theorem State.setStaging_voting (s : State) (p : Agent) (c : Option StagingContext) :
    (s.setStaging p c).voting = s.voting := rfl
@[simp] theorem State.setStaging_nextProposal (s : State) (p : Agent) (c : Option StagingContext) :
    (s.setStaging p c).nextProposal = s.nextProposal := rfl
@[simp] theorem State.setStaging_lastProposal (s : State) (p : Agent) (c : Option StagingContext) :
    (s.setStaging p c).lastProposal = s.lastProposal := rfl
@[simp] theorem State.setStaging_epoch (s : State) (p : Agent) (c : Option StagingContext) :
    (s.setStaging p c).epoch = s.epoch := rfl
@[simp] theorem State.setStaging_frames (s : State) (p : Agent) (c : Option StagingContext) :
    (s.setStaging p c).frames = s.frames := rfl
@[simp] theorem State.setStaging_pending (s : State) (p : Agent) (c : Option StagingContext) :
    (s.setStaging p c).pending = s.pending := rfl
@[simp] theorem State.setStaging_choices (s : State) (p : Agent) (c : Option StagingContext) :
    (s.setStaging p c).choices = s.choices := rfl

@[simp] theorem State.setCell_rstnLow (s : State) (c : CellId) (r : CellRecord) :
    (s.setCell c r).rstnLow = s.rstnLow := rfl
@[simp] theorem State.setCell_mem (s : State) (c : CellId) (r : CellRecord) :
    (s.setCell c r).mem = s.mem := rfl
@[simp] theorem State.setCell_cellMap (s : State) (c : CellId) (r : CellRecord) :
    (s.setCell c r).cellMap = s.cellMap.set c r := rfl
@[simp] theorem State.setCell_freeList (s : State) (c : CellId) (r : CellRecord) :
    (s.setCell c r).freeList = s.freeList := rfl
@[simp] theorem State.setCell_scrubQueue (s : State) (c : CellId) (r : CellRecord) :
    (s.setCell c r).scrubQueue = s.scrubQueue := rfl
@[simp] theorem State.setCell_engine (s : State) (c : CellId) (r : CellRecord) :
    (s.setCell c r).engine = s.engine := rfl
@[simp] theorem State.setCell_clearLeft (s : State) (c : CellId) (r : CellRecord) :
    (s.setCell c r).clearLeft = s.clearLeft := rfl
@[simp] theorem State.setCell_used (s : State) (c : CellId) (r : CellRecord) :
    (s.setCell c r).used = s.used := rfl
@[simp] theorem State.setCell_watches (s : State) (c : CellId) (r : CellRecord) :
    (s.setCell c r).watches = s.watches := rfl
@[simp] theorem State.setCell_descs (s : State) (c : CellId) (r : CellRecord) :
    (s.setCell c r).descs = s.descs := rfl
@[simp] theorem State.setCell_inUse (s : State) (c : CellId) (r : CellRecord) :
    (s.setCell c r).inUse = s.inUse := rfl
@[simp] theorem State.setCell_nextTag (s : State) (c : CellId) (r : CellRecord) :
    (s.setCell c r).nextTag = s.nextTag := rfl
@[simp] theorem State.setCell_queues (s : State) (c : CellId) (r : CellRecord) :
    (s.setCell c r).queues = s.queues := rfl
@[simp] theorem State.setCell_hands (s : State) (c : CellId) (r : CellRecord) :
    (s.setCell c r).hands = s.hands := rfl
@[simp] theorem State.setCell_stagings (s : State) (c : CellId) (r : CellRecord) :
    (s.setCell c r).stagings = s.stagings := rfl
@[simp] theorem State.setCell_prescaleCount (s : State) (c : CellId) (r : CellRecord) :
    (s.setCell c r).prescaleCount = s.prescaleCount := rfl
@[simp] theorem State.setCell_periodCount (s : State) (c : CellId) (r : CellRecord) :
    (s.setCell c r).periodCount = s.periodCount := rfl
@[simp] theorem State.setCell_postscaleCount (s : State) (c : CellId) (r : CellRecord) :
    (s.setCell c r).postscaleCount = s.postscaleCount := rfl
@[simp] theorem State.setCell_ticks (s : State) (c : CellId) (r : CellRecord) :
    (s.setCell c r).ticks = s.ticks := rfl
@[simp] theorem State.setCell_passDue (s : State) (c : CellId) (r : CellRecord) :
    (s.setCell c r).passDue = s.passDue := rfl
@[simp] theorem State.setCell_members (s : State) (c : CellId) (r : CellRecord) :
    (s.setCell c r).members = s.members := rfl
@[simp] theorem State.setCell_notices (s : State) (c : CellId) (r : CellRecord) :
    (s.setCell c r).notices = s.notices := rfl
@[simp] theorem State.setCell_snapshots (s : State) (c : CellId) (r : CellRecord) :
    (s.setCell c r).snapshots = s.snapshots := rfl
@[simp] theorem State.setCell_latches (s : State) (c : CellId) (r : CellRecord) :
    (s.setCell c r).latches = s.latches := rfl
@[simp] theorem State.setCell_table (s : State) (c : CellId) (r : CellRecord) :
    (s.setCell c r).table = s.table := rfl
@[simp] theorem State.setCell_slot (s : State) (c : CellId) (r : CellRecord) :
    (s.setCell c r).slot = s.slot := rfl
@[simp] theorem State.setCell_voting (s : State) (c : CellId) (r : CellRecord) :
    (s.setCell c r).voting = s.voting := rfl
@[simp] theorem State.setCell_nextProposal (s : State) (c : CellId) (r : CellRecord) :
    (s.setCell c r).nextProposal = s.nextProposal := rfl
@[simp] theorem State.setCell_lastProposal (s : State) (c : CellId) (r : CellRecord) :
    (s.setCell c r).lastProposal = s.lastProposal := rfl
@[simp] theorem State.setCell_epoch (s : State) (c : CellId) (r : CellRecord) :
    (s.setCell c r).epoch = s.epoch := rfl
@[simp] theorem State.setCell_frames (s : State) (c : CellId) (r : CellRecord) :
    (s.setCell c r).frames = s.frames := rfl
@[simp] theorem State.setCell_pending (s : State) (c : CellId) (r : CellRecord) :
    (s.setCell c r).pending = s.pending := rfl
@[simp] theorem State.setCell_choices (s : State) (c : CellId) (r : CellRecord) :
    (s.setCell c r).choices = s.choices := rfl

end Sys2Proof.Machine
end

