-- ==== Sys2Proof/Laws/Ops.lean ====
section
/-! SUPPORT. What each shared operation can touch: a frame lemma that says it once, and one lemma per field it leaves
alone. -/

namespace Sys2Proof.Machine

/-- A field that each step of a fold leaves alone is left alone by the fold. -/
theorem foldl_field {α β : Type} (g : State → α) (f : State → β → State) (h : ∀ s x, g (f s x) = g s) (l : List β)
    (s : State) : g (l.foldl f s) = g s := by
  induction l generalizing s with
  | nil => rfl
  | cons x rest ih => rw [List.foldl_cons, ih, h]

/-- Two states with the same fields are the same. -/
theorem State.ext_fields {s t : State} (h0 : s.rstnLow = t.rstnLow)
    (h1 : s.mem = t.mem)
    (h2 : s.cellMap = t.cellMap)
    (h3 : s.freeList = t.freeList)
    (h4 : s.scrubQueue = t.scrubQueue)
    (h5 : s.engine = t.engine)
    (h6 : s.clearLeft = t.clearLeft)
    (h7 : s.used = t.used)
    (h8 : s.watches = t.watches)
    (h9 : s.descs = t.descs)
    (h10 : s.inUse = t.inUse)
    (h11 : s.nextTag = t.nextTag)
    (h12 : s.queues = t.queues)
    (h13 : s.hands = t.hands)
    (h14 : s.stagings = t.stagings)
    (h15 : s.prescaleCount = t.prescaleCount)
    (h16 : s.periodCount = t.periodCount)
    (h17 : s.postscaleCount = t.postscaleCount)
    (h18 : s.ticks = t.ticks)
    (h19 : s.passDue = t.passDue)
    (h20 : s.members = t.members)
    (h21 : s.notices = t.notices)
    (h22 : s.snapshots = t.snapshots)
    (h23 : s.latches = t.latches)
    (h24 : s.table = t.table)
    (h25 : s.slot = t.slot)
    (h26 : s.voting = t.voting)
    (h27 : s.nextProposal = t.nextProposal)
    (h28 : s.lastProposal = t.lastProposal)
    (h29 : s.epoch = t.epoch)
    (h30 : s.frames = t.frames)
    (h31 : s.pending = t.pending)
    (h32 : s.choices = t.choices) : s = t := by
  cases s; cases t; simp only [State.mk.injEq]; exact ⟨h0, h1, h2, h3, h4, h5, h6, h7, h8, h9, h10, h11, h12, h13, h14, h15, h16, h17, h18, h19, h20, h21, h22, h23, h24, h25, h26, h27, h28, h29, h30, h31, h32⟩

/-! ### restartClock -/

@[simp] theorem State.restartClock_untouched (s : State) :
    s.restartClock.rstnLow = s.rstnLow ∧ s.restartClock.mem = s.mem ∧ s.restartClock.cellMap = s.cellMap ∧
    s.restartClock.freeList = s.freeList ∧ s.restartClock.scrubQueue = s.scrubQueue ∧
    s.restartClock.engine = s.engine ∧ s.restartClock.clearLeft = s.clearLeft ∧ s.restartClock.used = s.used ∧
    s.restartClock.watches = s.watches ∧ s.restartClock.descs = s.descs ∧ s.restartClock.inUse = s.inUse ∧
    s.restartClock.nextTag = s.nextTag ∧ s.restartClock.queues = s.queues ∧ s.restartClock.hands = s.hands ∧
    s.restartClock.stagings = s.stagings ∧ s.restartClock.ticks = s.ticks ∧ s.restartClock.passDue = s.passDue ∧
    s.restartClock.members = s.members ∧ s.restartClock.notices = s.notices ∧
    s.restartClock.snapshots = s.snapshots ∧ s.restartClock.latches = s.latches ∧ s.restartClock.table = s.table ∧
    s.restartClock.slot = s.slot ∧ s.restartClock.voting = s.voting ∧ s.restartClock.nextProposal = s.nextProposal ∧
    s.restartClock.lastProposal = s.lastProposal ∧ s.restartClock.epoch = s.epoch ∧
    s.restartClock.frames = s.frames ∧ s.restartClock.pending = s.pending ∧ s.restartClock.choices = s.choices := by
  simp [State.restartClock]

/-- What restartClock can touch. -/
theorem State.restartClock_frame (s : State) :
    s.restartClock = { s with
      prescaleCount := s.restartClock.prescaleCount, periodCount := s.restartClock.periodCount
      postscaleCount := s.restartClock.postscaleCount } := by
  apply State.ext_fields <;> simp

/-! ### foldOffer -/

@[simp] theorem State.foldOffer_untouched (s : State) (a : Agent) :
    (s.foldOffer a).rstnLow = s.rstnLow ∧ (s.foldOffer a).mem = s.mem ∧ (s.foldOffer a).cellMap = s.cellMap ∧
    (s.foldOffer a).freeList = s.freeList ∧ (s.foldOffer a).scrubQueue = s.scrubQueue ∧
    (s.foldOffer a).engine = s.engine ∧ (s.foldOffer a).clearLeft = s.clearLeft ∧ (s.foldOffer a).used = s.used ∧
    (s.foldOffer a).watches = s.watches ∧ (s.foldOffer a).descs = s.descs ∧ (s.foldOffer a).inUse = s.inUse ∧
    (s.foldOffer a).nextTag = s.nextTag ∧ (s.foldOffer a).queues = s.queues ∧ (s.foldOffer a).hands = s.hands ∧
    (s.foldOffer a).stagings = s.stagings ∧ (s.foldOffer a).prescaleCount = s.prescaleCount ∧
    (s.foldOffer a).periodCount = s.periodCount ∧ (s.foldOffer a).postscaleCount = s.postscaleCount ∧
    (s.foldOffer a).ticks = s.ticks ∧ (s.foldOffer a).passDue = s.passDue ∧ (s.foldOffer a).members = s.members ∧
    (s.foldOffer a).snapshots = s.snapshots ∧ (s.foldOffer a).table = s.table ∧ (s.foldOffer a).slot = s.slot ∧
    (s.foldOffer a).voting = s.voting ∧ (s.foldOffer a).nextProposal = s.nextProposal ∧
    (s.foldOffer a).lastProposal = s.lastProposal ∧ (s.foldOffer a).epoch = s.epoch ∧
    (s.foldOffer a).frames = s.frames ∧ (s.foldOffer a).pending = s.pending ∧ (s.foldOffer a).choices = s.choices := by
  unfold State.foldOffer; (repeat' split) <;> simp

/-- What foldOffer can touch. -/
theorem State.foldOffer_frame (s : State) (a : Agent) :
    s.foldOffer a = { s with
      notices := (s.foldOffer a).notices, latches := (s.foldOffer a).latches } := by
  apply State.ext_fields <;> simp

/-! ### offer -/

@[simp] theorem State.offer_untouched (s : State) (a : Agent) (n : Notice) :
    (s.offer a n).rstnLow = s.rstnLow ∧ (s.offer a n).mem = s.mem ∧ (s.offer a n).cellMap = s.cellMap ∧
    (s.offer a n).freeList = s.freeList ∧ (s.offer a n).scrubQueue = s.scrubQueue ∧
    (s.offer a n).engine = s.engine ∧ (s.offer a n).clearLeft = s.clearLeft ∧ (s.offer a n).used = s.used ∧
    (s.offer a n).watches = s.watches ∧ (s.offer a n).descs = s.descs ∧ (s.offer a n).inUse = s.inUse ∧
    (s.offer a n).nextTag = s.nextTag ∧ (s.offer a n).queues = s.queues ∧ (s.offer a n).hands = s.hands ∧
    (s.offer a n).stagings = s.stagings ∧ (s.offer a n).prescaleCount = s.prescaleCount ∧
    (s.offer a n).periodCount = s.periodCount ∧ (s.offer a n).postscaleCount = s.postscaleCount ∧
    (s.offer a n).ticks = s.ticks ∧ (s.offer a n).passDue = s.passDue ∧ (s.offer a n).members = s.members ∧
    (s.offer a n).snapshots = s.snapshots ∧ (s.offer a n).table = s.table ∧ (s.offer a n).slot = s.slot ∧
    (s.offer a n).voting = s.voting ∧ (s.offer a n).nextProposal = s.nextProposal ∧
    (s.offer a n).lastProposal = s.lastProposal ∧ (s.offer a n).epoch = s.epoch ∧ (s.offer a n).frames = s.frames ∧
    (s.offer a n).pending = s.pending ∧ (s.offer a n).choices = s.choices := by
  unfold State.offer; (repeat' split) <;> simp

/-- What offer can touch. -/
theorem State.offer_frame (s : State) (a : Agent) (n : Notice) :
    s.offer a n = { s with
      notices := (s.offer a n).notices, latches := (s.offer a n).latches } := by
  apply State.ext_fields <;> simp

/-! ### offerAll -/

@[simp] theorem State.offerAll_untouched (s : State) (l : List Agent) (n : Notice) :
    (s.offerAll l n).rstnLow = s.rstnLow ∧ (s.offerAll l n).mem = s.mem ∧ (s.offerAll l n).cellMap = s.cellMap ∧
    (s.offerAll l n).freeList = s.freeList ∧ (s.offerAll l n).scrubQueue = s.scrubQueue ∧
    (s.offerAll l n).engine = s.engine ∧ (s.offerAll l n).clearLeft = s.clearLeft ∧ (s.offerAll l n).used = s.used ∧
    (s.offerAll l n).watches = s.watches ∧ (s.offerAll l n).descs = s.descs ∧ (s.offerAll l n).inUse = s.inUse ∧
    (s.offerAll l n).nextTag = s.nextTag ∧ (s.offerAll l n).queues = s.queues ∧ (s.offerAll l n).hands = s.hands ∧
    (s.offerAll l n).stagings = s.stagings ∧ (s.offerAll l n).prescaleCount = s.prescaleCount ∧
    (s.offerAll l n).periodCount = s.periodCount ∧ (s.offerAll l n).postscaleCount = s.postscaleCount ∧
    (s.offerAll l n).ticks = s.ticks ∧ (s.offerAll l n).passDue = s.passDue ∧ (s.offerAll l n).members = s.members ∧
    (s.offerAll l n).snapshots = s.snapshots ∧ (s.offerAll l n).table = s.table ∧ (s.offerAll l n).slot = s.slot ∧
    (s.offerAll l n).voting = s.voting ∧ (s.offerAll l n).nextProposal = s.nextProposal ∧
    (s.offerAll l n).lastProposal = s.lastProposal ∧ (s.offerAll l n).epoch = s.epoch ∧
    (s.offerAll l n).frames = s.frames ∧ (s.offerAll l n).pending = s.pending ∧ (s.offerAll l n).choices = s.choices := by
  unfold State.offerAll
  refine ⟨?_, ?_, ?_, ?_, ?_, ?_, ?_, ?_, ?_, ?_, ?_, ?_, ?_, ?_, ?_, ?_, ?_, ?_, ?_, ?_, ?_, ?_, ?_, ?_, ?_, ?_, ?_, ?_, ?_, ?_, ?_⟩
  · exact foldl_field (·.rstnLow) _ (fun t x => by simp) l s
  · exact foldl_field (·.mem) _ (fun t x => by simp) l s
  · exact foldl_field (·.cellMap) _ (fun t x => by simp) l s
  · exact foldl_field (·.freeList) _ (fun t x => by simp) l s
  · exact foldl_field (·.scrubQueue) _ (fun t x => by simp) l s
  · exact foldl_field (·.engine) _ (fun t x => by simp) l s
  · exact foldl_field (·.clearLeft) _ (fun t x => by simp) l s
  · exact foldl_field (·.used) _ (fun t x => by simp) l s
  · exact foldl_field (·.watches) _ (fun t x => by simp) l s
  · exact foldl_field (·.descs) _ (fun t x => by simp) l s
  · exact foldl_field (·.inUse) _ (fun t x => by simp) l s
  · exact foldl_field (·.nextTag) _ (fun t x => by simp) l s
  · exact foldl_field (·.queues) _ (fun t x => by simp) l s
  · exact foldl_field (·.hands) _ (fun t x => by simp) l s
  · exact foldl_field (·.stagings) _ (fun t x => by simp) l s
  · exact foldl_field (·.prescaleCount) _ (fun t x => by simp) l s
  · exact foldl_field (·.periodCount) _ (fun t x => by simp) l s
  · exact foldl_field (·.postscaleCount) _ (fun t x => by simp) l s
  · exact foldl_field (·.ticks) _ (fun t x => by simp) l s
  · exact foldl_field (·.passDue) _ (fun t x => by simp) l s
  · exact foldl_field (·.members) _ (fun t x => by simp) l s
  · exact foldl_field (·.snapshots) _ (fun t x => by simp) l s
  · exact foldl_field (·.table) _ (fun t x => by simp) l s
  · exact foldl_field (·.slot) _ (fun t x => by simp) l s
  · exact foldl_field (·.voting) _ (fun t x => by simp) l s
  · exact foldl_field (·.nextProposal) _ (fun t x => by simp) l s
  · exact foldl_field (·.lastProposal) _ (fun t x => by simp) l s
  · exact foldl_field (·.epoch) _ (fun t x => by simp) l s
  · exact foldl_field (·.frames) _ (fun t x => by simp) l s
  · exact foldl_field (·.pending) _ (fun t x => by simp) l s
  · exact foldl_field (·.choices) _ (fun t x => by simp) l s

/-- What offerAll can touch. -/
theorem State.offerAll_frame (s : State) (l : List Agent) (n : Notice) :
    s.offerAll l n = { s with
      notices := (s.offerAll l n).notices, latches := (s.offerAll l n).latches } := by
  apply State.ext_fields <;> simp

/-! ### offerPeers -/

@[simp] theorem State.offerPeers_untouched (s : State) (a : Agent) (n : Notice) :
    (s.offerPeers a n).rstnLow = s.rstnLow ∧ (s.offerPeers a n).mem = s.mem ∧
    (s.offerPeers a n).cellMap = s.cellMap ∧ (s.offerPeers a n).freeList = s.freeList ∧
    (s.offerPeers a n).scrubQueue = s.scrubQueue ∧ (s.offerPeers a n).engine = s.engine ∧
    (s.offerPeers a n).clearLeft = s.clearLeft ∧ (s.offerPeers a n).used = s.used ∧
    (s.offerPeers a n).watches = s.watches ∧ (s.offerPeers a n).descs = s.descs ∧
    (s.offerPeers a n).inUse = s.inUse ∧ (s.offerPeers a n).nextTag = s.nextTag ∧
    (s.offerPeers a n).queues = s.queues ∧ (s.offerPeers a n).hands = s.hands ∧
    (s.offerPeers a n).stagings = s.stagings ∧ (s.offerPeers a n).prescaleCount = s.prescaleCount ∧
    (s.offerPeers a n).periodCount = s.periodCount ∧ (s.offerPeers a n).postscaleCount = s.postscaleCount ∧
    (s.offerPeers a n).ticks = s.ticks ∧ (s.offerPeers a n).passDue = s.passDue ∧
    (s.offerPeers a n).members = s.members ∧ (s.offerPeers a n).snapshots = s.snapshots ∧
    (s.offerPeers a n).table = s.table ∧ (s.offerPeers a n).slot = s.slot ∧ (s.offerPeers a n).voting = s.voting ∧
    (s.offerPeers a n).nextProposal = s.nextProposal ∧ (s.offerPeers a n).lastProposal = s.lastProposal ∧
    (s.offerPeers a n).epoch = s.epoch ∧ (s.offerPeers a n).frames = s.frames ∧
    (s.offerPeers a n).pending = s.pending ∧ (s.offerPeers a n).choices = s.choices := by
  simp [State.offerPeers]

/-- What offerPeers can touch. -/
theorem State.offerPeers_frame (s : State) (a : Agent) (n : Notice) :
    s.offerPeers a n = { s with
      notices := (s.offerPeers a n).notices, latches := (s.offerPeers a n).latches } := by
  apply State.ext_fields <;> simp

/-! ### offerOptional -/

@[simp] theorem State.offerOptional_untouched (s : State) (a : Agent) (n : Option Notice) :
    (s.offerOptional a n).rstnLow = s.rstnLow ∧ (s.offerOptional a n).mem = s.mem ∧
    (s.offerOptional a n).cellMap = s.cellMap ∧ (s.offerOptional a n).freeList = s.freeList ∧
    (s.offerOptional a n).scrubQueue = s.scrubQueue ∧ (s.offerOptional a n).engine = s.engine ∧
    (s.offerOptional a n).clearLeft = s.clearLeft ∧ (s.offerOptional a n).used = s.used ∧
    (s.offerOptional a n).watches = s.watches ∧ (s.offerOptional a n).descs = s.descs ∧
    (s.offerOptional a n).inUse = s.inUse ∧ (s.offerOptional a n).nextTag = s.nextTag ∧
    (s.offerOptional a n).queues = s.queues ∧ (s.offerOptional a n).hands = s.hands ∧
    (s.offerOptional a n).stagings = s.stagings ∧ (s.offerOptional a n).prescaleCount = s.prescaleCount ∧
    (s.offerOptional a n).periodCount = s.periodCount ∧ (s.offerOptional a n).postscaleCount = s.postscaleCount ∧
    (s.offerOptional a n).ticks = s.ticks ∧ (s.offerOptional a n).passDue = s.passDue ∧
    (s.offerOptional a n).members = s.members ∧ (s.offerOptional a n).snapshots = s.snapshots ∧
    (s.offerOptional a n).table = s.table ∧ (s.offerOptional a n).slot = s.slot ∧
    (s.offerOptional a n).voting = s.voting ∧ (s.offerOptional a n).nextProposal = s.nextProposal ∧
    (s.offerOptional a n).lastProposal = s.lastProposal ∧ (s.offerOptional a n).epoch = s.epoch ∧
    (s.offerOptional a n).frames = s.frames ∧ (s.offerOptional a n).pending = s.pending ∧
    (s.offerOptional a n).choices = s.choices := by
  cases n <;> simp [State.offerOptional]

/-- What offerOptional can touch. -/
theorem State.offerOptional_frame (s : State) (a : Agent) (n : Option Notice) :
    s.offerOptional a n = { s with
      notices := (s.offerOptional a n).notices, latches := (s.offerOptional a n).latches } := by
  apply State.ext_fields <;> simp

/-! ### place -/

@[simp] theorem State.place_untouched (s : State) (a : Agent) (n : Notice) :
    (s.place a n).rstnLow = s.rstnLow ∧ (s.place a n).mem = s.mem ∧ (s.place a n).cellMap = s.cellMap ∧
    (s.place a n).freeList = s.freeList ∧ (s.place a n).scrubQueue = s.scrubQueue ∧
    (s.place a n).engine = s.engine ∧ (s.place a n).clearLeft = s.clearLeft ∧ (s.place a n).used = s.used ∧
    (s.place a n).watches = s.watches ∧ (s.place a n).descs = s.descs ∧ (s.place a n).inUse = s.inUse ∧
    (s.place a n).nextTag = s.nextTag ∧ (s.place a n).queues = s.queues ∧ (s.place a n).hands = s.hands ∧
    (s.place a n).stagings = s.stagings ∧ (s.place a n).prescaleCount = s.prescaleCount ∧
    (s.place a n).periodCount = s.periodCount ∧ (s.place a n).postscaleCount = s.postscaleCount ∧
    (s.place a n).ticks = s.ticks ∧ (s.place a n).passDue = s.passDue ∧ (s.place a n).members = s.members ∧
    (s.place a n).snapshots = s.snapshots ∧ (s.place a n).latches = s.latches ∧ (s.place a n).table = s.table ∧
    (s.place a n).slot = s.slot ∧ (s.place a n).voting = s.voting ∧ (s.place a n).nextProposal = s.nextProposal ∧
    (s.place a n).lastProposal = s.lastProposal ∧ (s.place a n).epoch = s.epoch ∧ (s.place a n).frames = s.frames ∧
    (s.place a n).pending = s.pending ∧ (s.place a n).choices = s.choices := by
  simp [State.place]

/-- What place can touch. -/
theorem State.place_frame (s : State) (a : Agent) (n : Notice) :
    s.place a n = { s with
      notices := (s.place a n).notices } := by
  apply State.ext_fields <;> simp

/-! ### clearNotices -/

@[simp] theorem State.clearNotices_untouched (s : State) (a : Agent) :
    (s.clearNotices a).rstnLow = s.rstnLow ∧ (s.clearNotices a).mem = s.mem ∧
    (s.clearNotices a).cellMap = s.cellMap ∧ (s.clearNotices a).freeList = s.freeList ∧
    (s.clearNotices a).scrubQueue = s.scrubQueue ∧ (s.clearNotices a).engine = s.engine ∧
    (s.clearNotices a).clearLeft = s.clearLeft ∧ (s.clearNotices a).used = s.used ∧
    (s.clearNotices a).watches = s.watches ∧ (s.clearNotices a).descs = s.descs ∧
    (s.clearNotices a).inUse = s.inUse ∧ (s.clearNotices a).nextTag = s.nextTag ∧
    (s.clearNotices a).queues = s.queues ∧ (s.clearNotices a).hands = s.hands ∧
    (s.clearNotices a).stagings = s.stagings ∧ (s.clearNotices a).prescaleCount = s.prescaleCount ∧
    (s.clearNotices a).periodCount = s.periodCount ∧ (s.clearNotices a).postscaleCount = s.postscaleCount ∧
    (s.clearNotices a).ticks = s.ticks ∧ (s.clearNotices a).passDue = s.passDue ∧
    (s.clearNotices a).members = s.members ∧ (s.clearNotices a).snapshots = s.snapshots ∧
    (s.clearNotices a).table = s.table ∧ (s.clearNotices a).slot = s.slot ∧ (s.clearNotices a).voting = s.voting ∧
    (s.clearNotices a).nextProposal = s.nextProposal ∧ (s.clearNotices a).lastProposal = s.lastProposal ∧
    (s.clearNotices a).epoch = s.epoch ∧ (s.clearNotices a).frames = s.frames ∧
    (s.clearNotices a).pending = s.pending ∧ (s.clearNotices a).choices = s.choices := by
  simp [State.clearNotices]

/-- What clearNotices can touch. -/
theorem State.clearNotices_frame (s : State) (a : Agent) :
    s.clearNotices a = { s with
      notices := (s.clearNotices a).notices, latches := (s.clearNotices a).latches } := by
  apply State.ext_fields <;> simp

/-! ### testWatch -/

@[simp] theorem State.testWatch_untouched (s : State) (a : Agent) (k : MsgClass) :
    (s.testWatch a k).rstnLow = s.rstnLow ∧ (s.testWatch a k).mem = s.mem ∧ (s.testWatch a k).cellMap = s.cellMap ∧
    (s.testWatch a k).freeList = s.freeList ∧ (s.testWatch a k).scrubQueue = s.scrubQueue ∧
    (s.testWatch a k).engine = s.engine ∧ (s.testWatch a k).clearLeft = s.clearLeft ∧
    (s.testWatch a k).used = s.used ∧ (s.testWatch a k).descs = s.descs ∧ (s.testWatch a k).inUse = s.inUse ∧
    (s.testWatch a k).nextTag = s.nextTag ∧ (s.testWatch a k).queues = s.queues ∧
    (s.testWatch a k).hands = s.hands ∧ (s.testWatch a k).stagings = s.stagings ∧
    (s.testWatch a k).prescaleCount = s.prescaleCount ∧ (s.testWatch a k).periodCount = s.periodCount ∧
    (s.testWatch a k).postscaleCount = s.postscaleCount ∧ (s.testWatch a k).ticks = s.ticks ∧
    (s.testWatch a k).passDue = s.passDue ∧ (s.testWatch a k).members = s.members ∧
    (s.testWatch a k).snapshots = s.snapshots ∧ (s.testWatch a k).table = s.table ∧
    (s.testWatch a k).slot = s.slot ∧ (s.testWatch a k).voting = s.voting ∧
    (s.testWatch a k).nextProposal = s.nextProposal ∧ (s.testWatch a k).lastProposal = s.lastProposal ∧
    (s.testWatch a k).epoch = s.epoch ∧ (s.testWatch a k).frames = s.frames ∧
    (s.testWatch a k).pending = s.pending ∧ (s.testWatch a k).choices = s.choices := by
  unfold State.testWatch; (repeat' split) <;> simp

/-- What testWatch can touch. -/
theorem State.testWatch_frame (s : State) (a : Agent) (k : MsgClass) :
    s.testWatch a k = { s with
      watches := (s.testWatch a k).watches, notices := (s.testWatch a k).notices
      latches := (s.testWatch a k).latches } := by
  apply State.ext_fields <;> simp

/-! ### testWatchesOf -/

@[simp] theorem State.testWatchesOf_untouched (s : State) (a : Agent) :
    (s.testWatchesOf a).rstnLow = s.rstnLow ∧ (s.testWatchesOf a).mem = s.mem ∧
    (s.testWatchesOf a).cellMap = s.cellMap ∧ (s.testWatchesOf a).freeList = s.freeList ∧
    (s.testWatchesOf a).scrubQueue = s.scrubQueue ∧ (s.testWatchesOf a).engine = s.engine ∧
    (s.testWatchesOf a).clearLeft = s.clearLeft ∧ (s.testWatchesOf a).used = s.used ∧
    (s.testWatchesOf a).descs = s.descs ∧ (s.testWatchesOf a).inUse = s.inUse ∧
    (s.testWatchesOf a).nextTag = s.nextTag ∧ (s.testWatchesOf a).queues = s.queues ∧
    (s.testWatchesOf a).hands = s.hands ∧ (s.testWatchesOf a).stagings = s.stagings ∧
    (s.testWatchesOf a).prescaleCount = s.prescaleCount ∧ (s.testWatchesOf a).periodCount = s.periodCount ∧
    (s.testWatchesOf a).postscaleCount = s.postscaleCount ∧ (s.testWatchesOf a).ticks = s.ticks ∧
    (s.testWatchesOf a).passDue = s.passDue ∧ (s.testWatchesOf a).members = s.members ∧
    (s.testWatchesOf a).snapshots = s.snapshots ∧ (s.testWatchesOf a).table = s.table ∧
    (s.testWatchesOf a).slot = s.slot ∧ (s.testWatchesOf a).voting = s.voting ∧
    (s.testWatchesOf a).nextProposal = s.nextProposal ∧ (s.testWatchesOf a).lastProposal = s.lastProposal ∧
    (s.testWatchesOf a).epoch = s.epoch ∧ (s.testWatchesOf a).frames = s.frames ∧
    (s.testWatchesOf a).pending = s.pending ∧ (s.testWatchesOf a).choices = s.choices := by
  unfold State.testWatchesOf
  refine ⟨?_, ?_, ?_, ?_, ?_, ?_, ?_, ?_, ?_, ?_, ?_, ?_, ?_, ?_, ?_, ?_, ?_, ?_, ?_, ?_, ?_, ?_, ?_, ?_, ?_, ?_, ?_, ?_, ?_, ?_⟩
  · exact foldl_field (·.rstnLow) _ (fun t x => by simp) classes s
  · exact foldl_field (·.mem) _ (fun t x => by simp) classes s
  · exact foldl_field (·.cellMap) _ (fun t x => by simp) classes s
  · exact foldl_field (·.freeList) _ (fun t x => by simp) classes s
  · exact foldl_field (·.scrubQueue) _ (fun t x => by simp) classes s
  · exact foldl_field (·.engine) _ (fun t x => by simp) classes s
  · exact foldl_field (·.clearLeft) _ (fun t x => by simp) classes s
  · exact foldl_field (·.used) _ (fun t x => by simp) classes s
  · exact foldl_field (·.descs) _ (fun t x => by simp) classes s
  · exact foldl_field (·.inUse) _ (fun t x => by simp) classes s
  · exact foldl_field (·.nextTag) _ (fun t x => by simp) classes s
  · exact foldl_field (·.queues) _ (fun t x => by simp) classes s
  · exact foldl_field (·.hands) _ (fun t x => by simp) classes s
  · exact foldl_field (·.stagings) _ (fun t x => by simp) classes s
  · exact foldl_field (·.prescaleCount) _ (fun t x => by simp) classes s
  · exact foldl_field (·.periodCount) _ (fun t x => by simp) classes s
  · exact foldl_field (·.postscaleCount) _ (fun t x => by simp) classes s
  · exact foldl_field (·.ticks) _ (fun t x => by simp) classes s
  · exact foldl_field (·.passDue) _ (fun t x => by simp) classes s
  · exact foldl_field (·.members) _ (fun t x => by simp) classes s
  · exact foldl_field (·.snapshots) _ (fun t x => by simp) classes s
  · exact foldl_field (·.table) _ (fun t x => by simp) classes s
  · exact foldl_field (·.slot) _ (fun t x => by simp) classes s
  · exact foldl_field (·.voting) _ (fun t x => by simp) classes s
  · exact foldl_field (·.nextProposal) _ (fun t x => by simp) classes s
  · exact foldl_field (·.lastProposal) _ (fun t x => by simp) classes s
  · exact foldl_field (·.epoch) _ (fun t x => by simp) classes s
  · exact foldl_field (·.frames) _ (fun t x => by simp) classes s
  · exact foldl_field (·.pending) _ (fun t x => by simp) classes s
  · exact foldl_field (·.choices) _ (fun t x => by simp) classes s

/-- What testWatchesOf can touch. -/
theorem State.testWatchesOf_frame (s : State) (a : Agent) :
    s.testWatchesOf a = { s with
      watches := (s.testWatchesOf a).watches, notices := (s.testWatchesOf a).notices
      latches := (s.testWatchesOf a).latches } := by
  apply State.ext_fields <;> simp

/-! ### evaluateWatches -/

@[simp] theorem State.evaluateWatches_untouched (s : State) :
    s.evaluateWatches.rstnLow = s.rstnLow ∧ s.evaluateWatches.mem = s.mem ∧ s.evaluateWatches.cellMap = s.cellMap ∧
    s.evaluateWatches.freeList = s.freeList ∧ s.evaluateWatches.scrubQueue = s.scrubQueue ∧
    s.evaluateWatches.engine = s.engine ∧ s.evaluateWatches.clearLeft = s.clearLeft ∧
    s.evaluateWatches.used = s.used ∧ s.evaluateWatches.descs = s.descs ∧ s.evaluateWatches.inUse = s.inUse ∧
    s.evaluateWatches.nextTag = s.nextTag ∧ s.evaluateWatches.queues = s.queues ∧
    s.evaluateWatches.hands = s.hands ∧ s.evaluateWatches.stagings = s.stagings ∧
    s.evaluateWatches.prescaleCount = s.prescaleCount ∧ s.evaluateWatches.periodCount = s.periodCount ∧
    s.evaluateWatches.postscaleCount = s.postscaleCount ∧ s.evaluateWatches.ticks = s.ticks ∧
    s.evaluateWatches.passDue = s.passDue ∧ s.evaluateWatches.members = s.members ∧
    s.evaluateWatches.snapshots = s.snapshots ∧ s.evaluateWatches.table = s.table ∧
    s.evaluateWatches.slot = s.slot ∧ s.evaluateWatches.voting = s.voting ∧
    s.evaluateWatches.nextProposal = s.nextProposal ∧ s.evaluateWatches.lastProposal = s.lastProposal ∧
    s.evaluateWatches.epoch = s.epoch ∧ s.evaluateWatches.frames = s.frames ∧
    s.evaluateWatches.pending = s.pending ∧ s.evaluateWatches.choices = s.choices := by
  unfold State.evaluateWatches
  refine ⟨?_, ?_, ?_, ?_, ?_, ?_, ?_, ?_, ?_, ?_, ?_, ?_, ?_, ?_, ?_, ?_, ?_, ?_, ?_, ?_, ?_, ?_, ?_, ?_, ?_, ?_, ?_, ?_, ?_, ?_⟩
  · exact foldl_field (·.rstnLow) _ (fun t x => by simp) agents s
  · exact foldl_field (·.mem) _ (fun t x => by simp) agents s
  · exact foldl_field (·.cellMap) _ (fun t x => by simp) agents s
  · exact foldl_field (·.freeList) _ (fun t x => by simp) agents s
  · exact foldl_field (·.scrubQueue) _ (fun t x => by simp) agents s
  · exact foldl_field (·.engine) _ (fun t x => by simp) agents s
  · exact foldl_field (·.clearLeft) _ (fun t x => by simp) agents s
  · exact foldl_field (·.used) _ (fun t x => by simp) agents s
  · exact foldl_field (·.descs) _ (fun t x => by simp) agents s
  · exact foldl_field (·.inUse) _ (fun t x => by simp) agents s
  · exact foldl_field (·.nextTag) _ (fun t x => by simp) agents s
  · exact foldl_field (·.queues) _ (fun t x => by simp) agents s
  · exact foldl_field (·.hands) _ (fun t x => by simp) agents s
  · exact foldl_field (·.stagings) _ (fun t x => by simp) agents s
  · exact foldl_field (·.prescaleCount) _ (fun t x => by simp) agents s
  · exact foldl_field (·.periodCount) _ (fun t x => by simp) agents s
  · exact foldl_field (·.postscaleCount) _ (fun t x => by simp) agents s
  · exact foldl_field (·.ticks) _ (fun t x => by simp) agents s
  · exact foldl_field (·.passDue) _ (fun t x => by simp) agents s
  · exact foldl_field (·.members) _ (fun t x => by simp) agents s
  · exact foldl_field (·.snapshots) _ (fun t x => by simp) agents s
  · exact foldl_field (·.table) _ (fun t x => by simp) agents s
  · exact foldl_field (·.slot) _ (fun t x => by simp) agents s
  · exact foldl_field (·.voting) _ (fun t x => by simp) agents s
  · exact foldl_field (·.nextProposal) _ (fun t x => by simp) agents s
  · exact foldl_field (·.lastProposal) _ (fun t x => by simp) agents s
  · exact foldl_field (·.epoch) _ (fun t x => by simp) agents s
  · exact foldl_field (·.frames) _ (fun t x => by simp) agents s
  · exact foldl_field (·.pending) _ (fun t x => by simp) agents s
  · exact foldl_field (·.choices) _ (fun t x => by simp) agents s

/-- What evaluateWatches can touch. -/
theorem State.evaluateWatches_frame (s : State) :
    s.evaluateWatches = { s with
      watches := s.evaluateWatches.watches, notices := s.evaluateWatches.notices
      latches := s.evaluateWatches.latches } := by
  apply State.ext_fields <;> simp

/-! ### disarm -/

@[simp] theorem State.disarm_untouched (s : State) (a : Agent) :
    (s.disarm a).rstnLow = s.rstnLow ∧ (s.disarm a).mem = s.mem ∧ (s.disarm a).cellMap = s.cellMap ∧
    (s.disarm a).freeList = s.freeList ∧ (s.disarm a).scrubQueue = s.scrubQueue ∧ (s.disarm a).engine = s.engine ∧
    (s.disarm a).clearLeft = s.clearLeft ∧ (s.disarm a).used = s.used ∧ (s.disarm a).descs = s.descs ∧
    (s.disarm a).inUse = s.inUse ∧ (s.disarm a).nextTag = s.nextTag ∧ (s.disarm a).queues = s.queues ∧
    (s.disarm a).hands = s.hands ∧ (s.disarm a).stagings = s.stagings ∧
    (s.disarm a).prescaleCount = s.prescaleCount ∧ (s.disarm a).periodCount = s.periodCount ∧
    (s.disarm a).postscaleCount = s.postscaleCount ∧ (s.disarm a).ticks = s.ticks ∧
    (s.disarm a).passDue = s.passDue ∧ (s.disarm a).members = s.members ∧ (s.disarm a).notices = s.notices ∧
    (s.disarm a).snapshots = s.snapshots ∧ (s.disarm a).latches = s.latches ∧ (s.disarm a).table = s.table ∧
    (s.disarm a).slot = s.slot ∧ (s.disarm a).voting = s.voting ∧ (s.disarm a).nextProposal = s.nextProposal ∧
    (s.disarm a).lastProposal = s.lastProposal ∧ (s.disarm a).epoch = s.epoch ∧ (s.disarm a).frames = s.frames ∧
    (s.disarm a).pending = s.pending ∧ (s.disarm a).choices = s.choices := by
  simp [State.disarm]

/-- What disarm can touch. -/
theorem State.disarm_frame (s : State) (a : Agent) :
    s.disarm a = { s with
      watches := (s.disarm a).watches } := by
  apply State.ext_fields <;> simp

/-! ### applyTable -/

@[simp] theorem State.applyTable_untouched (s : State) (t : Table) :
    (s.applyTable t).rstnLow = s.rstnLow ∧ (s.applyTable t).mem = s.mem ∧ (s.applyTable t).cellMap = s.cellMap ∧
    (s.applyTable t).freeList = s.freeList ∧ (s.applyTable t).scrubQueue = s.scrubQueue ∧
    (s.applyTable t).engine = s.engine ∧ (s.applyTable t).clearLeft = s.clearLeft ∧ (s.applyTable t).used = s.used ∧
    (s.applyTable t).descs = s.descs ∧ (s.applyTable t).inUse = s.inUse ∧ (s.applyTable t).nextTag = s.nextTag ∧
    (s.applyTable t).queues = s.queues ∧ (s.applyTable t).hands = s.hands ∧ (s.applyTable t).stagings = s.stagings ∧
    (s.applyTable t).ticks = s.ticks ∧ (s.applyTable t).passDue = s.passDue ∧ (s.applyTable t).members = s.members ∧
    (s.applyTable t).snapshots = s.snapshots ∧ (s.applyTable t).voting = s.voting ∧
    (s.applyTable t).nextProposal = s.nextProposal ∧ (s.applyTable t).lastProposal = s.lastProposal ∧
    (s.applyTable t).frames = s.frames ∧ (s.applyTable t).pending = s.pending ∧ (s.applyTable t).choices = s.choices := by
  unfold State.applyTable; simp

/-- What applyTable can touch. -/
theorem State.applyTable_frame (s : State) (t : Table) :
    s.applyTable t = { s with
      watches := (s.applyTable t).watches, prescaleCount := (s.applyTable t).prescaleCount
      periodCount := (s.applyTable t).periodCount, postscaleCount := (s.applyTable t).postscaleCount
      notices := (s.applyTable t).notices, latches := (s.applyTable t).latches, table := (s.applyTable t).table
      slot := (s.applyTable t).slot, epoch := (s.applyTable t).epoch } := by
  apply State.ext_fields <;> simp

/-! ### runFitTest -/

@[simp] theorem State.runFitTest_untouched (s : State) :
    s.runFitTest.rstnLow = s.rstnLow ∧ s.runFitTest.mem = s.mem ∧ s.runFitTest.cellMap = s.cellMap ∧
    s.runFitTest.freeList = s.freeList ∧ s.runFitTest.scrubQueue = s.scrubQueue ∧ s.runFitTest.engine = s.engine ∧
    s.runFitTest.clearLeft = s.clearLeft ∧ s.runFitTest.used = s.used ∧ s.runFitTest.descs = s.descs ∧
    s.runFitTest.inUse = s.inUse ∧ s.runFitTest.nextTag = s.nextTag ∧ s.runFitTest.queues = s.queues ∧
    s.runFitTest.hands = s.hands ∧ s.runFitTest.stagings = s.stagings ∧ s.runFitTest.ticks = s.ticks ∧
    s.runFitTest.passDue = s.passDue ∧ s.runFitTest.members = s.members ∧ s.runFitTest.snapshots = s.snapshots ∧
    s.runFitTest.voting = s.voting ∧ s.runFitTest.nextProposal = s.nextProposal ∧
    s.runFitTest.lastProposal = s.lastProposal ∧ s.runFitTest.frames = s.frames ∧ s.runFitTest.pending = s.pending ∧
    s.runFitTest.choices = s.choices := by
  unfold State.runFitTest; (repeat' split) <;> simp

/-- What runFitTest can touch. -/
theorem State.runFitTest_frame (s : State) :
    s.runFitTest = { s with
      watches := s.runFitTest.watches, prescaleCount := s.runFitTest.prescaleCount
      periodCount := s.runFitTest.periodCount, postscaleCount := s.runFitTest.postscaleCount
      notices := s.runFitTest.notices, latches := s.runFitTest.latches, table := s.runFitTest.table
      slot := s.runFitTest.slot, epoch := s.runFitTest.epoch } := by
  apply State.ext_fields <;> simp

/-! ### fitThenWatches -/

@[simp] theorem State.fitThenWatches_untouched (s : State) :
    s.fitThenWatches.rstnLow = s.rstnLow ∧ s.fitThenWatches.mem = s.mem ∧ s.fitThenWatches.cellMap = s.cellMap ∧
    s.fitThenWatches.freeList = s.freeList ∧ s.fitThenWatches.scrubQueue = s.scrubQueue ∧
    s.fitThenWatches.engine = s.engine ∧ s.fitThenWatches.clearLeft = s.clearLeft ∧ s.fitThenWatches.used = s.used ∧
    s.fitThenWatches.descs = s.descs ∧ s.fitThenWatches.inUse = s.inUse ∧ s.fitThenWatches.nextTag = s.nextTag ∧
    s.fitThenWatches.queues = s.queues ∧ s.fitThenWatches.hands = s.hands ∧ s.fitThenWatches.stagings = s.stagings ∧
    s.fitThenWatches.ticks = s.ticks ∧ s.fitThenWatches.passDue = s.passDue ∧ s.fitThenWatches.members = s.members ∧
    s.fitThenWatches.snapshots = s.snapshots ∧ s.fitThenWatches.voting = s.voting ∧
    s.fitThenWatches.nextProposal = s.nextProposal ∧ s.fitThenWatches.lastProposal = s.lastProposal ∧
    s.fitThenWatches.frames = s.frames ∧ s.fitThenWatches.pending = s.pending ∧ s.fitThenWatches.choices = s.choices := by
  unfold State.fitThenWatches; (repeat' split) <;> simp

/-- What fitThenWatches can touch. -/
theorem State.fitThenWatches_frame (s : State) :
    s.fitThenWatches = { s with
      watches := s.fitThenWatches.watches, prescaleCount := s.fitThenWatches.prescaleCount
      periodCount := s.fitThenWatches.periodCount, postscaleCount := s.fitThenWatches.postscaleCount
      notices := s.fitThenWatches.notices, latches := s.fitThenWatches.latches, table := s.fitThenWatches.table
      slot := s.fitThenWatches.slot, epoch := s.fitThenWatches.epoch } := by
  apply State.ext_fields <;> simp

/-! ### commit -/

@[simp] theorem State.commit_untouched (s : State) (t : Table) (n : Byte) :
    (s.commit t n).rstnLow = s.rstnLow ∧ (s.commit t n).mem = s.mem ∧ (s.commit t n).cellMap = s.cellMap ∧
    (s.commit t n).freeList = s.freeList ∧ (s.commit t n).scrubQueue = s.scrubQueue ∧
    (s.commit t n).engine = s.engine ∧ (s.commit t n).clearLeft = s.clearLeft ∧ (s.commit t n).used = s.used ∧
    (s.commit t n).descs = s.descs ∧ (s.commit t n).inUse = s.inUse ∧ (s.commit t n).nextTag = s.nextTag ∧
    (s.commit t n).queues = s.queues ∧ (s.commit t n).hands = s.hands ∧ (s.commit t n).stagings = s.stagings ∧
    (s.commit t n).ticks = s.ticks ∧ (s.commit t n).passDue = s.passDue ∧ (s.commit t n).members = s.members ∧
    (s.commit t n).snapshots = s.snapshots ∧ (s.commit t n).voting = s.voting ∧
    (s.commit t n).nextProposal = s.nextProposal ∧ (s.commit t n).lastProposal = s.lastProposal ∧
    (s.commit t n).frames = s.frames ∧ (s.commit t n).pending = s.pending ∧ (s.commit t n).choices = s.choices := by
  unfold State.commit; simp

/-- What commit can touch. -/
theorem State.commit_frame (s : State) (t : Table) (n : Byte) :
    s.commit t n = { s with
      watches := (s.commit t n).watches, prescaleCount := (s.commit t n).prescaleCount
      periodCount := (s.commit t n).periodCount, postscaleCount := (s.commit t n).postscaleCount
      notices := (s.commit t n).notices, latches := (s.commit t n).latches, table := (s.commit t n).table
      slot := (s.commit t n).slot, epoch := (s.commit t n).epoch } := by
  apply State.ext_fields <;> simp

/-! ### respondOnly -/

@[simp] theorem State.respondOnly_untouched (s : State) (p : Agent) (code : Byte) (len : Nat) (r : Result) (data : List Byte) :
    (s.respondOnly p code len r data).rstnLow = s.rstnLow ∧ (s.respondOnly p code len r data).mem = s.mem ∧
    (s.respondOnly p code len r data).cellMap = s.cellMap ∧
    (s.respondOnly p code len r data).freeList = s.freeList ∧
    (s.respondOnly p code len r data).scrubQueue = s.scrubQueue ∧
    (s.respondOnly p code len r data).engine = s.engine ∧
    (s.respondOnly p code len r data).clearLeft = s.clearLeft ∧ (s.respondOnly p code len r data).used = s.used ∧
    (s.respondOnly p code len r data).watches = s.watches ∧ (s.respondOnly p code len r data).descs = s.descs ∧
    (s.respondOnly p code len r data).inUse = s.inUse ∧ (s.respondOnly p code len r data).nextTag = s.nextTag ∧
    (s.respondOnly p code len r data).queues = s.queues ∧ (s.respondOnly p code len r data).hands = s.hands ∧
    (s.respondOnly p code len r data).stagings = s.stagings ∧
    (s.respondOnly p code len r data).prescaleCount = s.prescaleCount ∧
    (s.respondOnly p code len r data).periodCount = s.periodCount ∧
    (s.respondOnly p code len r data).postscaleCount = s.postscaleCount ∧
    (s.respondOnly p code len r data).ticks = s.ticks ∧ (s.respondOnly p code len r data).passDue = s.passDue ∧
    (s.respondOnly p code len r data).members = s.members ∧ (s.respondOnly p code len r data).notices = s.notices ∧
    (s.respondOnly p code len r data).snapshots = s.snapshots ∧
    (s.respondOnly p code len r data).latches = s.latches ∧ (s.respondOnly p code len r data).table = s.table ∧
    (s.respondOnly p code len r data).slot = s.slot ∧ (s.respondOnly p code len r data).voting = s.voting ∧
    (s.respondOnly p code len r data).nextProposal = s.nextProposal ∧
    (s.respondOnly p code len r data).lastProposal = s.lastProposal ∧
    (s.respondOnly p code len r data).epoch = s.epoch ∧ (s.respondOnly p code len r data).pending = s.pending ∧
    (s.respondOnly p code len r data).choices = s.choices := by
  simp [State.respondOnly]

/-- What respondOnly can touch. -/
theorem State.respondOnly_frame (s : State) (p : Agent) (code : Byte) (len : Nat) (r : Result) (data : List Byte) :
    s.respondOnly p code len r data = { s with
      frames := (s.respondOnly p code len r data).frames } := by
  apply State.ext_fields <;> simp

/-! ### record -/

@[simp] theorem State.record_untouched (s : State) (p : Agent) (code : Byte) (r : Result) (tag : Option Half) :
    (s.record p code r tag).rstnLow = s.rstnLow ∧ (s.record p code r tag).mem = s.mem ∧
    (s.record p code r tag).cellMap = s.cellMap ∧ (s.record p code r tag).freeList = s.freeList ∧
    (s.record p code r tag).scrubQueue = s.scrubQueue ∧ (s.record p code r tag).engine = s.engine ∧
    (s.record p code r tag).clearLeft = s.clearLeft ∧ (s.record p code r tag).used = s.used ∧
    (s.record p code r tag).watches = s.watches ∧ (s.record p code r tag).descs = s.descs ∧
    (s.record p code r tag).inUse = s.inUse ∧ (s.record p code r tag).nextTag = s.nextTag ∧
    (s.record p code r tag).queues = s.queues ∧ (s.record p code r tag).hands = s.hands ∧
    (s.record p code r tag).stagings = s.stagings ∧ (s.record p code r tag).prescaleCount = s.prescaleCount ∧
    (s.record p code r tag).periodCount = s.periodCount ∧
    (s.record p code r tag).postscaleCount = s.postscaleCount ∧ (s.record p code r tag).ticks = s.ticks ∧
    (s.record p code r tag).passDue = s.passDue ∧ (s.record p code r tag).members = s.members ∧
    (s.record p code r tag).notices = s.notices ∧ (s.record p code r tag).snapshots = s.snapshots ∧
    (s.record p code r tag).latches = s.latches ∧ (s.record p code r tag).table = s.table ∧
    (s.record p code r tag).slot = s.slot ∧ (s.record p code r tag).voting = s.voting ∧
    (s.record p code r tag).nextProposal = s.nextProposal ∧ (s.record p code r tag).lastProposal = s.lastProposal ∧
    (s.record p code r tag).epoch = s.epoch ∧ (s.record p code r tag).pending = s.pending ∧
    (s.record p code r tag).choices = s.choices := by
  simp [State.record]

/-- What record can touch. -/
theorem State.record_frame (s : State) (p : Agent) (code : Byte) (r : Result) (tag : Option Half) :
    s.record p code r tag = { s with
      frames := (s.record p code r tag).frames } := by
  apply State.ext_fields <;> simp

/-! ### respond -/

@[simp] theorem State.respond_untouched (s : State) (p : Agent) (code : Byte) (len : Nat) (r : Result) (data : List Byte) (tag : Option Half) :
    (s.respond p code len r data tag).rstnLow = s.rstnLow ∧ (s.respond p code len r data tag).mem = s.mem ∧
    (s.respond p code len r data tag).cellMap = s.cellMap ∧
    (s.respond p code len r data tag).freeList = s.freeList ∧
    (s.respond p code len r data tag).scrubQueue = s.scrubQueue ∧
    (s.respond p code len r data tag).engine = s.engine ∧
    (s.respond p code len r data tag).clearLeft = s.clearLeft ∧ (s.respond p code len r data tag).used = s.used ∧
    (s.respond p code len r data tag).watches = s.watches ∧ (s.respond p code len r data tag).descs = s.descs ∧
    (s.respond p code len r data tag).inUse = s.inUse ∧ (s.respond p code len r data tag).nextTag = s.nextTag ∧
    (s.respond p code len r data tag).queues = s.queues ∧ (s.respond p code len r data tag).hands = s.hands ∧
    (s.respond p code len r data tag).stagings = s.stagings ∧
    (s.respond p code len r data tag).prescaleCount = s.prescaleCount ∧
    (s.respond p code len r data tag).periodCount = s.periodCount ∧
    (s.respond p code len r data tag).postscaleCount = s.postscaleCount ∧
    (s.respond p code len r data tag).ticks = s.ticks ∧ (s.respond p code len r data tag).passDue = s.passDue ∧
    (s.respond p code len r data tag).members = s.members ∧ (s.respond p code len r data tag).notices = s.notices ∧
    (s.respond p code len r data tag).snapshots = s.snapshots ∧
    (s.respond p code len r data tag).latches = s.latches ∧ (s.respond p code len r data tag).table = s.table ∧
    (s.respond p code len r data tag).slot = s.slot ∧ (s.respond p code len r data tag).voting = s.voting ∧
    (s.respond p code len r data tag).nextProposal = s.nextProposal ∧
    (s.respond p code len r data tag).lastProposal = s.lastProposal ∧
    (s.respond p code len r data tag).epoch = s.epoch ∧ (s.respond p code len r data tag).pending = s.pending ∧
    (s.respond p code len r data tag).choices = s.choices := by
  simp [State.respond]

/-- What respond can touch. -/
theorem State.respond_frame (s : State) (p : Agent) (code : Byte) (len : Nat) (r : Result) (data : List Byte) (tag : Option Half) :
    s.respond p code len r data tag = { s with
      frames := (s.respond p code len r data tag).frames } := by
  apply State.ext_fields <;> simp

/-! ### skipRest -/

@[simp] theorem State.skipRest_untouched (s : State) (a : Agent) (bits : Nat) :
    (s.skipRest a bits).rstnLow = s.rstnLow ∧ (s.skipRest a bits).mem = s.mem ∧
    (s.skipRest a bits).cellMap = s.cellMap ∧ (s.skipRest a bits).freeList = s.freeList ∧
    (s.skipRest a bits).scrubQueue = s.scrubQueue ∧ (s.skipRest a bits).engine = s.engine ∧
    (s.skipRest a bits).clearLeft = s.clearLeft ∧ (s.skipRest a bits).used = s.used ∧
    (s.skipRest a bits).watches = s.watches ∧ (s.skipRest a bits).descs = s.descs ∧
    (s.skipRest a bits).inUse = s.inUse ∧ (s.skipRest a bits).nextTag = s.nextTag ∧
    (s.skipRest a bits).queues = s.queues ∧ (s.skipRest a bits).hands = s.hands ∧
    (s.skipRest a bits).stagings = s.stagings ∧ (s.skipRest a bits).prescaleCount = s.prescaleCount ∧
    (s.skipRest a bits).periodCount = s.periodCount ∧ (s.skipRest a bits).postscaleCount = s.postscaleCount ∧
    (s.skipRest a bits).ticks = s.ticks ∧ (s.skipRest a bits).passDue = s.passDue ∧
    (s.skipRest a bits).members = s.members ∧ (s.skipRest a bits).notices = s.notices ∧
    (s.skipRest a bits).snapshots = s.snapshots ∧ (s.skipRest a bits).latches = s.latches ∧
    (s.skipRest a bits).table = s.table ∧ (s.skipRest a bits).slot = s.slot ∧
    (s.skipRest a bits).voting = s.voting ∧ (s.skipRest a bits).nextProposal = s.nextProposal ∧
    (s.skipRest a bits).lastProposal = s.lastProposal ∧ (s.skipRest a bits).epoch = s.epoch ∧
    (s.skipRest a bits).pending = s.pending ∧ (s.skipRest a bits).choices = s.choices := by
  simp [State.skipRest]

/-- What skipRest can touch. -/
theorem State.skipRest_frame (s : State) (a : Agent) (bits : Nat) :
    s.skipRest a bits = { s with
      frames := (s.skipRest a bits).frames } := by
  apply State.ext_fields <;> simp

/-! ### zeroFill -/

@[simp] theorem State.zeroFill_untouched (s : State) (p : Agent) :
    (s.zeroFill p).rstnLow = s.rstnLow ∧ (s.zeroFill p).mem = s.mem ∧ (s.zeroFill p).cellMap = s.cellMap ∧
    (s.zeroFill p).freeList = s.freeList ∧ (s.zeroFill p).scrubQueue = s.scrubQueue ∧
    (s.zeroFill p).engine = s.engine ∧ (s.zeroFill p).clearLeft = s.clearLeft ∧ (s.zeroFill p).used = s.used ∧
    (s.zeroFill p).watches = s.watches ∧ (s.zeroFill p).descs = s.descs ∧ (s.zeroFill p).inUse = s.inUse ∧
    (s.zeroFill p).nextTag = s.nextTag ∧ (s.zeroFill p).queues = s.queues ∧ (s.zeroFill p).hands = s.hands ∧
    (s.zeroFill p).stagings = s.stagings ∧ (s.zeroFill p).prescaleCount = s.prescaleCount ∧
    (s.zeroFill p).periodCount = s.periodCount ∧ (s.zeroFill p).postscaleCount = s.postscaleCount ∧
    (s.zeroFill p).ticks = s.ticks ∧ (s.zeroFill p).passDue = s.passDue ∧ (s.zeroFill p).members = s.members ∧
    (s.zeroFill p).notices = s.notices ∧ (s.zeroFill p).snapshots = s.snapshots ∧
    (s.zeroFill p).latches = s.latches ∧ (s.zeroFill p).table = s.table ∧ (s.zeroFill p).slot = s.slot ∧
    (s.zeroFill p).voting = s.voting ∧ (s.zeroFill p).nextProposal = s.nextProposal ∧
    (s.zeroFill p).lastProposal = s.lastProposal ∧ (s.zeroFill p).epoch = s.epoch ∧
    (s.zeroFill p).pending = s.pending ∧ (s.zeroFill p).choices = s.choices := by
  unfold State.zeroFill; (repeat' split) <;> simp

/-- What zeroFill can touch. -/
theorem State.zeroFill_frame (s : State) (p : Agent) :
    s.zeroFill p = { s with
      frames := (s.zeroFill p).frames } := by
  apply State.ext_fields <;> simp

/-! ### zeroFillReadout -/

@[simp] theorem State.zeroFillReadout_untouched (s : State) (p : Agent) :
    (s.zeroFillReadout p).rstnLow = s.rstnLow ∧ (s.zeroFillReadout p).mem = s.mem ∧
    (s.zeroFillReadout p).cellMap = s.cellMap ∧ (s.zeroFillReadout p).freeList = s.freeList ∧
    (s.zeroFillReadout p).scrubQueue = s.scrubQueue ∧ (s.zeroFillReadout p).engine = s.engine ∧
    (s.zeroFillReadout p).clearLeft = s.clearLeft ∧ (s.zeroFillReadout p).used = s.used ∧
    (s.zeroFillReadout p).watches = s.watches ∧ (s.zeroFillReadout p).descs = s.descs ∧
    (s.zeroFillReadout p).inUse = s.inUse ∧ (s.zeroFillReadout p).nextTag = s.nextTag ∧
    (s.zeroFillReadout p).queues = s.queues ∧ (s.zeroFillReadout p).hands = s.hands ∧
    (s.zeroFillReadout p).stagings = s.stagings ∧ (s.zeroFillReadout p).prescaleCount = s.prescaleCount ∧
    (s.zeroFillReadout p).periodCount = s.periodCount ∧ (s.zeroFillReadout p).postscaleCount = s.postscaleCount ∧
    (s.zeroFillReadout p).ticks = s.ticks ∧ (s.zeroFillReadout p).passDue = s.passDue ∧
    (s.zeroFillReadout p).members = s.members ∧ (s.zeroFillReadout p).notices = s.notices ∧
    (s.zeroFillReadout p).snapshots = s.snapshots ∧ (s.zeroFillReadout p).latches = s.latches ∧
    (s.zeroFillReadout p).table = s.table ∧ (s.zeroFillReadout p).slot = s.slot ∧
    (s.zeroFillReadout p).voting = s.voting ∧ (s.zeroFillReadout p).nextProposal = s.nextProposal ∧
    (s.zeroFillReadout p).lastProposal = s.lastProposal ∧ (s.zeroFillReadout p).epoch = s.epoch ∧
    (s.zeroFillReadout p).pending = s.pending ∧ (s.zeroFillReadout p).choices = s.choices := by
  unfold State.zeroFillReadout; (repeat' split) <;> simp

/-- What zeroFillReadout can touch. -/
theorem State.zeroFillReadout_frame (s : State) (p : Agent) :
    s.zeroFillReadout p = { s with
      frames := (s.zeroFillReadout p).frames } := by
  apply State.ext_fields <;> simp

/-! ### goOffline -/

@[simp] theorem State.goOffline_untouched (s : State) (a : Agent) :
    (s.goOffline a).rstnLow = s.rstnLow ∧ (s.goOffline a).mem = s.mem ∧ (s.goOffline a).cellMap = s.cellMap ∧
    (s.goOffline a).freeList = s.freeList ∧ (s.goOffline a).scrubQueue = s.scrubQueue ∧
    (s.goOffline a).engine = s.engine ∧ (s.goOffline a).clearLeft = s.clearLeft ∧ (s.goOffline a).used = s.used ∧
    (s.goOffline a).descs = s.descs ∧ (s.goOffline a).inUse = s.inUse ∧ (s.goOffline a).nextTag = s.nextTag ∧
    (s.goOffline a).queues = s.queues ∧ (s.goOffline a).hands = s.hands ∧ (s.goOffline a).stagings = s.stagings ∧
    (s.goOffline a).prescaleCount = s.prescaleCount ∧ (s.goOffline a).periodCount = s.periodCount ∧
    (s.goOffline a).postscaleCount = s.postscaleCount ∧ (s.goOffline a).ticks = s.ticks ∧
    (s.goOffline a).passDue = s.passDue ∧ (s.goOffline a).table = s.table ∧ (s.goOffline a).slot = s.slot ∧
    (s.goOffline a).voting = s.voting ∧ (s.goOffline a).nextProposal = s.nextProposal ∧
    (s.goOffline a).lastProposal = s.lastProposal ∧ (s.goOffline a).epoch = s.epoch ∧
    (s.goOffline a).pending = s.pending ∧ (s.goOffline a).choices = s.choices := by
  unfold State.goOffline; simp

/-- What goOffline can touch. -/
theorem State.goOffline_frame (s : State) (a : Agent) :
    s.goOffline a = { s with
      watches := (s.goOffline a).watches, members := (s.goOffline a).members, notices := (s.goOffline a).notices
      snapshots := (s.goOffline a).snapshots, latches := (s.goOffline a).latches, frames := (s.goOffline a).frames } := by
  apply State.ext_fields <;> simp

/-! ### drainTest -/

@[simp] theorem State.drainTest_untouched (s : State) (a : Agent) :
    (s.drainTest a).rstnLow = s.rstnLow ∧ (s.drainTest a).mem = s.mem ∧ (s.drainTest a).cellMap = s.cellMap ∧
    (s.drainTest a).freeList = s.freeList ∧ (s.drainTest a).scrubQueue = s.scrubQueue ∧
    (s.drainTest a).engine = s.engine ∧ (s.drainTest a).clearLeft = s.clearLeft ∧ (s.drainTest a).used = s.used ∧
    (s.drainTest a).descs = s.descs ∧ (s.drainTest a).inUse = s.inUse ∧ (s.drainTest a).nextTag = s.nextTag ∧
    (s.drainTest a).queues = s.queues ∧ (s.drainTest a).hands = s.hands ∧ (s.drainTest a).stagings = s.stagings ∧
    (s.drainTest a).prescaleCount = s.prescaleCount ∧ (s.drainTest a).periodCount = s.periodCount ∧
    (s.drainTest a).postscaleCount = s.postscaleCount ∧ (s.drainTest a).ticks = s.ticks ∧
    (s.drainTest a).passDue = s.passDue ∧ (s.drainTest a).table = s.table ∧ (s.drainTest a).slot = s.slot ∧
    (s.drainTest a).voting = s.voting ∧ (s.drainTest a).nextProposal = s.nextProposal ∧
    (s.drainTest a).lastProposal = s.lastProposal ∧ (s.drainTest a).epoch = s.epoch ∧
    (s.drainTest a).pending = s.pending ∧ (s.drainTest a).choices = s.choices := by
  unfold State.drainTest; (repeat' split) <;> simp

/-- What drainTest can touch. -/
theorem State.drainTest_frame (s : State) (a : Agent) :
    s.drainTest a = { s with
      watches := (s.drainTest a).watches, members := (s.drainTest a).members, notices := (s.drainTest a).notices
      snapshots := (s.drainTest a).snapshots, latches := (s.drainTest a).latches, frames := (s.drainTest a).frames } := by
  apply State.ext_fields <;> simp

/-! ### startScrub -/

@[simp] theorem State.startScrub_untouched (s : State) :
    s.startScrub.rstnLow = s.rstnLow ∧ s.startScrub.mem = s.mem ∧ s.startScrub.cellMap = s.cellMap ∧
    s.startScrub.freeList = s.freeList ∧ s.startScrub.scrubQueue = s.scrubQueue ∧ s.startScrub.used = s.used ∧
    s.startScrub.watches = s.watches ∧ s.startScrub.descs = s.descs ∧ s.startScrub.inUse = s.inUse ∧
    s.startScrub.nextTag = s.nextTag ∧ s.startScrub.queues = s.queues ∧ s.startScrub.hands = s.hands ∧
    s.startScrub.stagings = s.stagings ∧ s.startScrub.prescaleCount = s.prescaleCount ∧
    s.startScrub.periodCount = s.periodCount ∧ s.startScrub.postscaleCount = s.postscaleCount ∧
    s.startScrub.ticks = s.ticks ∧ s.startScrub.passDue = s.passDue ∧ s.startScrub.members = s.members ∧
    s.startScrub.notices = s.notices ∧ s.startScrub.snapshots = s.snapshots ∧ s.startScrub.latches = s.latches ∧
    s.startScrub.table = s.table ∧ s.startScrub.slot = s.slot ∧ s.startScrub.voting = s.voting ∧
    s.startScrub.nextProposal = s.nextProposal ∧ s.startScrub.lastProposal = s.lastProposal ∧
    s.startScrub.epoch = s.epoch ∧ s.startScrub.frames = s.frames ∧ s.startScrub.pending = s.pending ∧
    s.startScrub.choices = s.choices := by
  unfold State.startScrub; (repeat' split) <;> simp

/-- What startScrub can touch. -/
theorem State.startScrub_frame (s : State) :
    s.startScrub = { s with
      engine := s.startScrub.engine, clearLeft := s.startScrub.clearLeft } := by
  apply State.ext_fields <;> simp

/-! ### scrubCells -/

@[simp] theorem State.scrubCells_untouched (s : State) (cells : List CellId) :
    (s.scrubCells cells).rstnLow = s.rstnLow ∧ (s.scrubCells cells).mem = s.mem ∧
    (s.scrubCells cells).freeList = s.freeList ∧ (s.scrubCells cells).used = s.used ∧
    (s.scrubCells cells).watches = s.watches ∧ (s.scrubCells cells).descs = s.descs ∧
    (s.scrubCells cells).inUse = s.inUse ∧ (s.scrubCells cells).nextTag = s.nextTag ∧
    (s.scrubCells cells).queues = s.queues ∧ (s.scrubCells cells).hands = s.hands ∧
    (s.scrubCells cells).stagings = s.stagings ∧ (s.scrubCells cells).prescaleCount = s.prescaleCount ∧
    (s.scrubCells cells).periodCount = s.periodCount ∧ (s.scrubCells cells).postscaleCount = s.postscaleCount ∧
    (s.scrubCells cells).ticks = s.ticks ∧ (s.scrubCells cells).passDue = s.passDue ∧
    (s.scrubCells cells).members = s.members ∧ (s.scrubCells cells).notices = s.notices ∧
    (s.scrubCells cells).snapshots = s.snapshots ∧ (s.scrubCells cells).latches = s.latches ∧
    (s.scrubCells cells).table = s.table ∧ (s.scrubCells cells).slot = s.slot ∧
    (s.scrubCells cells).voting = s.voting ∧ (s.scrubCells cells).nextProposal = s.nextProposal ∧
    (s.scrubCells cells).lastProposal = s.lastProposal ∧ (s.scrubCells cells).epoch = s.epoch ∧
    (s.scrubCells cells).frames = s.frames ∧ (s.scrubCells cells).pending = s.pending ∧
    (s.scrubCells cells).choices = s.choices := by
  unfold State.scrubCells; simp only [State.startScrub_untouched]
  refine ⟨?_, ?_, ?_, ?_, ?_, ?_, ?_, ?_, ?_, ?_, ?_, ?_, ?_, ?_, ?_, ?_, ?_, ?_, ?_, ?_, ?_, ?_, ?_, ?_, ?_, ?_, ?_, ?_, ?_⟩
  · exact foldl_field (·.rstnLow) _ (fun t x => by simp) cells s
  · exact foldl_field (·.mem) _ (fun t x => by simp) cells s
  · exact foldl_field (·.freeList) _ (fun t x => by simp) cells s
  · exact foldl_field (·.used) _ (fun t x => by simp) cells s
  · exact foldl_field (·.watches) _ (fun t x => by simp) cells s
  · exact foldl_field (·.descs) _ (fun t x => by simp) cells s
  · exact foldl_field (·.inUse) _ (fun t x => by simp) cells s
  · exact foldl_field (·.nextTag) _ (fun t x => by simp) cells s
  · exact foldl_field (·.queues) _ (fun t x => by simp) cells s
  · exact foldl_field (·.hands) _ (fun t x => by simp) cells s
  · exact foldl_field (·.stagings) _ (fun t x => by simp) cells s
  · exact foldl_field (·.prescaleCount) _ (fun t x => by simp) cells s
  · exact foldl_field (·.periodCount) _ (fun t x => by simp) cells s
  · exact foldl_field (·.postscaleCount) _ (fun t x => by simp) cells s
  · exact foldl_field (·.ticks) _ (fun t x => by simp) cells s
  · exact foldl_field (·.passDue) _ (fun t x => by simp) cells s
  · exact foldl_field (·.members) _ (fun t x => by simp) cells s
  · exact foldl_field (·.notices) _ (fun t x => by simp) cells s
  · exact foldl_field (·.snapshots) _ (fun t x => by simp) cells s
  · exact foldl_field (·.latches) _ (fun t x => by simp) cells s
  · exact foldl_field (·.table) _ (fun t x => by simp) cells s
  · exact foldl_field (·.slot) _ (fun t x => by simp) cells s
  · exact foldl_field (·.voting) _ (fun t x => by simp) cells s
  · exact foldl_field (·.nextProposal) _ (fun t x => by simp) cells s
  · exact foldl_field (·.lastProposal) _ (fun t x => by simp) cells s
  · exact foldl_field (·.epoch) _ (fun t x => by simp) cells s
  · exact foldl_field (·.frames) _ (fun t x => by simp) cells s
  · exact foldl_field (·.pending) _ (fun t x => by simp) cells s
  · exact foldl_field (·.choices) _ (fun t x => by simp) cells s

/-- What scrubCells can touch. -/
theorem State.scrubCells_frame (s : State) (cells : List CellId) :
    s.scrubCells cells = { s with
      cellMap := (s.scrubCells cells).cellMap, scrubQueue := (s.scrubCells cells).scrubQueue
      engine := (s.scrubCells cells).engine, clearLeft := (s.scrubCells cells).clearLeft } := by
  apply State.ext_fields <;> simp

/-! ### dropRecord -/

@[simp] theorem State.dropRecord_untouched (s : State) (d : DescId) (m : Message) :
    (s.dropRecord d m).rstnLow = s.rstnLow ∧ (s.dropRecord d m).mem = s.mem ∧
    (s.dropRecord d m).freeList = s.freeList ∧ (s.dropRecord d m).used = s.used ∧
    (s.dropRecord d m).watches = s.watches ∧ (s.dropRecord d m).nextTag = s.nextTag ∧
    (s.dropRecord d m).queues = s.queues ∧ (s.dropRecord d m).hands = s.hands ∧
    (s.dropRecord d m).stagings = s.stagings ∧ (s.dropRecord d m).prescaleCount = s.prescaleCount ∧
    (s.dropRecord d m).periodCount = s.periodCount ∧ (s.dropRecord d m).postscaleCount = s.postscaleCount ∧
    (s.dropRecord d m).ticks = s.ticks ∧ (s.dropRecord d m).passDue = s.passDue ∧
    (s.dropRecord d m).members = s.members ∧ (s.dropRecord d m).notices = s.notices ∧
    (s.dropRecord d m).snapshots = s.snapshots ∧ (s.dropRecord d m).latches = s.latches ∧
    (s.dropRecord d m).table = s.table ∧ (s.dropRecord d m).slot = s.slot ∧ (s.dropRecord d m).voting = s.voting ∧
    (s.dropRecord d m).nextProposal = s.nextProposal ∧ (s.dropRecord d m).lastProposal = s.lastProposal ∧
    (s.dropRecord d m).epoch = s.epoch ∧ (s.dropRecord d m).frames = s.frames ∧
    (s.dropRecord d m).pending = s.pending ∧ (s.dropRecord d m).choices = s.choices := by
  unfold State.dropRecord; simp

/-- What dropRecord can touch. -/
theorem State.dropRecord_frame (s : State) (d : DescId) (m : Message) :
    s.dropRecord d m = { s with
      cellMap := (s.dropRecord d m).cellMap, scrubQueue := (s.dropRecord d m).scrubQueue
      engine := (s.dropRecord d m).engine, clearLeft := (s.dropRecord d m).clearLeft
      descs := (s.dropRecord d m).descs, inUse := (s.dropRecord d m).inUse } := by
  apply State.ext_fields <;> simp

/-! ### finishRelease -/

@[simp] theorem State.finishRelease_untouched (s : State) (d : DescId) (m : Message) (adm : Admission) (path : RemovalPath) :
    (s.finishRelease d m adm path).rstnLow = s.rstnLow ∧ (s.finishRelease d m adm path).mem = s.mem ∧
    (s.finishRelease d m adm path).freeList = s.freeList ∧ (s.finishRelease d m adm path).used = s.used ∧
    (s.finishRelease d m adm path).nextTag = s.nextTag ∧ (s.finishRelease d m adm path).queues = s.queues ∧
    (s.finishRelease d m adm path).hands = s.hands ∧ (s.finishRelease d m adm path).stagings = s.stagings ∧
    (s.finishRelease d m adm path).ticks = s.ticks ∧ (s.finishRelease d m adm path).passDue = s.passDue ∧
    (s.finishRelease d m adm path).voting = s.voting ∧
    (s.finishRelease d m adm path).nextProposal = s.nextProposal ∧
    (s.finishRelease d m adm path).lastProposal = s.lastProposal ∧
    (s.finishRelease d m adm path).pending = s.pending ∧ (s.finishRelease d m adm path).choices = s.choices := by
  unfold State.finishRelease; simp

/-- What finishRelease can touch. -/
theorem State.finishRelease_frame (s : State) (d : DescId) (m : Message) (adm : Admission) (path : RemovalPath) :
    s.finishRelease d m adm path = { s with
      cellMap := (s.finishRelease d m adm path).cellMap, scrubQueue := (s.finishRelease d m adm path).scrubQueue
      engine := (s.finishRelease d m adm path).engine, clearLeft := (s.finishRelease d m adm path).clearLeft
      watches := (s.finishRelease d m adm path).watches, descs := (s.finishRelease d m adm path).descs
      inUse := (s.finishRelease d m adm path).inUse, prescaleCount := (s.finishRelease d m adm path).prescaleCount
      periodCount := (s.finishRelease d m adm path).periodCount
      postscaleCount := (s.finishRelease d m adm path).postscaleCount
      members := (s.finishRelease d m adm path).members, notices := (s.finishRelease d m adm path).notices
      snapshots := (s.finishRelease d m adm path).snapshots, latches := (s.finishRelease d m adm path).latches
      table := (s.finishRelease d m adm path).table, slot := (s.finishRelease d m adm path).slot
      epoch := (s.finishRelease d m adm path).epoch, frames := (s.finishRelease d m adm path).frames } := by
  apply State.ext_fields <;> simp

/-! ### release -/

@[simp] theorem State.release_untouched (s : State) (d : DescId) (path : RemovalPath) :
    (s.release d path).rstnLow = s.rstnLow ∧ (s.release d path).mem = s.mem ∧
    (s.release d path).freeList = s.freeList ∧ (s.release d path).used = s.used ∧
    (s.release d path).nextTag = s.nextTag ∧ (s.release d path).stagings = s.stagings ∧
    (s.release d path).ticks = s.ticks ∧ (s.release d path).passDue = s.passDue ∧
    (s.release d path).voting = s.voting ∧ (s.release d path).nextProposal = s.nextProposal ∧
    (s.release d path).lastProposal = s.lastProposal ∧ (s.release d path).pending = s.pending ∧
    (s.release d path).choices = s.choices := by
  unfold State.release; (repeat' split) <;> simp

/-- What release can touch. -/
theorem State.release_frame (s : State) (d : DescId) (path : RemovalPath) :
    s.release d path = { s with
      cellMap := (s.release d path).cellMap, scrubQueue := (s.release d path).scrubQueue
      engine := (s.release d path).engine, clearLeft := (s.release d path).clearLeft
      watches := (s.release d path).watches, descs := (s.release d path).descs, inUse := (s.release d path).inUse
      queues := (s.release d path).queues, hands := (s.release d path).hands
      prescaleCount := (s.release d path).prescaleCount, periodCount := (s.release d path).periodCount
      postscaleCount := (s.release d path).postscaleCount, members := (s.release d path).members
      notices := (s.release d path).notices, snapshots := (s.release d path).snapshots
      latches := (s.release d path).latches, table := (s.release d path).table, slot := (s.release d path).slot
      epoch := (s.release d path).epoch, frames := (s.release d path).frames } := by
  apply State.ext_fields <;> simp

/-! ### releaseAll -/

@[simp] theorem State.releaseAll_untouched (s : State) (ds : List DescId) (path : RemovalPath) :
    (s.releaseAll ds path).rstnLow = s.rstnLow ∧ (s.releaseAll ds path).mem = s.mem ∧
    (s.releaseAll ds path).freeList = s.freeList ∧ (s.releaseAll ds path).used = s.used ∧
    (s.releaseAll ds path).nextTag = s.nextTag ∧ (s.releaseAll ds path).stagings = s.stagings ∧
    (s.releaseAll ds path).ticks = s.ticks ∧ (s.releaseAll ds path).passDue = s.passDue ∧
    (s.releaseAll ds path).voting = s.voting ∧ (s.releaseAll ds path).nextProposal = s.nextProposal ∧
    (s.releaseAll ds path).lastProposal = s.lastProposal ∧ (s.releaseAll ds path).pending = s.pending ∧
    (s.releaseAll ds path).choices = s.choices := by
  unfold State.releaseAll
  refine ⟨?_, ?_, ?_, ?_, ?_, ?_, ?_, ?_, ?_, ?_, ?_, ?_, ?_⟩
  · exact foldl_field (·.rstnLow) _ (fun t x => by simp) ds s
  · exact foldl_field (·.mem) _ (fun t x => by simp) ds s
  · exact foldl_field (·.freeList) _ (fun t x => by simp) ds s
  · exact foldl_field (·.used) _ (fun t x => by simp) ds s
  · exact foldl_field (·.nextTag) _ (fun t x => by simp) ds s
  · exact foldl_field (·.stagings) _ (fun t x => by simp) ds s
  · exact foldl_field (·.ticks) _ (fun t x => by simp) ds s
  · exact foldl_field (·.passDue) _ (fun t x => by simp) ds s
  · exact foldl_field (·.voting) _ (fun t x => by simp) ds s
  · exact foldl_field (·.nextProposal) _ (fun t x => by simp) ds s
  · exact foldl_field (·.lastProposal) _ (fun t x => by simp) ds s
  · exact foldl_field (·.pending) _ (fun t x => by simp) ds s
  · exact foldl_field (·.choices) _ (fun t x => by simp) ds s

/-- What releaseAll can touch. -/
theorem State.releaseAll_frame (s : State) (ds : List DescId) (path : RemovalPath) :
    s.releaseAll ds path = { s with
      cellMap := (s.releaseAll ds path).cellMap, scrubQueue := (s.releaseAll ds path).scrubQueue
      engine := (s.releaseAll ds path).engine, clearLeft := (s.releaseAll ds path).clearLeft
      watches := (s.releaseAll ds path).watches, descs := (s.releaseAll ds path).descs
      inUse := (s.releaseAll ds path).inUse, queues := (s.releaseAll ds path).queues
      hands := (s.releaseAll ds path).hands, prescaleCount := (s.releaseAll ds path).prescaleCount
      periodCount := (s.releaseAll ds path).periodCount, postscaleCount := (s.releaseAll ds path).postscaleCount
      members := (s.releaseAll ds path).members, notices := (s.releaseAll ds path).notices
      snapshots := (s.releaseAll ds path).snapshots, latches := (s.releaseAll ds path).latches
      table := (s.releaseAll ds path).table, slot := (s.releaseAll ds path).slot
      epoch := (s.releaseAll ds path).epoch, frames := (s.releaseAll ds path).frames } := by
  apply State.ext_fields <;> simp

/-! ### returnToQueue -/

@[simp] theorem State.returnToQueue_untouched (s : State) (d : DescId) (m : Message) (adm : Admission) :
    (s.returnToQueue d m adm).rstnLow = s.rstnLow ∧ (s.returnToQueue d m adm).mem = s.mem ∧
    (s.returnToQueue d m adm).cellMap = s.cellMap ∧ (s.returnToQueue d m adm).freeList = s.freeList ∧
    (s.returnToQueue d m adm).scrubQueue = s.scrubQueue ∧ (s.returnToQueue d m adm).engine = s.engine ∧
    (s.returnToQueue d m adm).clearLeft = s.clearLeft ∧ (s.returnToQueue d m adm).used = s.used ∧
    (s.returnToQueue d m adm).watches = s.watches ∧ (s.returnToQueue d m adm).inUse = s.inUse ∧
    (s.returnToQueue d m adm).nextTag = s.nextTag ∧ (s.returnToQueue d m adm).stagings = s.stagings ∧
    (s.returnToQueue d m adm).prescaleCount = s.prescaleCount ∧
    (s.returnToQueue d m adm).periodCount = s.periodCount ∧
    (s.returnToQueue d m adm).postscaleCount = s.postscaleCount ∧ (s.returnToQueue d m adm).ticks = s.ticks ∧
    (s.returnToQueue d m adm).passDue = s.passDue ∧ (s.returnToQueue d m adm).members = s.members ∧
    (s.returnToQueue d m adm).notices = s.notices ∧ (s.returnToQueue d m adm).snapshots = s.snapshots ∧
    (s.returnToQueue d m adm).latches = s.latches ∧ (s.returnToQueue d m adm).table = s.table ∧
    (s.returnToQueue d m adm).slot = s.slot ∧ (s.returnToQueue d m adm).voting = s.voting ∧
    (s.returnToQueue d m adm).nextProposal = s.nextProposal ∧
    (s.returnToQueue d m adm).lastProposal = s.lastProposal ∧ (s.returnToQueue d m adm).epoch = s.epoch ∧
    (s.returnToQueue d m adm).frames = s.frames ∧ (s.returnToQueue d m adm).pending = s.pending ∧
    (s.returnToQueue d m adm).choices = s.choices := by
  simp [State.returnToQueue]

/-- What returnToQueue can touch. -/
theorem State.returnToQueue_frame (s : State) (d : DescId) (m : Message) (adm : Admission) :
    s.returnToQueue d m adm = { s with
      descs := (s.returnToQueue d m adm).descs, queues := (s.returnToQueue d m adm).queues
      hands := (s.returnToQueue d m adm).hands } := by
  apply State.ext_fields <;> simp

/-! ### returnOrReject -/

@[simp] theorem State.returnOrReject_untouched (s : State) (d : DescId) (m : Message) (adm : Admission) :
    (s.returnOrReject d m adm).rstnLow = s.rstnLow ∧ (s.returnOrReject d m adm).mem = s.mem ∧
    (s.returnOrReject d m adm).freeList = s.freeList ∧ (s.returnOrReject d m adm).used = s.used ∧
    (s.returnOrReject d m adm).nextTag = s.nextTag ∧ (s.returnOrReject d m adm).stagings = s.stagings ∧
    (s.returnOrReject d m adm).ticks = s.ticks ∧ (s.returnOrReject d m adm).passDue = s.passDue ∧
    (s.returnOrReject d m adm).voting = s.voting ∧ (s.returnOrReject d m adm).nextProposal = s.nextProposal ∧
    (s.returnOrReject d m adm).lastProposal = s.lastProposal ∧ (s.returnOrReject d m adm).pending = s.pending ∧
    (s.returnOrReject d m adm).choices = s.choices := by
  unfold State.returnOrReject; (repeat' split) <;> simp

/-- What returnOrReject can touch. -/
theorem State.returnOrReject_frame (s : State) (d : DescId) (m : Message) (adm : Admission) :
    s.returnOrReject d m adm = { s with
      cellMap := (s.returnOrReject d m adm).cellMap, scrubQueue := (s.returnOrReject d m adm).scrubQueue
      engine := (s.returnOrReject d m adm).engine, clearLeft := (s.returnOrReject d m adm).clearLeft
      watches := (s.returnOrReject d m adm).watches, descs := (s.returnOrReject d m adm).descs
      inUse := (s.returnOrReject d m adm).inUse, queues := (s.returnOrReject d m adm).queues
      hands := (s.returnOrReject d m adm).hands, prescaleCount := (s.returnOrReject d m adm).prescaleCount
      periodCount := (s.returnOrReject d m adm).periodCount
      postscaleCount := (s.returnOrReject d m adm).postscaleCount, members := (s.returnOrReject d m adm).members
      notices := (s.returnOrReject d m adm).notices, snapshots := (s.returnOrReject d m adm).snapshots
      latches := (s.returnOrReject d m adm).latches, table := (s.returnOrReject d m adm).table
      slot := (s.returnOrReject d m adm).slot, epoch := (s.returnOrReject d m adm).epoch
      frames := (s.returnOrReject d m adm).frames } := by
  apply State.ext_fields <;> simp

/-! ### rejoinReturnOf -/

@[simp] theorem State.rejoinReturnOf_untouched (s : State) (a : Agent) (k : MsgClass) :
    (s.rejoinReturnOf a k).rstnLow = s.rstnLow ∧ (s.rejoinReturnOf a k).mem = s.mem ∧
    (s.rejoinReturnOf a k).freeList = s.freeList ∧ (s.rejoinReturnOf a k).used = s.used ∧
    (s.rejoinReturnOf a k).nextTag = s.nextTag ∧ (s.rejoinReturnOf a k).stagings = s.stagings ∧
    (s.rejoinReturnOf a k).ticks = s.ticks ∧ (s.rejoinReturnOf a k).passDue = s.passDue ∧
    (s.rejoinReturnOf a k).voting = s.voting ∧ (s.rejoinReturnOf a k).nextProposal = s.nextProposal ∧
    (s.rejoinReturnOf a k).lastProposal = s.lastProposal ∧ (s.rejoinReturnOf a k).pending = s.pending ∧
    (s.rejoinReturnOf a k).choices = s.choices := by
  unfold State.rejoinReturnOf; (repeat' split) <;> simp

/-- What rejoinReturnOf can touch. -/
theorem State.rejoinReturnOf_frame (s : State) (a : Agent) (k : MsgClass) :
    s.rejoinReturnOf a k = { s with
      cellMap := (s.rejoinReturnOf a k).cellMap, scrubQueue := (s.rejoinReturnOf a k).scrubQueue
      engine := (s.rejoinReturnOf a k).engine, clearLeft := (s.rejoinReturnOf a k).clearLeft
      watches := (s.rejoinReturnOf a k).watches, descs := (s.rejoinReturnOf a k).descs
      inUse := (s.rejoinReturnOf a k).inUse, queues := (s.rejoinReturnOf a k).queues
      hands := (s.rejoinReturnOf a k).hands, prescaleCount := (s.rejoinReturnOf a k).prescaleCount
      periodCount := (s.rejoinReturnOf a k).periodCount, postscaleCount := (s.rejoinReturnOf a k).postscaleCount
      members := (s.rejoinReturnOf a k).members, notices := (s.rejoinReturnOf a k).notices
      snapshots := (s.rejoinReturnOf a k).snapshots, latches := (s.rejoinReturnOf a k).latches
      table := (s.rejoinReturnOf a k).table, slot := (s.rejoinReturnOf a k).slot
      epoch := (s.rejoinReturnOf a k).epoch, frames := (s.rejoinReturnOf a k).frames } := by
  apply State.ext_fields <;> simp

/-! ### rejoinReturn -/

@[simp] theorem State.rejoinReturn_untouched (s : State) (a : Agent) :
    (s.rejoinReturn a).rstnLow = s.rstnLow ∧ (s.rejoinReturn a).mem = s.mem ∧
    (s.rejoinReturn a).freeList = s.freeList ∧ (s.rejoinReturn a).used = s.used ∧
    (s.rejoinReturn a).nextTag = s.nextTag ∧ (s.rejoinReturn a).stagings = s.stagings ∧
    (s.rejoinReturn a).ticks = s.ticks ∧ (s.rejoinReturn a).passDue = s.passDue ∧
    (s.rejoinReturn a).voting = s.voting ∧ (s.rejoinReturn a).nextProposal = s.nextProposal ∧
    (s.rejoinReturn a).lastProposal = s.lastProposal ∧ (s.rejoinReturn a).pending = s.pending ∧
    (s.rejoinReturn a).choices = s.choices := by
  unfold State.rejoinReturn
  refine ⟨?_, ?_, ?_, ?_, ?_, ?_, ?_, ?_, ?_, ?_, ?_, ?_, ?_⟩
  · exact foldl_field (·.rstnLow) _ (fun t x => by simp) classes s
  · exact foldl_field (·.mem) _ (fun t x => by simp) classes s
  · exact foldl_field (·.freeList) _ (fun t x => by simp) classes s
  · exact foldl_field (·.used) _ (fun t x => by simp) classes s
  · exact foldl_field (·.nextTag) _ (fun t x => by simp) classes s
  · exact foldl_field (·.stagings) _ (fun t x => by simp) classes s
  · exact foldl_field (·.ticks) _ (fun t x => by simp) classes s
  · exact foldl_field (·.passDue) _ (fun t x => by simp) classes s
  · exact foldl_field (·.voting) _ (fun t x => by simp) classes s
  · exact foldl_field (·.nextProposal) _ (fun t x => by simp) classes s
  · exact foldl_field (·.lastProposal) _ (fun t x => by simp) classes s
  · exact foldl_field (·.pending) _ (fun t x => by simp) classes s
  · exact foldl_field (·.choices) _ (fun t x => by simp) classes s

/-- What rejoinReturn can touch. -/
theorem State.rejoinReturn_frame (s : State) (a : Agent) :
    s.rejoinReturn a = { s with
      cellMap := (s.rejoinReturn a).cellMap, scrubQueue := (s.rejoinReturn a).scrubQueue
      engine := (s.rejoinReturn a).engine, clearLeft := (s.rejoinReturn a).clearLeft
      watches := (s.rejoinReturn a).watches, descs := (s.rejoinReturn a).descs, inUse := (s.rejoinReturn a).inUse
      queues := (s.rejoinReturn a).queues, hands := (s.rejoinReturn a).hands
      prescaleCount := (s.rejoinReturn a).prescaleCount, periodCount := (s.rejoinReturn a).periodCount
      postscaleCount := (s.rejoinReturn a).postscaleCount, members := (s.rejoinReturn a).members
      notices := (s.rejoinReturn a).notices, snapshots := (s.rejoinReturn a).snapshots
      latches := (s.rejoinReturn a).latches, table := (s.rejoinReturn a).table, slot := (s.rejoinReturn a).slot
      epoch := (s.rejoinReturn a).epoch, frames := (s.rejoinReturn a).frames } := by
  apply State.ext_fields <;> simp

/-! ### endRound -/

@[simp] theorem State.endRound_untouched (s : State) (v : Proposal) (o : RoundOutcome) (vetoer : Option Agent) :
    (s.endRound v o vetoer).rstnLow = s.rstnLow ∧ (s.endRound v o vetoer).mem = s.mem ∧
    (s.endRound v o vetoer).cellMap = s.cellMap ∧ (s.endRound v o vetoer).freeList = s.freeList ∧
    (s.endRound v o vetoer).scrubQueue = s.scrubQueue ∧ (s.endRound v o vetoer).engine = s.engine ∧
    (s.endRound v o vetoer).clearLeft = s.clearLeft ∧ (s.endRound v o vetoer).used = s.used ∧
    (s.endRound v o vetoer).descs = s.descs ∧ (s.endRound v o vetoer).inUse = s.inUse ∧
    (s.endRound v o vetoer).nextTag = s.nextTag ∧ (s.endRound v o vetoer).queues = s.queues ∧
    (s.endRound v o vetoer).hands = s.hands ∧ (s.endRound v o vetoer).stagings = s.stagings ∧
    (s.endRound v o vetoer).ticks = s.ticks ∧ (s.endRound v o vetoer).passDue = s.passDue ∧
    (s.endRound v o vetoer).members = s.members ∧ (s.endRound v o vetoer).snapshots = s.snapshots ∧
    (s.endRound v o vetoer).nextProposal = s.nextProposal ∧ (s.endRound v o vetoer).lastProposal = s.lastProposal ∧
    (s.endRound v o vetoer).frames = s.frames ∧ (s.endRound v o vetoer).pending = s.pending ∧
    (s.endRound v o vetoer).choices = s.choices := by
  unfold State.endRound; (repeat' split) <;> simp

/-- What endRound can touch. -/
theorem State.endRound_frame (s : State) (v : Proposal) (o : RoundOutcome) (vetoer : Option Agent) :
    s.endRound v o vetoer = { s with
      watches := (s.endRound v o vetoer).watches, prescaleCount := (s.endRound v o vetoer).prescaleCount
      periodCount := (s.endRound v o vetoer).periodCount, postscaleCount := (s.endRound v o vetoer).postscaleCount
      notices := (s.endRound v o vetoer).notices, latches := (s.endRound v o vetoer).latches
      table := (s.endRound v o vetoer).table, slot := (s.endRound v o vetoer).slot
      voting := (s.endRound v o vetoer).voting, epoch := (s.endRound v o vetoer).epoch } := by
  apply State.ext_fields <;> simp

/-! ### testConsents -/

@[simp] theorem State.testConsents_untouched (s : State) :
    s.testConsents.rstnLow = s.rstnLow ∧ s.testConsents.mem = s.mem ∧ s.testConsents.cellMap = s.cellMap ∧
    s.testConsents.freeList = s.freeList ∧ s.testConsents.scrubQueue = s.scrubQueue ∧
    s.testConsents.engine = s.engine ∧ s.testConsents.clearLeft = s.clearLeft ∧ s.testConsents.used = s.used ∧
    s.testConsents.descs = s.descs ∧ s.testConsents.inUse = s.inUse ∧ s.testConsents.nextTag = s.nextTag ∧
    s.testConsents.queues = s.queues ∧ s.testConsents.hands = s.hands ∧ s.testConsents.stagings = s.stagings ∧
    s.testConsents.ticks = s.ticks ∧ s.testConsents.passDue = s.passDue ∧ s.testConsents.members = s.members ∧
    s.testConsents.snapshots = s.snapshots ∧ s.testConsents.nextProposal = s.nextProposal ∧
    s.testConsents.lastProposal = s.lastProposal ∧ s.testConsents.frames = s.frames ∧
    s.testConsents.pending = s.pending ∧ s.testConsents.choices = s.choices := by
  unfold State.testConsents; (repeat' split) <;> simp

/-- What testConsents can touch. -/
theorem State.testConsents_frame (s : State) :
    s.testConsents = { s with
      watches := s.testConsents.watches, prescaleCount := s.testConsents.prescaleCount
      periodCount := s.testConsents.periodCount, postscaleCount := s.testConsents.postscaleCount
      notices := s.testConsents.notices, latches := s.testConsents.latches, table := s.testConsents.table
      slot := s.testConsents.slot, voting := s.testConsents.voting, epoch := s.testConsents.epoch } := by
  apply State.ext_fields <;> simp

/-! ### leaveRound -/

@[simp] theorem State.leaveRound_untouched (s : State) (a : Agent) :
    (s.leaveRound a).rstnLow = s.rstnLow ∧ (s.leaveRound a).mem = s.mem ∧ (s.leaveRound a).cellMap = s.cellMap ∧
    (s.leaveRound a).freeList = s.freeList ∧ (s.leaveRound a).scrubQueue = s.scrubQueue ∧
    (s.leaveRound a).engine = s.engine ∧ (s.leaveRound a).clearLeft = s.clearLeft ∧ (s.leaveRound a).used = s.used ∧
    (s.leaveRound a).descs = s.descs ∧ (s.leaveRound a).inUse = s.inUse ∧ (s.leaveRound a).nextTag = s.nextTag ∧
    (s.leaveRound a).queues = s.queues ∧ (s.leaveRound a).hands = s.hands ∧ (s.leaveRound a).stagings = s.stagings ∧
    (s.leaveRound a).ticks = s.ticks ∧ (s.leaveRound a).passDue = s.passDue ∧ (s.leaveRound a).members = s.members ∧
    (s.leaveRound a).snapshots = s.snapshots ∧ (s.leaveRound a).nextProposal = s.nextProposal ∧
    (s.leaveRound a).lastProposal = s.lastProposal ∧ (s.leaveRound a).frames = s.frames ∧
    (s.leaveRound a).pending = s.pending ∧ (s.leaveRound a).choices = s.choices := by
  unfold State.leaveRound; (repeat' split) <;> simp

/-- What leaveRound can touch. -/
theorem State.leaveRound_frame (s : State) (a : Agent) :
    s.leaveRound a = { s with
      watches := (s.leaveRound a).watches, prescaleCount := (s.leaveRound a).prescaleCount
      periodCount := (s.leaveRound a).periodCount, postscaleCount := (s.leaveRound a).postscaleCount
      notices := (s.leaveRound a).notices, latches := (s.leaveRound a).latches, table := (s.leaveRound a).table
      slot := (s.leaveRound a).slot, voting := (s.leaveRound a).voting, epoch := (s.leaveRound a).epoch } := by
  apply State.ext_fields <;> simp

/-! ### takePass -/

@[simp] theorem State.takePass_untouched (s : State) :
    s.takePass.rstnLow = s.rstnLow ∧ s.takePass.mem = s.mem ∧ s.takePass.freeList = s.freeList ∧
    s.takePass.used = s.used ∧ s.takePass.nextTag = s.nextTag ∧ s.takePass.stagings = s.stagings ∧
    s.takePass.ticks = s.ticks ∧ s.takePass.voting = s.voting ∧ s.takePass.nextProposal = s.nextProposal ∧
    s.takePass.lastProposal = s.lastProposal ∧ s.takePass.pending = s.pending ∧ s.takePass.choices = s.choices := by
  unfold State.takePass; (repeat' split) <;> simp

/-- What takePass can touch. -/
theorem State.takePass_frame (s : State) :
    s.takePass = { s with
      cellMap := s.takePass.cellMap, scrubQueue := s.takePass.scrubQueue, engine := s.takePass.engine
      clearLeft := s.takePass.clearLeft, watches := s.takePass.watches, descs := s.takePass.descs
      inUse := s.takePass.inUse, queues := s.takePass.queues, hands := s.takePass.hands
      prescaleCount := s.takePass.prescaleCount, periodCount := s.takePass.periodCount
      postscaleCount := s.takePass.postscaleCount, passDue := s.takePass.passDue, members := s.takePass.members
      notices := s.takePass.notices, snapshots := s.takePass.snapshots, latches := s.takePass.latches
      table := s.takePass.table, slot := s.takePass.slot, epoch := s.takePass.epoch, frames := s.takePass.frames } := by
  apply State.ext_fields <;> simp

/-! ### abortStaging -/

@[simp] theorem State.abortStaging_untouched (s : State) (a : Agent) :
    (s.abortStaging a).rstnLow = s.rstnLow ∧ (s.abortStaging a).mem = s.mem ∧
    (s.abortStaging a).freeList = s.freeList ∧ (s.abortStaging a).used = s.used ∧
    (s.abortStaging a).nextTag = s.nextTag ∧ (s.abortStaging a).ticks = s.ticks ∧
    (s.abortStaging a).passDue = s.passDue ∧ (s.abortStaging a).voting = s.voting ∧
    (s.abortStaging a).nextProposal = s.nextProposal ∧ (s.abortStaging a).lastProposal = s.lastProposal ∧
    (s.abortStaging a).pending = s.pending ∧ (s.abortStaging a).choices = s.choices := by
  unfold State.abortStaging; (repeat' split) <;> simp

/-- What abortStaging can touch. -/
theorem State.abortStaging_frame (s : State) (a : Agent) :
    s.abortStaging a = { s with
      cellMap := (s.abortStaging a).cellMap, scrubQueue := (s.abortStaging a).scrubQueue
      engine := (s.abortStaging a).engine, clearLeft := (s.abortStaging a).clearLeft
      watches := (s.abortStaging a).watches, descs := (s.abortStaging a).descs, inUse := (s.abortStaging a).inUse
      queues := (s.abortStaging a).queues, hands := (s.abortStaging a).hands
      stagings := (s.abortStaging a).stagings, prescaleCount := (s.abortStaging a).prescaleCount
      periodCount := (s.abortStaging a).periodCount, postscaleCount := (s.abortStaging a).postscaleCount
      members := (s.abortStaging a).members, notices := (s.abortStaging a).notices
      snapshots := (s.abortStaging a).snapshots, latches := (s.abortStaging a).latches
      table := (s.abortStaging a).table, slot := (s.abortStaging a).slot, epoch := (s.abortStaging a).epoch
      frames := (s.abortStaging a).frames } := by
  apply State.ext_fields <;> simp

/-! ### discard -/

@[simp] theorem State.discard_untouched (s : State) (a : Agent) :
    (s.discard a).rstnLow = s.rstnLow ∧ (s.discard a).mem = s.mem ∧ (s.discard a).freeList = s.freeList ∧
    (s.discard a).used = s.used ∧ (s.discard a).nextTag = s.nextTag ∧ (s.discard a).stagings = s.stagings ∧
    (s.discard a).ticks = s.ticks ∧ (s.discard a).passDue = s.passDue ∧ (s.discard a).voting = s.voting ∧
    (s.discard a).nextProposal = s.nextProposal ∧ (s.discard a).lastProposal = s.lastProposal ∧
    (s.discard a).pending = s.pending ∧ (s.discard a).choices = s.choices := by
  unfold State.discard; simp

/-- What discard can touch. -/
theorem State.discard_frame (s : State) (a : Agent) :
    s.discard a = { s with
      cellMap := (s.discard a).cellMap, scrubQueue := (s.discard a).scrubQueue, engine := (s.discard a).engine
      clearLeft := (s.discard a).clearLeft, watches := (s.discard a).watches, descs := (s.discard a).descs
      inUse := (s.discard a).inUse, queues := (s.discard a).queues, hands := (s.discard a).hands
      prescaleCount := (s.discard a).prescaleCount, periodCount := (s.discard a).periodCount
      postscaleCount := (s.discard a).postscaleCount, members := (s.discard a).members
      notices := (s.discard a).notices, snapshots := (s.discard a).snapshots, latches := (s.discard a).latches
      table := (s.discard a).table, slot := (s.discard a).slot, epoch := (s.discard a).epoch
      frames := (s.discard a).frames } := by
  apply State.ext_fields <;> simp

/-! ### fence -/

@[simp] theorem State.fence_untouched (s : State) (a : Agent) :
    (s.fence a).rstnLow = s.rstnLow ∧ (s.fence a).mem = s.mem ∧ (s.fence a).freeList = s.freeList ∧
    (s.fence a).used = s.used ∧ (s.fence a).nextTag = s.nextTag ∧ (s.fence a).ticks = s.ticks ∧
    (s.fence a).passDue = s.passDue ∧ (s.fence a).nextProposal = s.nextProposal ∧
    (s.fence a).lastProposal = s.lastProposal ∧ (s.fence a).pending = s.pending ∧ (s.fence a).choices = s.choices := by
  unfold State.fence; simp

/-- What fence can touch. -/
theorem State.fence_frame (s : State) (a : Agent) :
    s.fence a = { s with
      cellMap := (s.fence a).cellMap, scrubQueue := (s.fence a).scrubQueue, engine := (s.fence a).engine
      clearLeft := (s.fence a).clearLeft, watches := (s.fence a).watches, descs := (s.fence a).descs
      inUse := (s.fence a).inUse, queues := (s.fence a).queues, hands := (s.fence a).hands
      stagings := (s.fence a).stagings, prescaleCount := (s.fence a).prescaleCount
      periodCount := (s.fence a).periodCount, postscaleCount := (s.fence a).postscaleCount
      members := (s.fence a).members, notices := (s.fence a).notices, snapshots := (s.fence a).snapshots
      latches := (s.fence a).latches, table := (s.fence a).table, slot := (s.fence a).slot
      voting := (s.fence a).voting, epoch := (s.fence a).epoch, frames := (s.fence a).frames } := by
  apply State.ext_fields <;> simp

/-! ### takeFencing -/

@[simp] theorem State.takeFencing_untouched (s : State) (a : Agent) :
    (s.takeFencing a).rstnLow = s.rstnLow ∧ (s.takeFencing a).mem = s.mem ∧
    (s.takeFencing a).freeList = s.freeList ∧ (s.takeFencing a).used = s.used ∧
    (s.takeFencing a).nextTag = s.nextTag ∧ (s.takeFencing a).ticks = s.ticks ∧
    (s.takeFencing a).passDue = s.passDue ∧ (s.takeFencing a).nextProposal = s.nextProposal ∧
    (s.takeFencing a).lastProposal = s.lastProposal ∧ (s.takeFencing a).pending = s.pending ∧
    (s.takeFencing a).choices = s.choices := by
  unfold State.takeFencing; (repeat' split) <;> simp

/-- What takeFencing can touch. -/
theorem State.takeFencing_frame (s : State) (a : Agent) :
    s.takeFencing a = { s with
      cellMap := (s.takeFencing a).cellMap, scrubQueue := (s.takeFencing a).scrubQueue
      engine := (s.takeFencing a).engine, clearLeft := (s.takeFencing a).clearLeft
      watches := (s.takeFencing a).watches, descs := (s.takeFencing a).descs, inUse := (s.takeFencing a).inUse
      queues := (s.takeFencing a).queues, hands := (s.takeFencing a).hands, stagings := (s.takeFencing a).stagings
      prescaleCount := (s.takeFencing a).prescaleCount, periodCount := (s.takeFencing a).periodCount
      postscaleCount := (s.takeFencing a).postscaleCount, members := (s.takeFencing a).members
      notices := (s.takeFencing a).notices, snapshots := (s.takeFencing a).snapshots
      latches := (s.takeFencing a).latches, table := (s.takeFencing a).table, slot := (s.takeFencing a).slot
      voting := (s.takeFencing a).voting, epoch := (s.takeFencing a).epoch, frames := (s.takeFencing a).frames } := by
  apply State.ext_fields <;> simp

/-! ### takeLapse -/

@[simp] theorem State.takeLapse_untouched (s : State) :
    s.takeLapse.rstnLow = s.rstnLow ∧ s.takeLapse.mem = s.mem ∧ s.takeLapse.cellMap = s.cellMap ∧
    s.takeLapse.freeList = s.freeList ∧ s.takeLapse.scrubQueue = s.scrubQueue ∧ s.takeLapse.engine = s.engine ∧
    s.takeLapse.clearLeft = s.clearLeft ∧ s.takeLapse.used = s.used ∧ s.takeLapse.descs = s.descs ∧
    s.takeLapse.inUse = s.inUse ∧ s.takeLapse.nextTag = s.nextTag ∧ s.takeLapse.queues = s.queues ∧
    s.takeLapse.hands = s.hands ∧ s.takeLapse.stagings = s.stagings ∧ s.takeLapse.ticks = s.ticks ∧
    s.takeLapse.passDue = s.passDue ∧ s.takeLapse.members = s.members ∧ s.takeLapse.snapshots = s.snapshots ∧
    s.takeLapse.nextProposal = s.nextProposal ∧ s.takeLapse.lastProposal = s.lastProposal ∧
    s.takeLapse.frames = s.frames ∧ s.takeLapse.pending = s.pending ∧ s.takeLapse.choices = s.choices := by
  unfold State.takeLapse; (repeat' split) <;> simp

/-- What takeLapse can touch. -/
theorem State.takeLapse_frame (s : State) :
    s.takeLapse = { s with
      watches := s.takeLapse.watches, prescaleCount := s.takeLapse.prescaleCount
      periodCount := s.takeLapse.periodCount, postscaleCount := s.takeLapse.postscaleCount
      notices := s.takeLapse.notices, latches := s.takeLapse.latches, table := s.takeLapse.table
      slot := s.takeLapse.slot, voting := s.takeLapse.voting, epoch := s.takeLapse.epoch } := by
  apply State.ext_fields <;> simp

/-! ### takeEvent -/

@[simp] theorem State.takeEvent_untouched (s : State) (e : TickEvent) :
    (s.takeEvent e).rstnLow = s.rstnLow ∧ (s.takeEvent e).mem = s.mem ∧ (s.takeEvent e).freeList = s.freeList ∧
    (s.takeEvent e).used = s.used ∧ (s.takeEvent e).nextTag = s.nextTag ∧ (s.takeEvent e).ticks = s.ticks ∧
    (s.takeEvent e).nextProposal = s.nextProposal ∧ (s.takeEvent e).lastProposal = s.lastProposal ∧
    (s.takeEvent e).pending = s.pending ∧ (s.takeEvent e).choices = s.choices := by
  cases e <;> simp [State.takeEvent]

/-- What takeEvent can touch. -/
theorem State.takeEvent_frame (s : State) (e : TickEvent) :
    s.takeEvent e = { s with
      cellMap := (s.takeEvent e).cellMap, scrubQueue := (s.takeEvent e).scrubQueue
      engine := (s.takeEvent e).engine, clearLeft := (s.takeEvent e).clearLeft, watches := (s.takeEvent e).watches
      descs := (s.takeEvent e).descs, inUse := (s.takeEvent e).inUse, queues := (s.takeEvent e).queues
      hands := (s.takeEvent e).hands, stagings := (s.takeEvent e).stagings
      prescaleCount := (s.takeEvent e).prescaleCount, periodCount := (s.takeEvent e).periodCount
      postscaleCount := (s.takeEvent e).postscaleCount, passDue := (s.takeEvent e).passDue
      members := (s.takeEvent e).members, notices := (s.takeEvent e).notices
      snapshots := (s.takeEvent e).snapshots, latches := (s.takeEvent e).latches, table := (s.takeEvent e).table
      slot := (s.takeEvent e).slot, voting := (s.takeEvent e).voting, epoch := (s.takeEvent e).epoch
      frames := (s.takeEvent e).frames } := by
  apply State.ext_fields <;> simp

end Sys2Proof.Machine
end

