-- ==== Sys2Proof/Laws/Commands.lean ====
section
/-! SUPPORT. What each command's meaning can touch: one lemma for the fields it leaves alone, one frame lemma. -/

namespace Sys2Proof.Machine

/-! ### settle -/

theorem State.settleSome_untouched (n : Nat) (s : State) :
    (State.settleSome n s).rstnLow = s.rstnLow ∧ (State.settleSome n s).mem = s.mem ∧
    (State.settleSome n s).freeList = s.freeList ∧ (State.settleSome n s).used = s.used ∧
    (State.settleSome n s).nextTag = s.nextTag ∧ (State.settleSome n s).ticks = s.ticks ∧
    (State.settleSome n s).nextProposal = s.nextProposal ∧ (State.settleSome n s).lastProposal = s.lastProposal ∧
    (State.settleSome n s).pending = s.pending := by
  induction n generalizing s with
  | zero => simp [State.settleSome]
  | succ n ih =>
    unfold State.settleSome
    split
    · simp
    · simp [ih]
    · simp [ih]

@[simp] theorem State.settle_untouched (s : State) :
    s.settle.rstnLow = s.rstnLow ∧ s.settle.mem = s.mem ∧ s.settle.freeList = s.freeList ∧ s.settle.used = s.used ∧
    s.settle.nextTag = s.nextTag ∧ s.settle.ticks = s.ticks ∧ s.settle.nextProposal = s.nextProposal ∧
    s.settle.lastProposal = s.lastProposal ∧ s.settle.pending = s.pending :=
  State.settleSome_untouched 6 s

/-- What settle can touch. -/
theorem State.settle_frame (s : State) :
    s.settle = { s with
      cellMap := s.settle.cellMap, scrubQueue := s.settle.scrubQueue, engine := s.settle.engine
      clearLeft := s.settle.clearLeft, watches := s.settle.watches, descs := s.settle.descs
      inUse := s.settle.inUse, queues := s.settle.queues, hands := s.settle.hands, stagings := s.settle.stagings
      prescaleCount := s.settle.prescaleCount, periodCount := s.settle.periodCount
      postscaleCount := s.settle.postscaleCount, passDue := s.settle.passDue, members := s.settle.members
      notices := s.settle.notices, snapshots := s.settle.snapshots, latches := s.settle.latches
      table := s.settle.table, slot := s.settle.slot, voting := s.settle.voting, epoch := s.settle.epoch
      frames := s.settle.frames, choices := s.settle.choices } := by
  apply State.ext_fields <;> simp

/-! ### releaseReset -/

@[simp] theorem State.releaseReset_untouched (s : State) :
    s.releaseReset.mem = s.mem ∧ s.releaseReset.cellMap = s.cellMap ∧ s.releaseReset.freeList = s.freeList ∧
    s.releaseReset.scrubQueue = s.scrubQueue ∧ s.releaseReset.engine = s.engine ∧ s.releaseReset.used = s.used ∧
    s.releaseReset.watches = s.watches ∧ s.releaseReset.descs = s.descs ∧ s.releaseReset.inUse = s.inUse ∧
    s.releaseReset.nextTag = s.nextTag ∧ s.releaseReset.queues = s.queues ∧ s.releaseReset.hands = s.hands ∧
    s.releaseReset.stagings = s.stagings ∧ s.releaseReset.prescaleCount = s.prescaleCount ∧
    s.releaseReset.periodCount = s.periodCount ∧ s.releaseReset.postscaleCount = s.postscaleCount ∧
    s.releaseReset.ticks = s.ticks ∧ s.releaseReset.passDue = s.passDue ∧ s.releaseReset.members = s.members ∧
    s.releaseReset.notices = s.notices ∧ s.releaseReset.snapshots = s.snapshots ∧
    s.releaseReset.latches = s.latches ∧ s.releaseReset.table = s.table ∧ s.releaseReset.slot = s.slot ∧
    s.releaseReset.voting = s.voting ∧ s.releaseReset.nextProposal = s.nextProposal ∧
    s.releaseReset.lastProposal = s.lastProposal ∧ s.releaseReset.epoch = s.epoch ∧
    s.releaseReset.frames = s.frames ∧ s.releaseReset.pending = s.pending ∧ s.releaseReset.choices = s.choices := by
  unfold State.releaseReset; (repeat' split) <;> simp

/-- What releaseReset can touch. -/
theorem State.releaseReset_frame (s : State) :
    s.releaseReset = { s with
      rstnLow := s.releaseReset.rstnLow, clearLeft := s.releaseReset.clearLeft } := by
  apply State.ext_fields <;> simp

/-! ### finishStartUp -/

@[simp] theorem State.finishStartUp_untouched (s : State) (p : CellId) :
    (s.finishStartUp p).rstnLow = s.rstnLow ∧ (s.finishStartUp p).scrubQueue = s.scrubQueue ∧
    (s.finishStartUp p).used = s.used ∧ (s.finishStartUp p).watches = s.watches ∧
    (s.finishStartUp p).descs = s.descs ∧ (s.finishStartUp p).inUse = s.inUse ∧
    (s.finishStartUp p).nextTag = s.nextTag ∧ (s.finishStartUp p).queues = s.queues ∧
    (s.finishStartUp p).hands = s.hands ∧ (s.finishStartUp p).stagings = s.stagings ∧
    (s.finishStartUp p).prescaleCount = s.prescaleCount ∧ (s.finishStartUp p).periodCount = s.periodCount ∧
    (s.finishStartUp p).postscaleCount = s.postscaleCount ∧ (s.finishStartUp p).ticks = s.ticks ∧
    (s.finishStartUp p).passDue = s.passDue ∧ (s.finishStartUp p).members = s.members ∧
    (s.finishStartUp p).notices = s.notices ∧ (s.finishStartUp p).snapshots = s.snapshots ∧
    (s.finishStartUp p).latches = s.latches ∧ (s.finishStartUp p).table = s.table ∧
    (s.finishStartUp p).slot = s.slot ∧ (s.finishStartUp p).voting = s.voting ∧
    (s.finishStartUp p).nextProposal = s.nextProposal ∧ (s.finishStartUp p).lastProposal = s.lastProposal ∧
    (s.finishStartUp p).epoch = s.epoch ∧ (s.finishStartUp p).frames = s.frames ∧
    (s.finishStartUp p).pending = s.pending ∧ (s.finishStartUp p).choices = s.choices := by
  simp [State.finishStartUp]

/-! ### completeStartUp -/

@[simp] theorem State.completeStartUp_untouched (s : State) :
    s.completeStartUp.rstnLow = s.rstnLow ∧ s.completeStartUp.scrubQueue = s.scrubQueue ∧
    s.completeStartUp.used = s.used ∧ s.completeStartUp.watches = s.watches ∧ s.completeStartUp.descs = s.descs ∧
    s.completeStartUp.inUse = s.inUse ∧ s.completeStartUp.nextTag = s.nextTag ∧
    s.completeStartUp.queues = s.queues ∧ s.completeStartUp.hands = s.hands ∧
    s.completeStartUp.stagings = s.stagings ∧ s.completeStartUp.prescaleCount = s.prescaleCount ∧
    s.completeStartUp.periodCount = s.periodCount ∧ s.completeStartUp.postscaleCount = s.postscaleCount ∧
    s.completeStartUp.ticks = s.ticks ∧ s.completeStartUp.passDue = s.passDue ∧
    s.completeStartUp.members = s.members ∧ s.completeStartUp.notices = s.notices ∧
    s.completeStartUp.snapshots = s.snapshots ∧ s.completeStartUp.latches = s.latches ∧
    s.completeStartUp.table = s.table ∧ s.completeStartUp.slot = s.slot ∧ s.completeStartUp.voting = s.voting ∧
    s.completeStartUp.nextProposal = s.nextProposal ∧ s.completeStartUp.lastProposal = s.lastProposal ∧
    s.completeStartUp.epoch = s.epoch ∧ s.completeStartUp.frames = s.frames ∧
    s.completeStartUp.pending = s.pending ∧ s.completeStartUp.choices = s.choices := by
  unfold State.completeStartUp; (repeat' split) <;> simp

/-- What completeStartUp can touch. -/
theorem State.completeStartUp_frame (s : State) :
    s.completeStartUp = { s with
      mem := s.completeStartUp.mem, cellMap := s.completeStartUp.cellMap, freeList := s.completeStartUp.freeList
      engine := s.completeStartUp.engine, clearLeft := s.completeStartUp.clearLeft } := by
  apply State.ext_fields <;> simp

/-! ### returnCell -/

@[simp] theorem State.returnCell_untouched (s : State) (c : CellId) :
    (s.returnCell c).rstnLow = s.rstnLow ∧ (s.returnCell c).engine = s.engine ∧
    (s.returnCell c).clearLeft = s.clearLeft ∧ (s.returnCell c).watches = s.watches ∧
    (s.returnCell c).descs = s.descs ∧ (s.returnCell c).inUse = s.inUse ∧ (s.returnCell c).nextTag = s.nextTag ∧
    (s.returnCell c).queues = s.queues ∧ (s.returnCell c).hands = s.hands ∧ (s.returnCell c).stagings = s.stagings ∧
    (s.returnCell c).prescaleCount = s.prescaleCount ∧ (s.returnCell c).periodCount = s.periodCount ∧
    (s.returnCell c).postscaleCount = s.postscaleCount ∧ (s.returnCell c).ticks = s.ticks ∧
    (s.returnCell c).passDue = s.passDue ∧ (s.returnCell c).members = s.members ∧
    (s.returnCell c).notices = s.notices ∧ (s.returnCell c).snapshots = s.snapshots ∧
    (s.returnCell c).latches = s.latches ∧ (s.returnCell c).table = s.table ∧ (s.returnCell c).slot = s.slot ∧
    (s.returnCell c).voting = s.voting ∧ (s.returnCell c).nextProposal = s.nextProposal ∧
    (s.returnCell c).lastProposal = s.lastProposal ∧ (s.returnCell c).epoch = s.epoch ∧
    (s.returnCell c).frames = s.frames ∧ (s.returnCell c).pending = s.pending ∧ (s.returnCell c).choices = s.choices := by
  unfold State.returnCell; (repeat' split) <;> simp

/-! ### nextScrub -/

@[simp] theorem State.nextScrub_untouched (s : State) :
    s.nextScrub.rstnLow = s.rstnLow ∧ s.nextScrub.mem = s.mem ∧ s.nextScrub.cellMap = s.cellMap ∧
    s.nextScrub.freeList = s.freeList ∧ s.nextScrub.scrubQueue = s.scrubQueue ∧ s.nextScrub.used = s.used ∧
    s.nextScrub.watches = s.watches ∧ s.nextScrub.descs = s.descs ∧ s.nextScrub.inUse = s.inUse ∧
    s.nextScrub.nextTag = s.nextTag ∧ s.nextScrub.queues = s.queues ∧ s.nextScrub.hands = s.hands ∧
    s.nextScrub.stagings = s.stagings ∧ s.nextScrub.prescaleCount = s.prescaleCount ∧
    s.nextScrub.periodCount = s.periodCount ∧ s.nextScrub.postscaleCount = s.postscaleCount ∧
    s.nextScrub.ticks = s.ticks ∧ s.nextScrub.passDue = s.passDue ∧ s.nextScrub.members = s.members ∧
    s.nextScrub.notices = s.notices ∧ s.nextScrub.snapshots = s.snapshots ∧ s.nextScrub.latches = s.latches ∧
    s.nextScrub.table = s.table ∧ s.nextScrub.slot = s.slot ∧ s.nextScrub.voting = s.voting ∧
    s.nextScrub.nextProposal = s.nextProposal ∧ s.nextScrub.lastProposal = s.lastProposal ∧
    s.nextScrub.epoch = s.epoch ∧ s.nextScrub.frames = s.frames ∧ s.nextScrub.pending = s.pending ∧
    s.nextScrub.choices = s.choices := by
  unfold State.nextScrub; (repeat' split) <;> simp

/-! ### completeScrub -/

@[simp] theorem State.completeScrub_untouched (s : State) :
    s.completeScrub.rstnLow = s.rstnLow ∧ s.completeScrub.descs = s.descs ∧ s.completeScrub.inUse = s.inUse ∧
    s.completeScrub.nextTag = s.nextTag ∧ s.completeScrub.queues = s.queues ∧ s.completeScrub.hands = s.hands ∧
    s.completeScrub.stagings = s.stagings ∧ s.completeScrub.ticks = s.ticks ∧ s.completeScrub.passDue = s.passDue ∧
    s.completeScrub.members = s.members ∧ s.completeScrub.snapshots = s.snapshots ∧
    s.completeScrub.voting = s.voting ∧ s.completeScrub.nextProposal = s.nextProposal ∧
    s.completeScrub.lastProposal = s.lastProposal ∧ s.completeScrub.frames = s.frames ∧
    s.completeScrub.pending = s.pending ∧ s.completeScrub.choices = s.choices := by
  unfold State.completeScrub; (repeat' split) <;> simp

/-- What completeScrub can touch. -/
theorem State.completeScrub_frame (s : State) :
    s.completeScrub = { s with
      mem := s.completeScrub.mem, cellMap := s.completeScrub.cellMap, freeList := s.completeScrub.freeList
      scrubQueue := s.completeScrub.scrubQueue, engine := s.completeScrub.engine
      clearLeft := s.completeScrub.clearLeft, used := s.completeScrub.used, watches := s.completeScrub.watches
      prescaleCount := s.completeScrub.prescaleCount, periodCount := s.completeScrub.periodCount
      postscaleCount := s.completeScrub.postscaleCount, notices := s.completeScrub.notices
      latches := s.completeScrub.latches, table := s.completeScrub.table, slot := s.completeScrub.slot
      epoch := s.completeScrub.epoch } := by
  apply State.ext_fields <;> simp

/-! ### fallCsn -/

@[simp] theorem State.fallCsn_untouched (s : State) (p : Agent) :
    (s.fallCsn p).rstnLow = s.rstnLow ∧ (s.fallCsn p).mem = s.mem ∧ (s.fallCsn p).cellMap = s.cellMap ∧
    (s.fallCsn p).freeList = s.freeList ∧ (s.fallCsn p).scrubQueue = s.scrubQueue ∧
    (s.fallCsn p).engine = s.engine ∧ (s.fallCsn p).clearLeft = s.clearLeft ∧ (s.fallCsn p).used = s.used ∧
    (s.fallCsn p).watches = s.watches ∧ (s.fallCsn p).descs = s.descs ∧ (s.fallCsn p).inUse = s.inUse ∧
    (s.fallCsn p).nextTag = s.nextTag ∧ (s.fallCsn p).queues = s.queues ∧ (s.fallCsn p).hands = s.hands ∧
    (s.fallCsn p).stagings = s.stagings ∧ (s.fallCsn p).prescaleCount = s.prescaleCount ∧
    (s.fallCsn p).periodCount = s.periodCount ∧ (s.fallCsn p).postscaleCount = s.postscaleCount ∧
    (s.fallCsn p).ticks = s.ticks ∧ (s.fallCsn p).passDue = s.passDue ∧ (s.fallCsn p).members = s.members ∧
    (s.fallCsn p).notices = s.notices ∧ (s.fallCsn p).snapshots = s.snapshots ∧ (s.fallCsn p).latches = s.latches ∧
    (s.fallCsn p).table = s.table ∧ (s.fallCsn p).slot = s.slot ∧ (s.fallCsn p).voting = s.voting ∧
    (s.fallCsn p).nextProposal = s.nextProposal ∧ (s.fallCsn p).lastProposal = s.lastProposal ∧
    (s.fallCsn p).epoch = s.epoch ∧ (s.fallCsn p).pending = s.pending ∧ (s.fallCsn p).choices = s.choices := by
  unfold State.fallCsn; dsimp only; (repeat' split) <;> simp

/-- What fallCsn can touch. -/
theorem State.fallCsn_frame (s : State) (p : Agent) :
    s.fallCsn p = { s with
      frames := (s.fallCsn p).frames } := by
  apply State.ext_fields <;> simp

/-! ### cutStaging -/

@[simp] theorem State.cutStaging_untouched (s : State) (p : Agent) :
    (s.cutStaging p).rstnLow = s.rstnLow ∧ (s.cutStaging p).mem = s.mem ∧ (s.cutStaging p).freeList = s.freeList ∧
    (s.cutStaging p).used = s.used ∧ (s.cutStaging p).nextTag = s.nextTag ∧ (s.cutStaging p).ticks = s.ticks ∧
    (s.cutStaging p).passDue = s.passDue ∧ (s.cutStaging p).voting = s.voting ∧
    (s.cutStaging p).nextProposal = s.nextProposal ∧ (s.cutStaging p).lastProposal = s.lastProposal ∧
    (s.cutStaging p).pending = s.pending ∧ (s.cutStaging p).choices = s.choices := by
  unfold State.cutStaging; (repeat' split) <;> simp

/-! ### unlatch -/

@[simp] theorem State.unlatch_untouched (s : State) (a : Agent) :
    (s.unlatch a).rstnLow = s.rstnLow ∧ (s.unlatch a).mem = s.mem ∧ (s.unlatch a).cellMap = s.cellMap ∧
    (s.unlatch a).freeList = s.freeList ∧ (s.unlatch a).scrubQueue = s.scrubQueue ∧
    (s.unlatch a).engine = s.engine ∧ (s.unlatch a).clearLeft = s.clearLeft ∧ (s.unlatch a).used = s.used ∧
    (s.unlatch a).watches = s.watches ∧ (s.unlatch a).descs = s.descs ∧ (s.unlatch a).inUse = s.inUse ∧
    (s.unlatch a).nextTag = s.nextTag ∧ (s.unlatch a).queues = s.queues ∧ (s.unlatch a).hands = s.hands ∧
    (s.unlatch a).stagings = s.stagings ∧ (s.unlatch a).prescaleCount = s.prescaleCount ∧
    (s.unlatch a).periodCount = s.periodCount ∧ (s.unlatch a).postscaleCount = s.postscaleCount ∧
    (s.unlatch a).ticks = s.ticks ∧ (s.unlatch a).passDue = s.passDue ∧ (s.unlatch a).members = s.members ∧
    (s.unlatch a).snapshots = s.snapshots ∧ (s.unlatch a).table = s.table ∧ (s.unlatch a).slot = s.slot ∧
    (s.unlatch a).voting = s.voting ∧ (s.unlatch a).nextProposal = s.nextProposal ∧
    (s.unlatch a).lastProposal = s.lastProposal ∧ (s.unlatch a).epoch = s.epoch ∧ (s.unlatch a).frames = s.frames ∧
    (s.unlatch a).pending = s.pending ∧ (s.unlatch a).choices = s.choices := by
  unfold State.unlatch; (repeat' split) <;> simp

/-! ### idlePort -/

@[simp] theorem State.idlePort_untouched (s : State) (p : Agent) :
    (s.idlePort p).rstnLow = s.rstnLow ∧ (s.idlePort p).mem = s.mem ∧ (s.idlePort p).cellMap = s.cellMap ∧
    (s.idlePort p).freeList = s.freeList ∧ (s.idlePort p).scrubQueue = s.scrubQueue ∧
    (s.idlePort p).engine = s.engine ∧ (s.idlePort p).clearLeft = s.clearLeft ∧ (s.idlePort p).used = s.used ∧
    (s.idlePort p).watches = s.watches ∧ (s.idlePort p).descs = s.descs ∧ (s.idlePort p).inUse = s.inUse ∧
    (s.idlePort p).nextTag = s.nextTag ∧ (s.idlePort p).queues = s.queues ∧ (s.idlePort p).hands = s.hands ∧
    (s.idlePort p).stagings = s.stagings ∧ (s.idlePort p).prescaleCount = s.prescaleCount ∧
    (s.idlePort p).periodCount = s.periodCount ∧ (s.idlePort p).postscaleCount = s.postscaleCount ∧
    (s.idlePort p).ticks = s.ticks ∧ (s.idlePort p).passDue = s.passDue ∧ (s.idlePort p).members = s.members ∧
    (s.idlePort p).notices = s.notices ∧ (s.idlePort p).snapshots = s.snapshots ∧
    (s.idlePort p).latches = s.latches ∧ (s.idlePort p).table = s.table ∧ (s.idlePort p).slot = s.slot ∧
    (s.idlePort p).voting = s.voting ∧ (s.idlePort p).nextProposal = s.nextProposal ∧
    (s.idlePort p).lastProposal = s.lastProposal ∧ (s.idlePort p).epoch = s.epoch ∧
    (s.idlePort p).pending = s.pending ∧ (s.idlePort p).choices = s.choices := by
  simp [State.idlePort]

/-! ### raiseCsn -/

@[simp] theorem State.raiseCsn_untouched (s : State) (p : Agent) :
    (s.raiseCsn p).rstnLow = s.rstnLow ∧ (s.raiseCsn p).mem = s.mem ∧ (s.raiseCsn p).freeList = s.freeList ∧
    (s.raiseCsn p).used = s.used ∧ (s.raiseCsn p).nextTag = s.nextTag ∧ (s.raiseCsn p).ticks = s.ticks ∧
    (s.raiseCsn p).passDue = s.passDue ∧ (s.raiseCsn p).voting = s.voting ∧
    (s.raiseCsn p).nextProposal = s.nextProposal ∧ (s.raiseCsn p).lastProposal = s.lastProposal ∧
    (s.raiseCsn p).pending = s.pending ∧ (s.raiseCsn p).choices = s.choices := by
  unfold State.raiseCsn; (repeat' split) <;> simp

/-- What raiseCsn can touch. -/
theorem State.raiseCsn_frame (s : State) (p : Agent) :
    s.raiseCsn p = { s with
      cellMap := (s.raiseCsn p).cellMap, scrubQueue := (s.raiseCsn p).scrubQueue, engine := (s.raiseCsn p).engine
      clearLeft := (s.raiseCsn p).clearLeft, watches := (s.raiseCsn p).watches, descs := (s.raiseCsn p).descs
      inUse := (s.raiseCsn p).inUse, queues := (s.raiseCsn p).queues, hands := (s.raiseCsn p).hands
      stagings := (s.raiseCsn p).stagings, prescaleCount := (s.raiseCsn p).prescaleCount
      periodCount := (s.raiseCsn p).periodCount, postscaleCount := (s.raiseCsn p).postscaleCount
      members := (s.raiseCsn p).members, notices := (s.raiseCsn p).notices, snapshots := (s.raiseCsn p).snapshots
      latches := (s.raiseCsn p).latches, table := (s.raiseCsn p).table, slot := (s.raiseCsn p).slot
      epoch := (s.raiseCsn p).epoch, frames := (s.raiseCsn p).frames } := by
  apply State.ext_fields <;> simp

/-! ### unknownOpcode -/

@[simp] theorem State.unknownOpcode_untouched (s : State) (p : Agent) (code : Byte) :
    (s.unknownOpcode p code).rstnLow = s.rstnLow ∧ (s.unknownOpcode p code).mem = s.mem ∧
    (s.unknownOpcode p code).cellMap = s.cellMap ∧ (s.unknownOpcode p code).freeList = s.freeList ∧
    (s.unknownOpcode p code).scrubQueue = s.scrubQueue ∧ (s.unknownOpcode p code).engine = s.engine ∧
    (s.unknownOpcode p code).clearLeft = s.clearLeft ∧ (s.unknownOpcode p code).used = s.used ∧
    (s.unknownOpcode p code).watches = s.watches ∧ (s.unknownOpcode p code).descs = s.descs ∧
    (s.unknownOpcode p code).inUse = s.inUse ∧ (s.unknownOpcode p code).nextTag = s.nextTag ∧
    (s.unknownOpcode p code).queues = s.queues ∧ (s.unknownOpcode p code).hands = s.hands ∧
    (s.unknownOpcode p code).stagings = s.stagings ∧ (s.unknownOpcode p code).prescaleCount = s.prescaleCount ∧
    (s.unknownOpcode p code).periodCount = s.periodCount ∧
    (s.unknownOpcode p code).postscaleCount = s.postscaleCount ∧ (s.unknownOpcode p code).ticks = s.ticks ∧
    (s.unknownOpcode p code).passDue = s.passDue ∧ (s.unknownOpcode p code).members = s.members ∧
    (s.unknownOpcode p code).notices = s.notices ∧ (s.unknownOpcode p code).snapshots = s.snapshots ∧
    (s.unknownOpcode p code).latches = s.latches ∧ (s.unknownOpcode p code).table = s.table ∧
    (s.unknownOpcode p code).slot = s.slot ∧ (s.unknownOpcode p code).voting = s.voting ∧
    (s.unknownOpcode p code).nextProposal = s.nextProposal ∧
    (s.unknownOpcode p code).lastProposal = s.lastProposal ∧ (s.unknownOpcode p code).epoch = s.epoch ∧
    (s.unknownOpcode p code).pending = s.pending ∧ (s.unknownOpcode p code).choices = s.choices := by
  unfold State.unknownOpcode State.transact; (repeat' split) <;> simp

/-- What unknownOpcode can touch. -/
theorem State.unknownOpcode_frame (s : State) (p : Agent) (code : Byte) :
    s.unknownOpcode p code = { s with
      frames := (s.unknownOpcode p code).frames } := by
  apply State.ext_fields <;> simp

/-! ### answerIdent -/

@[simp] theorem State.answerIdent_untouched (s : State) (p : Agent) :
    (s.answerIdent p).rstnLow = s.rstnLow ∧ (s.answerIdent p).mem = s.mem ∧ (s.answerIdent p).cellMap = s.cellMap ∧
    (s.answerIdent p).freeList = s.freeList ∧ (s.answerIdent p).scrubQueue = s.scrubQueue ∧
    (s.answerIdent p).engine = s.engine ∧ (s.answerIdent p).clearLeft = s.clearLeft ∧
    (s.answerIdent p).used = s.used ∧ (s.answerIdent p).watches = s.watches ∧ (s.answerIdent p).descs = s.descs ∧
    (s.answerIdent p).inUse = s.inUse ∧ (s.answerIdent p).nextTag = s.nextTag ∧
    (s.answerIdent p).queues = s.queues ∧ (s.answerIdent p).hands = s.hands ∧
    (s.answerIdent p).stagings = s.stagings ∧ (s.answerIdent p).prescaleCount = s.prescaleCount ∧
    (s.answerIdent p).periodCount = s.periodCount ∧ (s.answerIdent p).postscaleCount = s.postscaleCount ∧
    (s.answerIdent p).ticks = s.ticks ∧ (s.answerIdent p).passDue = s.passDue ∧
    (s.answerIdent p).members = s.members ∧ (s.answerIdent p).notices = s.notices ∧
    (s.answerIdent p).snapshots = s.snapshots ∧ (s.answerIdent p).latches = s.latches ∧
    (s.answerIdent p).table = s.table ∧ (s.answerIdent p).slot = s.slot ∧ (s.answerIdent p).voting = s.voting ∧
    (s.answerIdent p).nextProposal = s.nextProposal ∧ (s.answerIdent p).lastProposal = s.lastProposal ∧
    (s.answerIdent p).epoch = s.epoch ∧ (s.answerIdent p).pending = s.pending ∧
    (s.answerIdent p).choices = s.choices := by
  unfold State.answerIdent; (repeat' split) <;> simp

/-- What answerIdent can touch. -/
theorem State.answerIdent_frame (s : State) (p : Agent) :
    s.answerIdent p = { s with
      frames := (s.answerIdent p).frames } := by
  apply State.ext_fields <;> simp

/-! ### answerStatus -/

@[simp] theorem State.answerStatus_untouched (s : State) (p : Agent) :
    (s.answerStatus p).rstnLow = s.rstnLow ∧ (s.answerStatus p).mem = s.mem ∧
    (s.answerStatus p).cellMap = s.cellMap ∧ (s.answerStatus p).freeList = s.freeList ∧
    (s.answerStatus p).scrubQueue = s.scrubQueue ∧ (s.answerStatus p).engine = s.engine ∧
    (s.answerStatus p).clearLeft = s.clearLeft ∧ (s.answerStatus p).used = s.used ∧
    (s.answerStatus p).watches = s.watches ∧ (s.answerStatus p).descs = s.descs ∧
    (s.answerStatus p).inUse = s.inUse ∧ (s.answerStatus p).nextTag = s.nextTag ∧
    (s.answerStatus p).queues = s.queues ∧ (s.answerStatus p).hands = s.hands ∧
    (s.answerStatus p).stagings = s.stagings ∧ (s.answerStatus p).prescaleCount = s.prescaleCount ∧
    (s.answerStatus p).periodCount = s.periodCount ∧ (s.answerStatus p).postscaleCount = s.postscaleCount ∧
    (s.answerStatus p).ticks = s.ticks ∧ (s.answerStatus p).passDue = s.passDue ∧
    (s.answerStatus p).members = s.members ∧ (s.answerStatus p).notices = s.notices ∧
    (s.answerStatus p).snapshots = s.snapshots ∧ (s.answerStatus p).latches = s.latches ∧
    (s.answerStatus p).table = s.table ∧ (s.answerStatus p).slot = s.slot ∧ (s.answerStatus p).voting = s.voting ∧
    (s.answerStatus p).nextProposal = s.nextProposal ∧ (s.answerStatus p).lastProposal = s.lastProposal ∧
    (s.answerStatus p).epoch = s.epoch ∧ (s.answerStatus p).pending = s.pending ∧
    (s.answerStatus p).choices = s.choices := by
  unfold State.answerStatus State.transact; (repeat' split) <;> simp

/-- What answerStatus can touch. -/
theorem State.answerStatus_frame (s : State) (p : Agent) :
    s.answerStatus p = { s with
      frames := (s.answerStatus p).frames } := by
  apply State.ext_fields <;> simp

/-! ### loadLease -/

@[simp] theorem State.loadLease_untouched (s : State) (a : Agent) (period : Nat) :
    (s.loadLease a period).rstnLow = s.rstnLow ∧ (s.loadLease a period).mem = s.mem ∧
    (s.loadLease a period).cellMap = s.cellMap ∧ (s.loadLease a period).freeList = s.freeList ∧
    (s.loadLease a period).scrubQueue = s.scrubQueue ∧ (s.loadLease a period).engine = s.engine ∧
    (s.loadLease a period).clearLeft = s.clearLeft ∧ (s.loadLease a period).used = s.used ∧
    (s.loadLease a period).watches = s.watches ∧ (s.loadLease a period).descs = s.descs ∧
    (s.loadLease a period).inUse = s.inUse ∧ (s.loadLease a period).nextTag = s.nextTag ∧
    (s.loadLease a period).queues = s.queues ∧ (s.loadLease a period).hands = s.hands ∧
    (s.loadLease a period).stagings = s.stagings ∧ (s.loadLease a period).prescaleCount = s.prescaleCount ∧
    (s.loadLease a period).periodCount = s.periodCount ∧ (s.loadLease a period).postscaleCount = s.postscaleCount ∧
    (s.loadLease a period).ticks = s.ticks ∧ (s.loadLease a period).passDue = s.passDue ∧
    (s.loadLease a period).notices = s.notices ∧ (s.loadLease a period).snapshots = s.snapshots ∧
    (s.loadLease a period).latches = s.latches ∧ (s.loadLease a period).table = s.table ∧
    (s.loadLease a period).slot = s.slot ∧ (s.loadLease a period).voting = s.voting ∧
    (s.loadLease a period).nextProposal = s.nextProposal ∧ (s.loadLease a period).lastProposal = s.lastProposal ∧
    (s.loadLease a period).epoch = s.epoch ∧ (s.loadLease a period).frames = s.frames ∧
    (s.loadLease a period).pending = s.pending ∧ (s.loadLease a period).choices = s.choices := by
  simp [State.loadLease]

/-! ### remindRequired -/

@[simp] theorem State.remindRequired_untouched (s : State) (a : Agent) :
    (s.remindRequired a).rstnLow = s.rstnLow ∧ (s.remindRequired a).mem = s.mem ∧
    (s.remindRequired a).cellMap = s.cellMap ∧ (s.remindRequired a).freeList = s.freeList ∧
    (s.remindRequired a).scrubQueue = s.scrubQueue ∧ (s.remindRequired a).engine = s.engine ∧
    (s.remindRequired a).clearLeft = s.clearLeft ∧ (s.remindRequired a).used = s.used ∧
    (s.remindRequired a).watches = s.watches ∧ (s.remindRequired a).descs = s.descs ∧
    (s.remindRequired a).inUse = s.inUse ∧ (s.remindRequired a).nextTag = s.nextTag ∧
    (s.remindRequired a).queues = s.queues ∧ (s.remindRequired a).hands = s.hands ∧
    (s.remindRequired a).stagings = s.stagings ∧ (s.remindRequired a).prescaleCount = s.prescaleCount ∧
    (s.remindRequired a).periodCount = s.periodCount ∧ (s.remindRequired a).postscaleCount = s.postscaleCount ∧
    (s.remindRequired a).ticks = s.ticks ∧ (s.remindRequired a).passDue = s.passDue ∧
    (s.remindRequired a).members = s.members ∧ (s.remindRequired a).snapshots = s.snapshots ∧
    (s.remindRequired a).latches = s.latches ∧ (s.remindRequired a).table = s.table ∧
    (s.remindRequired a).slot = s.slot ∧ (s.remindRequired a).voting = s.voting ∧
    (s.remindRequired a).nextProposal = s.nextProposal ∧ (s.remindRequired a).lastProposal = s.lastProposal ∧
    (s.remindRequired a).epoch = s.epoch ∧ (s.remindRequired a).frames = s.frames ∧
    (s.remindRequired a).pending = s.pending ∧ (s.remindRequired a).choices = s.choices := by
  unfold State.remindRequired; (repeat' split) <;> simp

/-! ### rejoin -/

@[simp] theorem State.rejoin_untouched (s : State) (a : Agent) (period : Nat) :
    (s.rejoin a period).rstnLow = s.rstnLow ∧ (s.rejoin a period).mem = s.mem ∧
    (s.rejoin a period).freeList = s.freeList ∧ (s.rejoin a period).used = s.used ∧
    (s.rejoin a period).nextTag = s.nextTag ∧ (s.rejoin a period).stagings = s.stagings ∧
    (s.rejoin a period).ticks = s.ticks ∧ (s.rejoin a period).passDue = s.passDue ∧
    (s.rejoin a period).voting = s.voting ∧ (s.rejoin a period).nextProposal = s.nextProposal ∧
    (s.rejoin a period).lastProposal = s.lastProposal ∧ (s.rejoin a period).pending = s.pending ∧
    (s.rejoin a period).choices = s.choices := by
  simp [State.rejoin]

/-- What rejoin can touch. -/
theorem State.rejoin_frame (s : State) (a : Agent) (period : Nat) :
    s.rejoin a period = { s with
      cellMap := (s.rejoin a period).cellMap, scrubQueue := (s.rejoin a period).scrubQueue
      engine := (s.rejoin a period).engine, clearLeft := (s.rejoin a period).clearLeft
      watches := (s.rejoin a period).watches, descs := (s.rejoin a period).descs
      inUse := (s.rejoin a period).inUse, queues := (s.rejoin a period).queues, hands := (s.rejoin a period).hands
      prescaleCount := (s.rejoin a period).prescaleCount, periodCount := (s.rejoin a period).periodCount
      postscaleCount := (s.rejoin a period).postscaleCount, members := (s.rejoin a period).members
      notices := (s.rejoin a period).notices, snapshots := (s.rejoin a period).snapshots
      latches := (s.rejoin a period).latches, table := (s.rejoin a period).table, slot := (s.rejoin a period).slot
      epoch := (s.rejoin a period).epoch, frames := (s.rejoin a period).frames } := by
  apply State.ext_fields <;> simp

/-! ### joinFresh -/

@[simp] theorem State.joinFresh_untouched (s : State) (a : Agent) (period : Nat) :
    (s.joinFresh a period).rstnLow = s.rstnLow ∧ (s.joinFresh a period).mem = s.mem ∧
    (s.joinFresh a period).cellMap = s.cellMap ∧ (s.joinFresh a period).freeList = s.freeList ∧
    (s.joinFresh a period).scrubQueue = s.scrubQueue ∧ (s.joinFresh a period).engine = s.engine ∧
    (s.joinFresh a period).clearLeft = s.clearLeft ∧ (s.joinFresh a period).used = s.used ∧
    (s.joinFresh a period).watches = s.watches ∧ (s.joinFresh a period).descs = s.descs ∧
    (s.joinFresh a period).inUse = s.inUse ∧ (s.joinFresh a period).nextTag = s.nextTag ∧
    (s.joinFresh a period).queues = s.queues ∧ (s.joinFresh a period).hands = s.hands ∧
    (s.joinFresh a period).stagings = s.stagings ∧ (s.joinFresh a period).prescaleCount = s.prescaleCount ∧
    (s.joinFresh a period).periodCount = s.periodCount ∧ (s.joinFresh a period).postscaleCount = s.postscaleCount ∧
    (s.joinFresh a period).ticks = s.ticks ∧ (s.joinFresh a period).passDue = s.passDue ∧
    (s.joinFresh a period).snapshots = s.snapshots ∧ (s.joinFresh a period).table = s.table ∧
    (s.joinFresh a period).slot = s.slot ∧ (s.joinFresh a period).voting = s.voting ∧
    (s.joinFresh a period).nextProposal = s.nextProposal ∧ (s.joinFresh a period).lastProposal = s.lastProposal ∧
    (s.joinFresh a period).epoch = s.epoch ∧ (s.joinFresh a period).frames = s.frames ∧
    (s.joinFresh a period).pending = s.pending ∧ (s.joinFresh a period).choices = s.choices := by
  simp [State.joinFresh]

/-! ### joinResumed -/

@[simp] theorem State.joinResumed_untouched (s : State) (a : Agent) (period : Nat) :
    (s.joinResumed a period).rstnLow = s.rstnLow ∧ (s.joinResumed a period).mem = s.mem ∧
    (s.joinResumed a period).cellMap = s.cellMap ∧ (s.joinResumed a period).freeList = s.freeList ∧
    (s.joinResumed a period).scrubQueue = s.scrubQueue ∧ (s.joinResumed a period).engine = s.engine ∧
    (s.joinResumed a period).clearLeft = s.clearLeft ∧ (s.joinResumed a period).used = s.used ∧
    (s.joinResumed a period).watches = s.watches ∧ (s.joinResumed a period).descs = s.descs ∧
    (s.joinResumed a period).inUse = s.inUse ∧ (s.joinResumed a period).nextTag = s.nextTag ∧
    (s.joinResumed a period).queues = s.queues ∧ (s.joinResumed a period).hands = s.hands ∧
    (s.joinResumed a period).stagings = s.stagings ∧ (s.joinResumed a period).prescaleCount = s.prescaleCount ∧
    (s.joinResumed a period).periodCount = s.periodCount ∧
    (s.joinResumed a period).postscaleCount = s.postscaleCount ∧ (s.joinResumed a period).ticks = s.ticks ∧
    (s.joinResumed a period).passDue = s.passDue ∧ (s.joinResumed a period).snapshots = s.snapshots ∧
    (s.joinResumed a period).table = s.table ∧ (s.joinResumed a period).slot = s.slot ∧
    (s.joinResumed a period).voting = s.voting ∧ (s.joinResumed a period).nextProposal = s.nextProposal ∧
    (s.joinResumed a period).lastProposal = s.lastProposal ∧ (s.joinResumed a period).epoch = s.epoch ∧
    (s.joinResumed a period).frames = s.frames ∧ (s.joinResumed a period).pending = s.pending ∧
    (s.joinResumed a period).choices = s.choices := by
  simp [State.joinResumed]

/-! ### joinBy -/

@[simp] theorem State.joinBy_untouched (s : State) (p : Agent) (period : Nat) :
    (s.joinBy p period).rstnLow = s.rstnLow ∧ (s.joinBy p period).mem = s.mem ∧
    (s.joinBy p period).freeList = s.freeList ∧ (s.joinBy p period).used = s.used ∧
    (s.joinBy p period).nextTag = s.nextTag ∧ (s.joinBy p period).stagings = s.stagings ∧
    (s.joinBy p period).ticks = s.ticks ∧ (s.joinBy p period).passDue = s.passDue ∧
    (s.joinBy p period).voting = s.voting ∧ (s.joinBy p period).nextProposal = s.nextProposal ∧
    (s.joinBy p period).lastProposal = s.lastProposal ∧ (s.joinBy p period).pending = s.pending ∧
    (s.joinBy p period).choices = s.choices := by
  unfold State.joinBy; (repeat' split) <;> simp

/-! ### answerJoin -/

@[simp] theorem State.answerJoin_untouched (s : State) (p : Agent) (period : Half) :
    (s.answerJoin p period).rstnLow = s.rstnLow ∧ (s.answerJoin p period).mem = s.mem ∧
    (s.answerJoin p period).freeList = s.freeList ∧ (s.answerJoin p period).used = s.used ∧
    (s.answerJoin p period).nextTag = s.nextTag ∧ (s.answerJoin p period).stagings = s.stagings ∧
    (s.answerJoin p period).ticks = s.ticks ∧ (s.answerJoin p period).passDue = s.passDue ∧
    (s.answerJoin p period).voting = s.voting ∧ (s.answerJoin p period).nextProposal = s.nextProposal ∧
    (s.answerJoin p period).lastProposal = s.lastProposal ∧ (s.answerJoin p period).pending = s.pending ∧
    (s.answerJoin p period).choices = s.choices := by
  unfold State.answerJoin State.transact; (repeat' split) <;> simp

/-- What answerJoin can touch. -/
theorem State.answerJoin_frame (s : State) (p : Agent) (period : Half) :
    s.answerJoin p period = { s with
      cellMap := (s.answerJoin p period).cellMap, scrubQueue := (s.answerJoin p period).scrubQueue
      engine := (s.answerJoin p period).engine, clearLeft := (s.answerJoin p period).clearLeft
      watches := (s.answerJoin p period).watches, descs := (s.answerJoin p period).descs
      inUse := (s.answerJoin p period).inUse, queues := (s.answerJoin p period).queues
      hands := (s.answerJoin p period).hands, prescaleCount := (s.answerJoin p period).prescaleCount
      periodCount := (s.answerJoin p period).periodCount, postscaleCount := (s.answerJoin p period).postscaleCount
      members := (s.answerJoin p period).members, notices := (s.answerJoin p period).notices
      snapshots := (s.answerJoin p period).snapshots, latches := (s.answerJoin p period).latches
      table := (s.answerJoin p period).table, slot := (s.answerJoin p period).slot
      epoch := (s.answerJoin p period).epoch, frames := (s.answerJoin p period).frames } := by
  apply State.ext_fields <;> simp

/-! ### leaveToOffline -/

@[simp] theorem State.leaveToOffline_untouched (s : State) (a : Agent) :
    (s.leaveToOffline a).rstnLow = s.rstnLow ∧ (s.leaveToOffline a).mem = s.mem ∧
    (s.leaveToOffline a).cellMap = s.cellMap ∧ (s.leaveToOffline a).freeList = s.freeList ∧
    (s.leaveToOffline a).scrubQueue = s.scrubQueue ∧ (s.leaveToOffline a).engine = s.engine ∧
    (s.leaveToOffline a).clearLeft = s.clearLeft ∧ (s.leaveToOffline a).used = s.used ∧
    (s.leaveToOffline a).descs = s.descs ∧ (s.leaveToOffline a).inUse = s.inUse ∧
    (s.leaveToOffline a).nextTag = s.nextTag ∧ (s.leaveToOffline a).queues = s.queues ∧
    (s.leaveToOffline a).hands = s.hands ∧ (s.leaveToOffline a).stagings = s.stagings ∧
    (s.leaveToOffline a).ticks = s.ticks ∧ (s.leaveToOffline a).passDue = s.passDue ∧
    (s.leaveToOffline a).nextProposal = s.nextProposal ∧ (s.leaveToOffline a).lastProposal = s.lastProposal ∧
    (s.leaveToOffline a).pending = s.pending ∧ (s.leaveToOffline a).choices = s.choices := by
  simp [State.leaveToOffline]

/-! ### leaveToClosing -/

@[simp] theorem State.leaveToClosing_untouched (s : State) (a : Agent) :
    (s.leaveToClosing a).rstnLow = s.rstnLow ∧ (s.leaveToClosing a).mem = s.mem ∧
    (s.leaveToClosing a).cellMap = s.cellMap ∧ (s.leaveToClosing a).freeList = s.freeList ∧
    (s.leaveToClosing a).scrubQueue = s.scrubQueue ∧ (s.leaveToClosing a).engine = s.engine ∧
    (s.leaveToClosing a).clearLeft = s.clearLeft ∧ (s.leaveToClosing a).used = s.used ∧
    (s.leaveToClosing a).descs = s.descs ∧ (s.leaveToClosing a).inUse = s.inUse ∧
    (s.leaveToClosing a).nextTag = s.nextTag ∧ (s.leaveToClosing a).queues = s.queues ∧
    (s.leaveToClosing a).hands = s.hands ∧ (s.leaveToClosing a).stagings = s.stagings ∧
    (s.leaveToClosing a).ticks = s.ticks ∧ (s.leaveToClosing a).passDue = s.passDue ∧
    (s.leaveToClosing a).snapshots = s.snapshots ∧ (s.leaveToClosing a).nextProposal = s.nextProposal ∧
    (s.leaveToClosing a).lastProposal = s.lastProposal ∧ (s.leaveToClosing a).frames = s.frames ∧
    (s.leaveToClosing a).pending = s.pending ∧ (s.leaveToClosing a).choices = s.choices := by
  simp [State.leaveToClosing]

/-! ### leaveBy -/

@[simp] theorem State.leaveBy_untouched (s : State) (p : Agent) :
    (s.leaveBy p).rstnLow = s.rstnLow ∧ (s.leaveBy p).mem = s.mem ∧ (s.leaveBy p).cellMap = s.cellMap ∧
    (s.leaveBy p).freeList = s.freeList ∧ (s.leaveBy p).scrubQueue = s.scrubQueue ∧
    (s.leaveBy p).engine = s.engine ∧ (s.leaveBy p).clearLeft = s.clearLeft ∧ (s.leaveBy p).used = s.used ∧
    (s.leaveBy p).descs = s.descs ∧ (s.leaveBy p).inUse = s.inUse ∧ (s.leaveBy p).nextTag = s.nextTag ∧
    (s.leaveBy p).queues = s.queues ∧ (s.leaveBy p).hands = s.hands ∧ (s.leaveBy p).stagings = s.stagings ∧
    (s.leaveBy p).ticks = s.ticks ∧ (s.leaveBy p).passDue = s.passDue ∧
    (s.leaveBy p).nextProposal = s.nextProposal ∧ (s.leaveBy p).lastProposal = s.lastProposal ∧
    (s.leaveBy p).pending = s.pending ∧ (s.leaveBy p).choices = s.choices := by
  unfold State.leaveBy; (repeat' split) <;> simp

/-! ### answerLeave -/

@[simp] theorem State.answerLeave_untouched (s : State) (p : Agent) :
    (s.answerLeave p).rstnLow = s.rstnLow ∧ (s.answerLeave p).mem = s.mem ∧ (s.answerLeave p).cellMap = s.cellMap ∧
    (s.answerLeave p).freeList = s.freeList ∧ (s.answerLeave p).scrubQueue = s.scrubQueue ∧
    (s.answerLeave p).engine = s.engine ∧ (s.answerLeave p).clearLeft = s.clearLeft ∧
    (s.answerLeave p).used = s.used ∧ (s.answerLeave p).descs = s.descs ∧ (s.answerLeave p).inUse = s.inUse ∧
    (s.answerLeave p).nextTag = s.nextTag ∧ (s.answerLeave p).queues = s.queues ∧
    (s.answerLeave p).hands = s.hands ∧ (s.answerLeave p).stagings = s.stagings ∧
    (s.answerLeave p).ticks = s.ticks ∧ (s.answerLeave p).passDue = s.passDue ∧
    (s.answerLeave p).nextProposal = s.nextProposal ∧ (s.answerLeave p).lastProposal = s.lastProposal ∧
    (s.answerLeave p).pending = s.pending ∧ (s.answerLeave p).choices = s.choices := by
  unfold State.answerLeave State.transact; (repeat' split) <;> simp

/-- What answerLeave can touch. -/
theorem State.answerLeave_frame (s : State) (p : Agent) :
    s.answerLeave p = { s with
      watches := (s.answerLeave p).watches, prescaleCount := (s.answerLeave p).prescaleCount
      periodCount := (s.answerLeave p).periodCount, postscaleCount := (s.answerLeave p).postscaleCount
      members := (s.answerLeave p).members, notices := (s.answerLeave p).notices
      snapshots := (s.answerLeave p).snapshots, latches := (s.answerLeave p).latches
      table := (s.answerLeave p).table, slot := (s.answerLeave p).slot, voting := (s.answerLeave p).voting
      epoch := (s.answerLeave p).epoch, frames := (s.answerLeave p).frames } := by
  apply State.ext_fields <;> simp

/-! ### answerRenew -/

@[simp] theorem State.answerRenew_untouched (s : State) (p : Agent) :
    (s.answerRenew p).rstnLow = s.rstnLow ∧ (s.answerRenew p).mem = s.mem ∧ (s.answerRenew p).cellMap = s.cellMap ∧
    (s.answerRenew p).freeList = s.freeList ∧ (s.answerRenew p).scrubQueue = s.scrubQueue ∧
    (s.answerRenew p).engine = s.engine ∧ (s.answerRenew p).clearLeft = s.clearLeft ∧
    (s.answerRenew p).used = s.used ∧ (s.answerRenew p).watches = s.watches ∧ (s.answerRenew p).descs = s.descs ∧
    (s.answerRenew p).inUse = s.inUse ∧ (s.answerRenew p).nextTag = s.nextTag ∧
    (s.answerRenew p).queues = s.queues ∧ (s.answerRenew p).hands = s.hands ∧
    (s.answerRenew p).stagings = s.stagings ∧ (s.answerRenew p).prescaleCount = s.prescaleCount ∧
    (s.answerRenew p).periodCount = s.periodCount ∧ (s.answerRenew p).postscaleCount = s.postscaleCount ∧
    (s.answerRenew p).ticks = s.ticks ∧ (s.answerRenew p).passDue = s.passDue ∧
    (s.answerRenew p).notices = s.notices ∧ (s.answerRenew p).snapshots = s.snapshots ∧
    (s.answerRenew p).latches = s.latches ∧ (s.answerRenew p).table = s.table ∧ (s.answerRenew p).slot = s.slot ∧
    (s.answerRenew p).voting = s.voting ∧ (s.answerRenew p).nextProposal = s.nextProposal ∧
    (s.answerRenew p).lastProposal = s.lastProposal ∧ (s.answerRenew p).epoch = s.epoch ∧
    (s.answerRenew p).pending = s.pending ∧ (s.answerRenew p).choices = s.choices := by
  unfold State.answerRenew State.transact; (repeat' split) <;> simp

/-- What answerRenew can touch. -/
theorem State.answerRenew_frame (s : State) (p : Agent) :
    s.answerRenew p = { s with
      members := (s.answerRenew p).members, frames := (s.answerRenew p).frames } := by
  apply State.ext_fields <;> simp

/-! ### bindCells -/

@[simp] theorem State.bindCells_untouched (s : State) (c : Charge) (d : DescId) (pos : Nat) (cells : List CellId) :
    (s.bindCells c d pos cells).rstnLow = s.rstnLow ∧ (s.bindCells c d pos cells).mem = s.mem ∧
    (s.bindCells c d pos cells).freeList = s.freeList ∧ (s.bindCells c d pos cells).scrubQueue = s.scrubQueue ∧
    (s.bindCells c d pos cells).engine = s.engine ∧ (s.bindCells c d pos cells).clearLeft = s.clearLeft ∧
    (s.bindCells c d pos cells).used = s.used ∧ (s.bindCells c d pos cells).watches = s.watches ∧
    (s.bindCells c d pos cells).descs = s.descs ∧ (s.bindCells c d pos cells).inUse = s.inUse ∧
    (s.bindCells c d pos cells).nextTag = s.nextTag ∧ (s.bindCells c d pos cells).queues = s.queues ∧
    (s.bindCells c d pos cells).hands = s.hands ∧ (s.bindCells c d pos cells).stagings = s.stagings ∧
    (s.bindCells c d pos cells).prescaleCount = s.prescaleCount ∧
    (s.bindCells c d pos cells).periodCount = s.periodCount ∧
    (s.bindCells c d pos cells).postscaleCount = s.postscaleCount ∧ (s.bindCells c d pos cells).ticks = s.ticks ∧
    (s.bindCells c d pos cells).passDue = s.passDue ∧ (s.bindCells c d pos cells).members = s.members ∧
    (s.bindCells c d pos cells).notices = s.notices ∧ (s.bindCells c d pos cells).snapshots = s.snapshots ∧
    (s.bindCells c d pos cells).latches = s.latches ∧ (s.bindCells c d pos cells).table = s.table ∧
    (s.bindCells c d pos cells).slot = s.slot ∧ (s.bindCells c d pos cells).voting = s.voting ∧
    (s.bindCells c d pos cells).nextProposal = s.nextProposal ∧
    (s.bindCells c d pos cells).lastProposal = s.lastProposal ∧ (s.bindCells c d pos cells).epoch = s.epoch ∧
    (s.bindCells c d pos cells).frames = s.frames ∧ (s.bindCells c d pos cells).pending = s.pending ∧
    (s.bindCells c d pos cells).choices = s.choices := by
  induction cells generalizing s pos with
  | nil => simp [State.bindCells]
  | cons x rest ih => simpa [State.bindCells] using ih (s.setCell x (.bound c d pos)) (pos + 1)

/-! ### stage -/

@[simp] theorem State.stage_untouched (s : State) (p : Agent) (d : DescId) (m : Message) (flags : Byte) :
    (s.stage p d m flags).rstnLow = s.rstnLow ∧ (s.stage p d m flags).mem = s.mem ∧
    (s.stage p d m flags).scrubQueue = s.scrubQueue ∧ (s.stage p d m flags).engine = s.engine ∧
    (s.stage p d m flags).clearLeft = s.clearLeft ∧ (s.stage p d m flags).nextTag = s.nextTag ∧
    (s.stage p d m flags).queues = s.queues ∧ (s.stage p d m flags).hands = s.hands ∧
    (s.stage p d m flags).prescaleCount = s.prescaleCount ∧ (s.stage p d m flags).periodCount = s.periodCount ∧
    (s.stage p d m flags).postscaleCount = s.postscaleCount ∧ (s.stage p d m flags).ticks = s.ticks ∧
    (s.stage p d m flags).passDue = s.passDue ∧ (s.stage p d m flags).members = s.members ∧
    (s.stage p d m flags).snapshots = s.snapshots ∧ (s.stage p d m flags).table = s.table ∧
    (s.stage p d m flags).slot = s.slot ∧ (s.stage p d m flags).voting = s.voting ∧
    (s.stage p d m flags).nextProposal = s.nextProposal ∧ (s.stage p d m flags).lastProposal = s.lastProposal ∧
    (s.stage p d m flags).epoch = s.epoch ∧ (s.stage p d m flags).pending = s.pending ∧
    (s.stage p d m flags).choices = s.choices := by
  simp [State.stage]

/-- What stage can touch. -/
theorem State.stage_frame (s : State) (p : Agent) (d : DescId) (m : Message) (flags : Byte) :
    s.stage p d m flags = { s with
      cellMap := (s.stage p d m flags).cellMap, freeList := (s.stage p d m flags).freeList
      used := (s.stage p d m flags).used, watches := (s.stage p d m flags).watches
      descs := (s.stage p d m flags).descs, inUse := (s.stage p d m flags).inUse
      stagings := (s.stage p d m flags).stagings, notices := (s.stage p d m flags).notices
      latches := (s.stage p d m flags).latches, frames := (s.stage p d m flags).frames } := by
  apply State.ext_fields <;> simp

/-! ### answerHeader -/

@[simp] theorem State.answerHeader_untouched (s : State) (p : Agent) (dest cls flags : Byte) (len : Half) :
    (s.answerHeader p dest cls flags len).rstnLow = s.rstnLow ∧ (s.answerHeader p dest cls flags len).mem = s.mem ∧
    (s.answerHeader p dest cls flags len).scrubQueue = s.scrubQueue ∧
    (s.answerHeader p dest cls flags len).engine = s.engine ∧
    (s.answerHeader p dest cls flags len).clearLeft = s.clearLeft ∧
    (s.answerHeader p dest cls flags len).nextTag = s.nextTag ∧
    (s.answerHeader p dest cls flags len).queues = s.queues ∧
    (s.answerHeader p dest cls flags len).hands = s.hands ∧
    (s.answerHeader p dest cls flags len).prescaleCount = s.prescaleCount ∧
    (s.answerHeader p dest cls flags len).periodCount = s.periodCount ∧
    (s.answerHeader p dest cls flags len).postscaleCount = s.postscaleCount ∧
    (s.answerHeader p dest cls flags len).ticks = s.ticks ∧
    (s.answerHeader p dest cls flags len).passDue = s.passDue ∧
    (s.answerHeader p dest cls flags len).members = s.members ∧
    (s.answerHeader p dest cls flags len).snapshots = s.snapshots ∧
    (s.answerHeader p dest cls flags len).table = s.table ∧ (s.answerHeader p dest cls flags len).slot = s.slot ∧
    (s.answerHeader p dest cls flags len).voting = s.voting ∧
    (s.answerHeader p dest cls flags len).nextProposal = s.nextProposal ∧
    (s.answerHeader p dest cls flags len).lastProposal = s.lastProposal ∧
    (s.answerHeader p dest cls flags len).epoch = s.epoch ∧
    (s.answerHeader p dest cls flags len).pending = s.pending ∧
    (s.answerHeader p dest cls flags len).choices = s.choices := by
  unfold State.answerHeader State.transact; (repeat' split) <;> simp

/-- What answerHeader can touch. -/
theorem State.answerHeader_frame (s : State) (p : Agent) (dest cls flags : Byte) (len : Half) :
    s.answerHeader p dest cls flags len = { s with
      cellMap := (s.answerHeader p dest cls flags len).cellMap
      freeList := (s.answerHeader p dest cls flags len).freeList
      used := (s.answerHeader p dest cls flags len).used, watches := (s.answerHeader p dest cls flags len).watches
      descs := (s.answerHeader p dest cls flags len).descs, inUse := (s.answerHeader p dest cls flags len).inUse
      stagings := (s.answerHeader p dest cls flags len).stagings
      notices := (s.answerHeader p dest cls flags len).notices
      latches := (s.answerHeader p dest cls flags len).latches
      frames := (s.answerHeader p dest cls flags len).frames } := by
  apply State.ext_fields <;> simp

/-! ### advanceByte -/

@[simp] theorem State.advanceByte_untouched (s : State) (p : Agent) :
    (s.advanceByte p).rstnLow = s.rstnLow ∧ (s.advanceByte p).mem = s.mem ∧ (s.advanceByte p).cellMap = s.cellMap ∧
    (s.advanceByte p).freeList = s.freeList ∧ (s.advanceByte p).scrubQueue = s.scrubQueue ∧
    (s.advanceByte p).engine = s.engine ∧ (s.advanceByte p).clearLeft = s.clearLeft ∧
    (s.advanceByte p).used = s.used ∧ (s.advanceByte p).watches = s.watches ∧ (s.advanceByte p).descs = s.descs ∧
    (s.advanceByte p).inUse = s.inUse ∧ (s.advanceByte p).nextTag = s.nextTag ∧
    (s.advanceByte p).queues = s.queues ∧ (s.advanceByte p).hands = s.hands ∧
    (s.advanceByte p).stagings = s.stagings ∧ (s.advanceByte p).prescaleCount = s.prescaleCount ∧
    (s.advanceByte p).periodCount = s.periodCount ∧ (s.advanceByte p).postscaleCount = s.postscaleCount ∧
    (s.advanceByte p).ticks = s.ticks ∧ (s.advanceByte p).passDue = s.passDue ∧
    (s.advanceByte p).members = s.members ∧ (s.advanceByte p).notices = s.notices ∧
    (s.advanceByte p).snapshots = s.snapshots ∧ (s.advanceByte p).latches = s.latches ∧
    (s.advanceByte p).table = s.table ∧ (s.advanceByte p).slot = s.slot ∧ (s.advanceByte p).voting = s.voting ∧
    (s.advanceByte p).nextProposal = s.nextProposal ∧ (s.advanceByte p).lastProposal = s.lastProposal ∧
    (s.advanceByte p).epoch = s.epoch ∧ (s.advanceByte p).pending = s.pending ∧
    (s.advanceByte p).choices = s.choices := by
  simp [State.advanceByte]

/-! ### takeCorrByte -/

@[simp] theorem State.takeCorrByte_untouched (s : State) (p : Agent) (c : StagingContext) (m : Message) (b : Byte) :
    (s.takeCorrByte p c m b).rstnLow = s.rstnLow ∧ (s.takeCorrByte p c m b).mem = s.mem ∧
    (s.takeCorrByte p c m b).cellMap = s.cellMap ∧ (s.takeCorrByte p c m b).freeList = s.freeList ∧
    (s.takeCorrByte p c m b).scrubQueue = s.scrubQueue ∧ (s.takeCorrByte p c m b).engine = s.engine ∧
    (s.takeCorrByte p c m b).clearLeft = s.clearLeft ∧ (s.takeCorrByte p c m b).used = s.used ∧
    (s.takeCorrByte p c m b).watches = s.watches ∧ (s.takeCorrByte p c m b).inUse = s.inUse ∧
    (s.takeCorrByte p c m b).nextTag = s.nextTag ∧ (s.takeCorrByte p c m b).queues = s.queues ∧
    (s.takeCorrByte p c m b).hands = s.hands ∧ (s.takeCorrByte p c m b).prescaleCount = s.prescaleCount ∧
    (s.takeCorrByte p c m b).periodCount = s.periodCount ∧
    (s.takeCorrByte p c m b).postscaleCount = s.postscaleCount ∧ (s.takeCorrByte p c m b).ticks = s.ticks ∧
    (s.takeCorrByte p c m b).passDue = s.passDue ∧ (s.takeCorrByte p c m b).members = s.members ∧
    (s.takeCorrByte p c m b).notices = s.notices ∧ (s.takeCorrByte p c m b).snapshots = s.snapshots ∧
    (s.takeCorrByte p c m b).latches = s.latches ∧ (s.takeCorrByte p c m b).table = s.table ∧
    (s.takeCorrByte p c m b).slot = s.slot ∧ (s.takeCorrByte p c m b).voting = s.voting ∧
    (s.takeCorrByte p c m b).nextProposal = s.nextProposal ∧
    (s.takeCorrByte p c m b).lastProposal = s.lastProposal ∧ (s.takeCorrByte p c m b).epoch = s.epoch ∧
    (s.takeCorrByte p c m b).pending = s.pending ∧ (s.takeCorrByte p c m b).choices = s.choices := by
  unfold State.takeCorrByte; (repeat' split) <;> simp

/-! ### writePayload -/

@[simp] theorem State.writePayload_untouched (s : State) (m : Message) (j : Nat) (b : Byte) :
    (s.writePayload m j b).rstnLow = s.rstnLow ∧ (s.writePayload m j b).cellMap = s.cellMap ∧
    (s.writePayload m j b).freeList = s.freeList ∧ (s.writePayload m j b).scrubQueue = s.scrubQueue ∧
    (s.writePayload m j b).engine = s.engine ∧ (s.writePayload m j b).clearLeft = s.clearLeft ∧
    (s.writePayload m j b).used = s.used ∧ (s.writePayload m j b).watches = s.watches ∧
    (s.writePayload m j b).descs = s.descs ∧ (s.writePayload m j b).inUse = s.inUse ∧
    (s.writePayload m j b).nextTag = s.nextTag ∧ (s.writePayload m j b).queues = s.queues ∧
    (s.writePayload m j b).hands = s.hands ∧ (s.writePayload m j b).stagings = s.stagings ∧
    (s.writePayload m j b).prescaleCount = s.prescaleCount ∧ (s.writePayload m j b).periodCount = s.periodCount ∧
    (s.writePayload m j b).postscaleCount = s.postscaleCount ∧ (s.writePayload m j b).ticks = s.ticks ∧
    (s.writePayload m j b).passDue = s.passDue ∧ (s.writePayload m j b).members = s.members ∧
    (s.writePayload m j b).notices = s.notices ∧ (s.writePayload m j b).snapshots = s.snapshots ∧
    (s.writePayload m j b).latches = s.latches ∧ (s.writePayload m j b).table = s.table ∧
    (s.writePayload m j b).slot = s.slot ∧ (s.writePayload m j b).voting = s.voting ∧
    (s.writePayload m j b).nextProposal = s.nextProposal ∧ (s.writePayload m j b).lastProposal = s.lastProposal ∧
    (s.writePayload m j b).epoch = s.epoch ∧ (s.writePayload m j b).frames = s.frames ∧
    (s.writePayload m j b).pending = s.pending ∧ (s.writePayload m j b).choices = s.choices := by
  unfold State.writePayload; (repeat' split) <;> simp

/-! ### takePayloadByte -/

@[simp] theorem State.takePayloadByte_untouched (s : State) (p : Agent) (c : StagingContext) (m : Message) (b : Byte) :
    (s.takePayloadByte p c m b).rstnLow = s.rstnLow ∧ (s.takePayloadByte p c m b).cellMap = s.cellMap ∧
    (s.takePayloadByte p c m b).freeList = s.freeList ∧ (s.takePayloadByte p c m b).scrubQueue = s.scrubQueue ∧
    (s.takePayloadByte p c m b).engine = s.engine ∧ (s.takePayloadByte p c m b).clearLeft = s.clearLeft ∧
    (s.takePayloadByte p c m b).used = s.used ∧ (s.takePayloadByte p c m b).watches = s.watches ∧
    (s.takePayloadByte p c m b).descs = s.descs ∧ (s.takePayloadByte p c m b).inUse = s.inUse ∧
    (s.takePayloadByte p c m b).nextTag = s.nextTag ∧ (s.takePayloadByte p c m b).queues = s.queues ∧
    (s.takePayloadByte p c m b).hands = s.hands ∧ (s.takePayloadByte p c m b).prescaleCount = s.prescaleCount ∧
    (s.takePayloadByte p c m b).periodCount = s.periodCount ∧
    (s.takePayloadByte p c m b).postscaleCount = s.postscaleCount ∧ (s.takePayloadByte p c m b).ticks = s.ticks ∧
    (s.takePayloadByte p c m b).passDue = s.passDue ∧ (s.takePayloadByte p c m b).members = s.members ∧
    (s.takePayloadByte p c m b).notices = s.notices ∧ (s.takePayloadByte p c m b).snapshots = s.snapshots ∧
    (s.takePayloadByte p c m b).latches = s.latches ∧ (s.takePayloadByte p c m b).table = s.table ∧
    (s.takePayloadByte p c m b).slot = s.slot ∧ (s.takePayloadByte p c m b).voting = s.voting ∧
    (s.takePayloadByte p c m b).nextProposal = s.nextProposal ∧
    (s.takePayloadByte p c m b).lastProposal = s.lastProposal ∧ (s.takePayloadByte p c m b).epoch = s.epoch ∧
    (s.takePayloadByte p c m b).pending = s.pending ∧ (s.takePayloadByte p c m b).choices = s.choices := by
  simp [State.takePayloadByte]

/-! ### takeCheckHigh -/

@[simp] theorem State.takeCheckHigh_untouched (s : State) (p : Agent) (c : StagingContext) (b : Byte) :
    (s.takeCheckHigh p c b).rstnLow = s.rstnLow ∧ (s.takeCheckHigh p c b).mem = s.mem ∧
    (s.takeCheckHigh p c b).cellMap = s.cellMap ∧ (s.takeCheckHigh p c b).freeList = s.freeList ∧
    (s.takeCheckHigh p c b).scrubQueue = s.scrubQueue ∧ (s.takeCheckHigh p c b).engine = s.engine ∧
    (s.takeCheckHigh p c b).clearLeft = s.clearLeft ∧ (s.takeCheckHigh p c b).used = s.used ∧
    (s.takeCheckHigh p c b).watches = s.watches ∧ (s.takeCheckHigh p c b).descs = s.descs ∧
    (s.takeCheckHigh p c b).inUse = s.inUse ∧ (s.takeCheckHigh p c b).nextTag = s.nextTag ∧
    (s.takeCheckHigh p c b).queues = s.queues ∧ (s.takeCheckHigh p c b).hands = s.hands ∧
    (s.takeCheckHigh p c b).prescaleCount = s.prescaleCount ∧ (s.takeCheckHigh p c b).periodCount = s.periodCount ∧
    (s.takeCheckHigh p c b).postscaleCount = s.postscaleCount ∧ (s.takeCheckHigh p c b).ticks = s.ticks ∧
    (s.takeCheckHigh p c b).passDue = s.passDue ∧ (s.takeCheckHigh p c b).members = s.members ∧
    (s.takeCheckHigh p c b).notices = s.notices ∧ (s.takeCheckHigh p c b).snapshots = s.snapshots ∧
    (s.takeCheckHigh p c b).latches = s.latches ∧ (s.takeCheckHigh p c b).table = s.table ∧
    (s.takeCheckHigh p c b).slot = s.slot ∧ (s.takeCheckHigh p c b).voting = s.voting ∧
    (s.takeCheckHigh p c b).nextProposal = s.nextProposal ∧ (s.takeCheckHigh p c b).lastProposal = s.lastProposal ∧
    (s.takeCheckHigh p c b).epoch = s.epoch ∧ (s.takeCheckHigh p c b).pending = s.pending ∧
    (s.takeCheckHigh p c b).choices = s.choices := by
  simp [State.takeCheckHigh]

/-! ### takeStagingByte -/

@[simp] theorem State.takeStagingByte_untouched (s : State) (p : Agent) (b : Byte) :
    (s.takeStagingByte p b).rstnLow = s.rstnLow ∧ (s.takeStagingByte p b).cellMap = s.cellMap ∧
    (s.takeStagingByte p b).freeList = s.freeList ∧ (s.takeStagingByte p b).scrubQueue = s.scrubQueue ∧
    (s.takeStagingByte p b).engine = s.engine ∧ (s.takeStagingByte p b).clearLeft = s.clearLeft ∧
    (s.takeStagingByte p b).used = s.used ∧ (s.takeStagingByte p b).watches = s.watches ∧
    (s.takeStagingByte p b).inUse = s.inUse ∧ (s.takeStagingByte p b).nextTag = s.nextTag ∧
    (s.takeStagingByte p b).queues = s.queues ∧ (s.takeStagingByte p b).hands = s.hands ∧
    (s.takeStagingByte p b).prescaleCount = s.prescaleCount ∧ (s.takeStagingByte p b).periodCount = s.periodCount ∧
    (s.takeStagingByte p b).postscaleCount = s.postscaleCount ∧ (s.takeStagingByte p b).ticks = s.ticks ∧
    (s.takeStagingByte p b).passDue = s.passDue ∧ (s.takeStagingByte p b).members = s.members ∧
    (s.takeStagingByte p b).notices = s.notices ∧ (s.takeStagingByte p b).snapshots = s.snapshots ∧
    (s.takeStagingByte p b).latches = s.latches ∧ (s.takeStagingByte p b).table = s.table ∧
    (s.takeStagingByte p b).slot = s.slot ∧ (s.takeStagingByte p b).voting = s.voting ∧
    (s.takeStagingByte p b).nextProposal = s.nextProposal ∧ (s.takeStagingByte p b).lastProposal = s.lastProposal ∧
    (s.takeStagingByte p b).epoch = s.epoch ∧ (s.takeStagingByte p b).pending = s.pending ∧
    (s.takeStagingByte p b).choices = s.choices := by
  unfold State.takeStagingByte; (repeat' split) <;> simp

/-- What takeStagingByte can touch. -/
theorem State.takeStagingByte_frame (s : State) (p : Agent) (b : Byte) :
    s.takeStagingByte p b = { s with
      mem := (s.takeStagingByte p b).mem, descs := (s.takeStagingByte p b).descs
      stagings := (s.takeStagingByte p b).stagings, frames := (s.takeStagingByte p b).frames } := by
  apply State.ext_fields <;> simp

/-! ### admitMessage -/

@[simp] theorem State.admitMessage_untouched (s : State) (d : DescId) (m : Message) (t : Half) :
    (s.admitMessage d m t).rstnLow = s.rstnLow ∧ (s.admitMessage d m t).mem = s.mem ∧
    (s.admitMessage d m t).cellMap = s.cellMap ∧ (s.admitMessage d m t).freeList = s.freeList ∧
    (s.admitMessage d m t).scrubQueue = s.scrubQueue ∧ (s.admitMessage d m t).engine = s.engine ∧
    (s.admitMessage d m t).clearLeft = s.clearLeft ∧ (s.admitMessage d m t).used = s.used ∧
    (s.admitMessage d m t).watches = s.watches ∧ (s.admitMessage d m t).inUse = s.inUse ∧
    (s.admitMessage d m t).hands = s.hands ∧ (s.admitMessage d m t).stagings = s.stagings ∧
    (s.admitMessage d m t).prescaleCount = s.prescaleCount ∧ (s.admitMessage d m t).periodCount = s.periodCount ∧
    (s.admitMessage d m t).postscaleCount = s.postscaleCount ∧ (s.admitMessage d m t).ticks = s.ticks ∧
    (s.admitMessage d m t).passDue = s.passDue ∧ (s.admitMessage d m t).members = s.members ∧
    (s.admitMessage d m t).notices = s.notices ∧ (s.admitMessage d m t).snapshots = s.snapshots ∧
    (s.admitMessage d m t).latches = s.latches ∧ (s.admitMessage d m t).table = s.table ∧
    (s.admitMessage d m t).slot = s.slot ∧ (s.admitMessage d m t).voting = s.voting ∧
    (s.admitMessage d m t).nextProposal = s.nextProposal ∧ (s.admitMessage d m t).lastProposal = s.lastProposal ∧
    (s.admitMessage d m t).epoch = s.epoch ∧ (s.admitMessage d m t).frames = s.frames ∧
    (s.admitMessage d m t).pending = s.pending ∧ (s.admitMessage d m t).choices = s.choices := by
  simp [State.admitMessage]

/-! ### endStaging -/

@[simp] theorem State.endStaging_untouched (s : State) (p : Agent) (c : StagingContext) (r : Result) :
    (s.endStaging p c r).rstnLow = s.rstnLow ∧ (s.endStaging p c r).mem = s.mem ∧
    (s.endStaging p c r).freeList = s.freeList ∧ (s.endStaging p c r).used = s.used ∧
    (s.endStaging p c r).nextTag = s.nextTag ∧ (s.endStaging p c r).ticks = s.ticks ∧
    (s.endStaging p c r).passDue = s.passDue ∧ (s.endStaging p c r).voting = s.voting ∧
    (s.endStaging p c r).nextProposal = s.nextProposal ∧ (s.endStaging p c r).lastProposal = s.lastProposal ∧
    (s.endStaging p c r).pending = s.pending ∧ (s.endStaging p c r).choices = s.choices := by
  simp [State.endStaging]

/-! ### admitStaging -/

@[simp] theorem State.admitStaging_untouched (s : State) (p : Agent) (c : StagingContext) (m : Message) :
    (s.admitStaging p c m).rstnLow = s.rstnLow ∧ (s.admitStaging p c m).mem = s.mem ∧
    (s.admitStaging p c m).cellMap = s.cellMap ∧ (s.admitStaging p c m).freeList = s.freeList ∧
    (s.admitStaging p c m).scrubQueue = s.scrubQueue ∧ (s.admitStaging p c m).engine = s.engine ∧
    (s.admitStaging p c m).clearLeft = s.clearLeft ∧ (s.admitStaging p c m).used = s.used ∧
    (s.admitStaging p c m).watches = s.watches ∧ (s.admitStaging p c m).inUse = s.inUse ∧
    (s.admitStaging p c m).hands = s.hands ∧ (s.admitStaging p c m).prescaleCount = s.prescaleCount ∧
    (s.admitStaging p c m).periodCount = s.periodCount ∧ (s.admitStaging p c m).postscaleCount = s.postscaleCount ∧
    (s.admitStaging p c m).ticks = s.ticks ∧ (s.admitStaging p c m).passDue = s.passDue ∧
    (s.admitStaging p c m).members = s.members ∧ (s.admitStaging p c m).notices = s.notices ∧
    (s.admitStaging p c m).snapshots = s.snapshots ∧ (s.admitStaging p c m).latches = s.latches ∧
    (s.admitStaging p c m).table = s.table ∧ (s.admitStaging p c m).slot = s.slot ∧
    (s.admitStaging p c m).voting = s.voting ∧ (s.admitStaging p c m).nextProposal = s.nextProposal ∧
    (s.admitStaging p c m).lastProposal = s.lastProposal ∧ (s.admitStaging p c m).epoch = s.epoch ∧
    (s.admitStaging p c m).pending = s.pending ∧ (s.admitStaging p c m).choices = s.choices := by
  simp [State.admitStaging]

/-! ### takeLastCheck -/

@[simp] theorem State.takeLastCheck_untouched (s : State) (p : Agent) (b : Byte) :
    (s.takeLastCheck p b).rstnLow = s.rstnLow ∧ (s.takeLastCheck p b).mem = s.mem ∧
    (s.takeLastCheck p b).freeList = s.freeList ∧ (s.takeLastCheck p b).used = s.used ∧
    (s.takeLastCheck p b).ticks = s.ticks ∧ (s.takeLastCheck p b).passDue = s.passDue ∧
    (s.takeLastCheck p b).voting = s.voting ∧ (s.takeLastCheck p b).nextProposal = s.nextProposal ∧
    (s.takeLastCheck p b).lastProposal = s.lastProposal ∧ (s.takeLastCheck p b).pending = s.pending ∧
    (s.takeLastCheck p b).choices = s.choices := by
  unfold State.takeLastCheck; (repeat' split) <;> simp

/-- What takeLastCheck can touch. -/
theorem State.takeLastCheck_frame (s : State) (p : Agent) (b : Byte) :
    s.takeLastCheck p b = { s with
      cellMap := (s.takeLastCheck p b).cellMap, scrubQueue := (s.takeLastCheck p b).scrubQueue
      engine := (s.takeLastCheck p b).engine, clearLeft := (s.takeLastCheck p b).clearLeft
      watches := (s.takeLastCheck p b).watches, descs := (s.takeLastCheck p b).descs
      inUse := (s.takeLastCheck p b).inUse, nextTag := (s.takeLastCheck p b).nextTag
      queues := (s.takeLastCheck p b).queues, hands := (s.takeLastCheck p b).hands
      stagings := (s.takeLastCheck p b).stagings, prescaleCount := (s.takeLastCheck p b).prescaleCount
      periodCount := (s.takeLastCheck p b).periodCount, postscaleCount := (s.takeLastCheck p b).postscaleCount
      members := (s.takeLastCheck p b).members, notices := (s.takeLastCheck p b).notices
      snapshots := (s.takeLastCheck p b).snapshots, latches := (s.takeLastCheck p b).latches
      table := (s.takeLastCheck p b).table, slot := (s.takeLastCheck p b).slot
      epoch := (s.takeLastCheck p b).epoch, frames := (s.takeLastCheck p b).frames } := by
  apply State.ext_fields <;> simp

/-! ### takeIntoHand -/

@[simp] theorem State.takeIntoHand_untouched (s : State) (a : Agent) (k : MsgClass) (d : DescId) (m : Message) (adm : Admission) (rest : List DescId) :
    (s.takeIntoHand a k d m adm rest).rstnLow = s.rstnLow ∧ (s.takeIntoHand a k d m adm rest).mem = s.mem ∧
    (s.takeIntoHand a k d m adm rest).cellMap = s.cellMap ∧
    (s.takeIntoHand a k d m adm rest).freeList = s.freeList ∧
    (s.takeIntoHand a k d m adm rest).scrubQueue = s.scrubQueue ∧
    (s.takeIntoHand a k d m adm rest).engine = s.engine ∧
    (s.takeIntoHand a k d m adm rest).clearLeft = s.clearLeft ∧ (s.takeIntoHand a k d m adm rest).used = s.used ∧
    (s.takeIntoHand a k d m adm rest).watches = s.watches ∧ (s.takeIntoHand a k d m adm rest).inUse = s.inUse ∧
    (s.takeIntoHand a k d m adm rest).nextTag = s.nextTag ∧
    (s.takeIntoHand a k d m adm rest).stagings = s.stagings ∧
    (s.takeIntoHand a k d m adm rest).prescaleCount = s.prescaleCount ∧
    (s.takeIntoHand a k d m adm rest).periodCount = s.periodCount ∧
    (s.takeIntoHand a k d m adm rest).postscaleCount = s.postscaleCount ∧
    (s.takeIntoHand a k d m adm rest).ticks = s.ticks ∧ (s.takeIntoHand a k d m adm rest).passDue = s.passDue ∧
    (s.takeIntoHand a k d m adm rest).members = s.members ∧ (s.takeIntoHand a k d m adm rest).notices = s.notices ∧
    (s.takeIntoHand a k d m adm rest).snapshots = s.snapshots ∧
    (s.takeIntoHand a k d m adm rest).latches = s.latches ∧ (s.takeIntoHand a k d m adm rest).table = s.table ∧
    (s.takeIntoHand a k d m adm rest).slot = s.slot ∧ (s.takeIntoHand a k d m adm rest).voting = s.voting ∧
    (s.takeIntoHand a k d m adm rest).nextProposal = s.nextProposal ∧
    (s.takeIntoHand a k d m adm rest).lastProposal = s.lastProposal ∧
    (s.takeIntoHand a k d m adm rest).epoch = s.epoch ∧ (s.takeIntoHand a k d m adm rest).frames = s.frames ∧
    (s.takeIntoHand a k d m adm rest).pending = s.pending ∧ (s.takeIntoHand a k d m adm rest).choices = s.choices := by
  simp [State.takeIntoHand]

/-! ### fetchClass -/

@[simp] theorem State.fetchClass_untouched (s : State) (p : Agent) (k : MsgClass) :
    (s.fetchClass p k).rstnLow = s.rstnLow ∧ (s.fetchClass p k).mem = s.mem ∧
    (s.fetchClass p k).cellMap = s.cellMap ∧ (s.fetchClass p k).freeList = s.freeList ∧
    (s.fetchClass p k).scrubQueue = s.scrubQueue ∧ (s.fetchClass p k).engine = s.engine ∧
    (s.fetchClass p k).clearLeft = s.clearLeft ∧ (s.fetchClass p k).used = s.used ∧
    (s.fetchClass p k).watches = s.watches ∧ (s.fetchClass p k).inUse = s.inUse ∧
    (s.fetchClass p k).nextTag = s.nextTag ∧ (s.fetchClass p k).stagings = s.stagings ∧
    (s.fetchClass p k).prescaleCount = s.prescaleCount ∧ (s.fetchClass p k).periodCount = s.periodCount ∧
    (s.fetchClass p k).postscaleCount = s.postscaleCount ∧ (s.fetchClass p k).ticks = s.ticks ∧
    (s.fetchClass p k).passDue = s.passDue ∧ (s.fetchClass p k).members = s.members ∧
    (s.fetchClass p k).notices = s.notices ∧ (s.fetchClass p k).snapshots = s.snapshots ∧
    (s.fetchClass p k).latches = s.latches ∧ (s.fetchClass p k).table = s.table ∧ (s.fetchClass p k).slot = s.slot ∧
    (s.fetchClass p k).voting = s.voting ∧ (s.fetchClass p k).nextProposal = s.nextProposal ∧
    (s.fetchClass p k).lastProposal = s.lastProposal ∧ (s.fetchClass p k).epoch = s.epoch ∧
    (s.fetchClass p k).pending = s.pending ∧ (s.fetchClass p k).choices = s.choices := by
  unfold State.fetchClass; (repeat' split) <;> simp

/-! ### fetchBy -/

@[simp] theorem State.fetchBy_untouched (s : State) (p : Agent) (sel : Selector) :
    (s.fetchBy p sel).rstnLow = s.rstnLow ∧ (s.fetchBy p sel).mem = s.mem ∧ (s.fetchBy p sel).cellMap = s.cellMap ∧
    (s.fetchBy p sel).freeList = s.freeList ∧ (s.fetchBy p sel).scrubQueue = s.scrubQueue ∧
    (s.fetchBy p sel).engine = s.engine ∧ (s.fetchBy p sel).clearLeft = s.clearLeft ∧
    (s.fetchBy p sel).used = s.used ∧ (s.fetchBy p sel).watches = s.watches ∧ (s.fetchBy p sel).inUse = s.inUse ∧
    (s.fetchBy p sel).nextTag = s.nextTag ∧ (s.fetchBy p sel).stagings = s.stagings ∧
    (s.fetchBy p sel).prescaleCount = s.prescaleCount ∧ (s.fetchBy p sel).periodCount = s.periodCount ∧
    (s.fetchBy p sel).postscaleCount = s.postscaleCount ∧ (s.fetchBy p sel).ticks = s.ticks ∧
    (s.fetchBy p sel).passDue = s.passDue ∧ (s.fetchBy p sel).members = s.members ∧
    (s.fetchBy p sel).notices = s.notices ∧ (s.fetchBy p sel).snapshots = s.snapshots ∧
    (s.fetchBy p sel).latches = s.latches ∧ (s.fetchBy p sel).table = s.table ∧ (s.fetchBy p sel).slot = s.slot ∧
    (s.fetchBy p sel).voting = s.voting ∧ (s.fetchBy p sel).nextProposal = s.nextProposal ∧
    (s.fetchBy p sel).lastProposal = s.lastProposal ∧ (s.fetchBy p sel).epoch = s.epoch ∧
    (s.fetchBy p sel).pending = s.pending ∧ (s.fetchBy p sel).choices = s.choices := by
  unfold State.fetchBy; (repeat' split) <;> simp

/-! ### answerFetch -/

@[simp] theorem State.answerFetch_untouched (s : State) (p : Agent) (sel : Byte) :
    (s.answerFetch p sel).rstnLow = s.rstnLow ∧ (s.answerFetch p sel).mem = s.mem ∧
    (s.answerFetch p sel).cellMap = s.cellMap ∧ (s.answerFetch p sel).freeList = s.freeList ∧
    (s.answerFetch p sel).scrubQueue = s.scrubQueue ∧ (s.answerFetch p sel).engine = s.engine ∧
    (s.answerFetch p sel).clearLeft = s.clearLeft ∧ (s.answerFetch p sel).used = s.used ∧
    (s.answerFetch p sel).watches = s.watches ∧ (s.answerFetch p sel).inUse = s.inUse ∧
    (s.answerFetch p sel).nextTag = s.nextTag ∧ (s.answerFetch p sel).stagings = s.stagings ∧
    (s.answerFetch p sel).prescaleCount = s.prescaleCount ∧ (s.answerFetch p sel).periodCount = s.periodCount ∧
    (s.answerFetch p sel).postscaleCount = s.postscaleCount ∧ (s.answerFetch p sel).ticks = s.ticks ∧
    (s.answerFetch p sel).passDue = s.passDue ∧ (s.answerFetch p sel).members = s.members ∧
    (s.answerFetch p sel).notices = s.notices ∧ (s.answerFetch p sel).snapshots = s.snapshots ∧
    (s.answerFetch p sel).latches = s.latches ∧ (s.answerFetch p sel).table = s.table ∧
    (s.answerFetch p sel).slot = s.slot ∧ (s.answerFetch p sel).voting = s.voting ∧
    (s.answerFetch p sel).nextProposal = s.nextProposal ∧ (s.answerFetch p sel).lastProposal = s.lastProposal ∧
    (s.answerFetch p sel).epoch = s.epoch ∧ (s.answerFetch p sel).pending = s.pending ∧
    (s.answerFetch p sel).choices = s.choices := by
  unfold State.answerFetch State.transact; (repeat' split) <;> simp

/-- What answerFetch can touch. -/
theorem State.answerFetch_frame (s : State) (p : Agent) (sel : Byte) :
    s.answerFetch p sel = { s with
      descs := (s.answerFetch p sel).descs, queues := (s.answerFetch p sel).queues
      hands := (s.answerFetch p sel).hands, frames := (s.answerFetch p sel).frames } := by
  apply State.ext_fields <;> simp

/-! ### ackBy -/

@[simp] theorem State.ackBy_untouched (s : State) (p : Agent) (cls : Byte) (tag : Half) :
    (s.ackBy p cls tag).rstnLow = s.rstnLow ∧ (s.ackBy p cls tag).mem = s.mem ∧
    (s.ackBy p cls tag).freeList = s.freeList ∧ (s.ackBy p cls tag).used = s.used ∧
    (s.ackBy p cls tag).nextTag = s.nextTag ∧ (s.ackBy p cls tag).stagings = s.stagings ∧
    (s.ackBy p cls tag).ticks = s.ticks ∧ (s.ackBy p cls tag).passDue = s.passDue ∧
    (s.ackBy p cls tag).voting = s.voting ∧ (s.ackBy p cls tag).nextProposal = s.nextProposal ∧
    (s.ackBy p cls tag).lastProposal = s.lastProposal ∧ (s.ackBy p cls tag).pending = s.pending ∧
    (s.ackBy p cls tag).choices = s.choices := by
  unfold State.ackBy; (repeat' split) <;> simp

/-! ### answerAck -/

@[simp] theorem State.answerAck_untouched (s : State) (p : Agent) (cls : Byte) (tag : Half) :
    (s.answerAck p cls tag).rstnLow = s.rstnLow ∧ (s.answerAck p cls tag).mem = s.mem ∧
    (s.answerAck p cls tag).freeList = s.freeList ∧ (s.answerAck p cls tag).used = s.used ∧
    (s.answerAck p cls tag).nextTag = s.nextTag ∧ (s.answerAck p cls tag).stagings = s.stagings ∧
    (s.answerAck p cls tag).ticks = s.ticks ∧ (s.answerAck p cls tag).passDue = s.passDue ∧
    (s.answerAck p cls tag).voting = s.voting ∧ (s.answerAck p cls tag).nextProposal = s.nextProposal ∧
    (s.answerAck p cls tag).lastProposal = s.lastProposal ∧ (s.answerAck p cls tag).pending = s.pending ∧
    (s.answerAck p cls tag).choices = s.choices := by
  unfold State.answerAck State.transact; (repeat' split) <;> simp

/-- What answerAck can touch. -/
theorem State.answerAck_frame (s : State) (p : Agent) (cls : Byte) (tag : Half) :
    s.answerAck p cls tag = { s with
      cellMap := (s.answerAck p cls tag).cellMap, scrubQueue := (s.answerAck p cls tag).scrubQueue
      engine := (s.answerAck p cls tag).engine, clearLeft := (s.answerAck p cls tag).clearLeft
      watches := (s.answerAck p cls tag).watches, descs := (s.answerAck p cls tag).descs
      inUse := (s.answerAck p cls tag).inUse, queues := (s.answerAck p cls tag).queues
      hands := (s.answerAck p cls tag).hands, prescaleCount := (s.answerAck p cls tag).prescaleCount
      periodCount := (s.answerAck p cls tag).periodCount, postscaleCount := (s.answerAck p cls tag).postscaleCount
      members := (s.answerAck p cls tag).members, notices := (s.answerAck p cls tag).notices
      snapshots := (s.answerAck p cls tag).snapshots, latches := (s.answerAck p cls tag).latches
      table := (s.answerAck p cls tag).table, slot := (s.answerAck p cls tag).slot
      epoch := (s.answerAck p cls tag).epoch, frames := (s.answerAck p cls tag).frames } := by
  apply State.ext_fields <;> simp

/-! ### nackBy -/

@[simp] theorem State.nackBy_untouched (s : State) (p : Agent) (cls : Byte) (tag : Half) :
    (s.nackBy p cls tag).rstnLow = s.rstnLow ∧ (s.nackBy p cls tag).mem = s.mem ∧
    (s.nackBy p cls tag).freeList = s.freeList ∧ (s.nackBy p cls tag).used = s.used ∧
    (s.nackBy p cls tag).nextTag = s.nextTag ∧ (s.nackBy p cls tag).stagings = s.stagings ∧
    (s.nackBy p cls tag).ticks = s.ticks ∧ (s.nackBy p cls tag).passDue = s.passDue ∧
    (s.nackBy p cls tag).voting = s.voting ∧ (s.nackBy p cls tag).nextProposal = s.nextProposal ∧
    (s.nackBy p cls tag).lastProposal = s.lastProposal ∧ (s.nackBy p cls tag).pending = s.pending ∧
    (s.nackBy p cls tag).choices = s.choices := by
  unfold State.nackBy; (repeat' split) <;> simp

/-! ### answerNack -/

@[simp] theorem State.answerNack_untouched (s : State) (p : Agent) (cls : Byte) (tag : Half) :
    (s.answerNack p cls tag).rstnLow = s.rstnLow ∧ (s.answerNack p cls tag).mem = s.mem ∧
    (s.answerNack p cls tag).freeList = s.freeList ∧ (s.answerNack p cls tag).used = s.used ∧
    (s.answerNack p cls tag).nextTag = s.nextTag ∧ (s.answerNack p cls tag).stagings = s.stagings ∧
    (s.answerNack p cls tag).ticks = s.ticks ∧ (s.answerNack p cls tag).passDue = s.passDue ∧
    (s.answerNack p cls tag).voting = s.voting ∧ (s.answerNack p cls tag).nextProposal = s.nextProposal ∧
    (s.answerNack p cls tag).lastProposal = s.lastProposal ∧ (s.answerNack p cls tag).pending = s.pending ∧
    (s.answerNack p cls tag).choices = s.choices := by
  unfold State.answerNack State.transact; (repeat' split) <;> simp

/-- What answerNack can touch. -/
theorem State.answerNack_frame (s : State) (p : Agent) (cls : Byte) (tag : Half) :
    s.answerNack p cls tag = { s with
      cellMap := (s.answerNack p cls tag).cellMap, scrubQueue := (s.answerNack p cls tag).scrubQueue
      engine := (s.answerNack p cls tag).engine, clearLeft := (s.answerNack p cls tag).clearLeft
      watches := (s.answerNack p cls tag).watches, descs := (s.answerNack p cls tag).descs
      inUse := (s.answerNack p cls tag).inUse, queues := (s.answerNack p cls tag).queues
      hands := (s.answerNack p cls tag).hands, prescaleCount := (s.answerNack p cls tag).prescaleCount
      periodCount := (s.answerNack p cls tag).periodCount
      postscaleCount := (s.answerNack p cls tag).postscaleCount, members := (s.answerNack p cls tag).members
      notices := (s.answerNack p cls tag).notices, snapshots := (s.answerNack p cls tag).snapshots
      latches := (s.answerNack p cls tag).latches, table := (s.answerNack p cls tag).table
      slot := (s.answerNack p cls tag).slot, epoch := (s.answerNack p cls tag).epoch
      frames := (s.answerNack p cls tag).frames } := by
  apply State.ext_fields <;> simp

/-! ### recallSearch -/

@[simp] theorem State.recallSearch_untouched (s : State) (p d : Agent) (k : MsgClass) (t : Half) :
    (s.recallSearch p d k t).rstnLow = s.rstnLow ∧ (s.recallSearch p d k t).mem = s.mem ∧
    (s.recallSearch p d k t).freeList = s.freeList ∧ (s.recallSearch p d k t).used = s.used ∧
    (s.recallSearch p d k t).nextTag = s.nextTag ∧ (s.recallSearch p d k t).stagings = s.stagings ∧
    (s.recallSearch p d k t).ticks = s.ticks ∧ (s.recallSearch p d k t).passDue = s.passDue ∧
    (s.recallSearch p d k t).voting = s.voting ∧ (s.recallSearch p d k t).nextProposal = s.nextProposal ∧
    (s.recallSearch p d k t).lastProposal = s.lastProposal ∧ (s.recallSearch p d k t).pending = s.pending ∧
    (s.recallSearch p d k t).choices = s.choices := by
  unfold State.recallSearch; (repeat' split) <;> simp

/-! ### recallBy -/

@[simp] theorem State.recallBy_untouched (s : State) (p : Agent) (dest cls : Byte) (t : Half) :
    (s.recallBy p dest cls t).rstnLow = s.rstnLow ∧ (s.recallBy p dest cls t).mem = s.mem ∧
    (s.recallBy p dest cls t).freeList = s.freeList ∧ (s.recallBy p dest cls t).used = s.used ∧
    (s.recallBy p dest cls t).nextTag = s.nextTag ∧ (s.recallBy p dest cls t).stagings = s.stagings ∧
    (s.recallBy p dest cls t).ticks = s.ticks ∧ (s.recallBy p dest cls t).passDue = s.passDue ∧
    (s.recallBy p dest cls t).voting = s.voting ∧ (s.recallBy p dest cls t).nextProposal = s.nextProposal ∧
    (s.recallBy p dest cls t).lastProposal = s.lastProposal ∧ (s.recallBy p dest cls t).pending = s.pending ∧
    (s.recallBy p dest cls t).choices = s.choices := by
  unfold State.recallBy; (repeat' split) <;> simp

/-! ### answerRecall -/

@[simp] theorem State.answerRecall_untouched (s : State) (p : Agent) (dest cls : Byte) (t : Half) :
    (s.answerRecall p dest cls t).rstnLow = s.rstnLow ∧ (s.answerRecall p dest cls t).mem = s.mem ∧
    (s.answerRecall p dest cls t).freeList = s.freeList ∧ (s.answerRecall p dest cls t).used = s.used ∧
    (s.answerRecall p dest cls t).nextTag = s.nextTag ∧ (s.answerRecall p dest cls t).stagings = s.stagings ∧
    (s.answerRecall p dest cls t).ticks = s.ticks ∧ (s.answerRecall p dest cls t).passDue = s.passDue ∧
    (s.answerRecall p dest cls t).voting = s.voting ∧ (s.answerRecall p dest cls t).nextProposal = s.nextProposal ∧
    (s.answerRecall p dest cls t).lastProposal = s.lastProposal ∧
    (s.answerRecall p dest cls t).pending = s.pending ∧ (s.answerRecall p dest cls t).choices = s.choices := by
  unfold State.answerRecall State.transact; (repeat' split) <;> simp

/-- What answerRecall can touch. -/
theorem State.answerRecall_frame (s : State) (p : Agent) (dest cls : Byte) (t : Half) :
    s.answerRecall p dest cls t = { s with
      cellMap := (s.answerRecall p dest cls t).cellMap, scrubQueue := (s.answerRecall p dest cls t).scrubQueue
      engine := (s.answerRecall p dest cls t).engine, clearLeft := (s.answerRecall p dest cls t).clearLeft
      watches := (s.answerRecall p dest cls t).watches, descs := (s.answerRecall p dest cls t).descs
      inUse := (s.answerRecall p dest cls t).inUse, queues := (s.answerRecall p dest cls t).queues
      hands := (s.answerRecall p dest cls t).hands, prescaleCount := (s.answerRecall p dest cls t).prescaleCount
      periodCount := (s.answerRecall p dest cls t).periodCount
      postscaleCount := (s.answerRecall p dest cls t).postscaleCount
      members := (s.answerRecall p dest cls t).members, notices := (s.answerRecall p dest cls t).notices
      snapshots := (s.answerRecall p dest cls t).snapshots, latches := (s.answerRecall p dest cls t).latches
      table := (s.answerRecall p dest cls t).table, slot := (s.answerRecall p dest cls t).slot
      epoch := (s.answerRecall p dest cls t).epoch, frames := (s.answerRecall p dest cls t).frames } := by
  apply State.ext_fields <;> simp

/-! ### setWatchTo -/

@[simp] theorem State.setWatchTo_untouched (s : State) (p : Agent) (k : MsgClass) (threshold : Nat) :
    (s.setWatchTo p k threshold).rstnLow = s.rstnLow ∧ (s.setWatchTo p k threshold).mem = s.mem ∧
    (s.setWatchTo p k threshold).cellMap = s.cellMap ∧ (s.setWatchTo p k threshold).freeList = s.freeList ∧
    (s.setWatchTo p k threshold).scrubQueue = s.scrubQueue ∧ (s.setWatchTo p k threshold).engine = s.engine ∧
    (s.setWatchTo p k threshold).clearLeft = s.clearLeft ∧ (s.setWatchTo p k threshold).used = s.used ∧
    (s.setWatchTo p k threshold).descs = s.descs ∧ (s.setWatchTo p k threshold).inUse = s.inUse ∧
    (s.setWatchTo p k threshold).nextTag = s.nextTag ∧ (s.setWatchTo p k threshold).queues = s.queues ∧
    (s.setWatchTo p k threshold).hands = s.hands ∧ (s.setWatchTo p k threshold).stagings = s.stagings ∧
    (s.setWatchTo p k threshold).prescaleCount = s.prescaleCount ∧
    (s.setWatchTo p k threshold).periodCount = s.periodCount ∧
    (s.setWatchTo p k threshold).postscaleCount = s.postscaleCount ∧ (s.setWatchTo p k threshold).ticks = s.ticks ∧
    (s.setWatchTo p k threshold).passDue = s.passDue ∧ (s.setWatchTo p k threshold).members = s.members ∧
    (s.setWatchTo p k threshold).snapshots = s.snapshots ∧ (s.setWatchTo p k threshold).table = s.table ∧
    (s.setWatchTo p k threshold).slot = s.slot ∧ (s.setWatchTo p k threshold).voting = s.voting ∧
    (s.setWatchTo p k threshold).nextProposal = s.nextProposal ∧
    (s.setWatchTo p k threshold).lastProposal = s.lastProposal ∧ (s.setWatchTo p k threshold).epoch = s.epoch ∧
    (s.setWatchTo p k threshold).frames = s.frames ∧ (s.setWatchTo p k threshold).pending = s.pending ∧
    (s.setWatchTo p k threshold).choices = s.choices := by
  unfold State.setWatchTo; (repeat' split) <;> simp

/-! ### watchBy -/

@[simp] theorem State.watchBy_untouched (s : State) (p : Agent) (cls threshold : Byte) :
    (s.watchBy p cls threshold).rstnLow = s.rstnLow ∧ (s.watchBy p cls threshold).mem = s.mem ∧
    (s.watchBy p cls threshold).cellMap = s.cellMap ∧ (s.watchBy p cls threshold).freeList = s.freeList ∧
    (s.watchBy p cls threshold).scrubQueue = s.scrubQueue ∧ (s.watchBy p cls threshold).engine = s.engine ∧
    (s.watchBy p cls threshold).clearLeft = s.clearLeft ∧ (s.watchBy p cls threshold).used = s.used ∧
    (s.watchBy p cls threshold).descs = s.descs ∧ (s.watchBy p cls threshold).inUse = s.inUse ∧
    (s.watchBy p cls threshold).nextTag = s.nextTag ∧ (s.watchBy p cls threshold).queues = s.queues ∧
    (s.watchBy p cls threshold).hands = s.hands ∧ (s.watchBy p cls threshold).stagings = s.stagings ∧
    (s.watchBy p cls threshold).prescaleCount = s.prescaleCount ∧
    (s.watchBy p cls threshold).periodCount = s.periodCount ∧
    (s.watchBy p cls threshold).postscaleCount = s.postscaleCount ∧ (s.watchBy p cls threshold).ticks = s.ticks ∧
    (s.watchBy p cls threshold).passDue = s.passDue ∧ (s.watchBy p cls threshold).members = s.members ∧
    (s.watchBy p cls threshold).snapshots = s.snapshots ∧ (s.watchBy p cls threshold).table = s.table ∧
    (s.watchBy p cls threshold).slot = s.slot ∧ (s.watchBy p cls threshold).voting = s.voting ∧
    (s.watchBy p cls threshold).nextProposal = s.nextProposal ∧
    (s.watchBy p cls threshold).lastProposal = s.lastProposal ∧ (s.watchBy p cls threshold).epoch = s.epoch ∧
    (s.watchBy p cls threshold).pending = s.pending ∧ (s.watchBy p cls threshold).choices = s.choices := by
  unfold State.watchBy; (repeat' split) <;> simp

/-! ### answerWatch -/

@[simp] theorem State.answerWatch_untouched (s : State) (p : Agent) (cls threshold : Byte) :
    (s.answerWatch p cls threshold).rstnLow = s.rstnLow ∧ (s.answerWatch p cls threshold).mem = s.mem ∧
    (s.answerWatch p cls threshold).cellMap = s.cellMap ∧ (s.answerWatch p cls threshold).freeList = s.freeList ∧
    (s.answerWatch p cls threshold).scrubQueue = s.scrubQueue ∧ (s.answerWatch p cls threshold).engine = s.engine ∧
    (s.answerWatch p cls threshold).clearLeft = s.clearLeft ∧ (s.answerWatch p cls threshold).used = s.used ∧
    (s.answerWatch p cls threshold).descs = s.descs ∧ (s.answerWatch p cls threshold).inUse = s.inUse ∧
    (s.answerWatch p cls threshold).nextTag = s.nextTag ∧ (s.answerWatch p cls threshold).queues = s.queues ∧
    (s.answerWatch p cls threshold).hands = s.hands ∧ (s.answerWatch p cls threshold).stagings = s.stagings ∧
    (s.answerWatch p cls threshold).prescaleCount = s.prescaleCount ∧
    (s.answerWatch p cls threshold).periodCount = s.periodCount ∧
    (s.answerWatch p cls threshold).postscaleCount = s.postscaleCount ∧
    (s.answerWatch p cls threshold).ticks = s.ticks ∧ (s.answerWatch p cls threshold).passDue = s.passDue ∧
    (s.answerWatch p cls threshold).members = s.members ∧ (s.answerWatch p cls threshold).snapshots = s.snapshots ∧
    (s.answerWatch p cls threshold).table = s.table ∧ (s.answerWatch p cls threshold).slot = s.slot ∧
    (s.answerWatch p cls threshold).voting = s.voting ∧
    (s.answerWatch p cls threshold).nextProposal = s.nextProposal ∧
    (s.answerWatch p cls threshold).lastProposal = s.lastProposal ∧
    (s.answerWatch p cls threshold).epoch = s.epoch ∧ (s.answerWatch p cls threshold).pending = s.pending ∧
    (s.answerWatch p cls threshold).choices = s.choices := by
  unfold State.answerWatch State.transact; (repeat' split) <;> simp

/-- What answerWatch can touch. -/
theorem State.answerWatch_frame (s : State) (p : Agent) (cls threshold : Byte) :
    s.answerWatch p cls threshold = { s with
      watches := (s.answerWatch p cls threshold).watches, notices := (s.answerWatch p cls threshold).notices
      latches := (s.answerWatch p cls threshold).latches, frames := (s.answerWatch p cls threshold).frames } := by
  apply State.ext_fields <;> simp

/-! ### noticesBy -/

@[simp] theorem State.noticesBy_untouched (s : State) (p : Agent) (max : Byte) :
    (s.noticesBy p max).rstnLow = s.rstnLow ∧ (s.noticesBy p max).mem = s.mem ∧
    (s.noticesBy p max).cellMap = s.cellMap ∧ (s.noticesBy p max).freeList = s.freeList ∧
    (s.noticesBy p max).scrubQueue = s.scrubQueue ∧ (s.noticesBy p max).engine = s.engine ∧
    (s.noticesBy p max).clearLeft = s.clearLeft ∧ (s.noticesBy p max).used = s.used ∧
    (s.noticesBy p max).watches = s.watches ∧ (s.noticesBy p max).descs = s.descs ∧
    (s.noticesBy p max).inUse = s.inUse ∧ (s.noticesBy p max).nextTag = s.nextTag ∧
    (s.noticesBy p max).queues = s.queues ∧ (s.noticesBy p max).hands = s.hands ∧
    (s.noticesBy p max).stagings = s.stagings ∧ (s.noticesBy p max).prescaleCount = s.prescaleCount ∧
    (s.noticesBy p max).periodCount = s.periodCount ∧ (s.noticesBy p max).postscaleCount = s.postscaleCount ∧
    (s.noticesBy p max).ticks = s.ticks ∧ (s.noticesBy p max).passDue = s.passDue ∧
    (s.noticesBy p max).members = s.members ∧ (s.noticesBy p max).notices = s.notices ∧
    (s.noticesBy p max).snapshots = s.snapshots ∧ (s.noticesBy p max).latches = s.latches ∧
    (s.noticesBy p max).table = s.table ∧ (s.noticesBy p max).slot = s.slot ∧
    (s.noticesBy p max).voting = s.voting ∧ (s.noticesBy p max).nextProposal = s.nextProposal ∧
    (s.noticesBy p max).lastProposal = s.lastProposal ∧ (s.noticesBy p max).epoch = s.epoch ∧
    (s.noticesBy p max).pending = s.pending ∧ (s.noticesBy p max).choices = s.choices := by
  unfold State.noticesBy; (repeat' split) <;> simp

/-! ### answerNotices -/

@[simp] theorem State.answerNotices_untouched (s : State) (p : Agent) (max : Byte) :
    (s.answerNotices p max).rstnLow = s.rstnLow ∧ (s.answerNotices p max).mem = s.mem ∧
    (s.answerNotices p max).cellMap = s.cellMap ∧ (s.answerNotices p max).freeList = s.freeList ∧
    (s.answerNotices p max).scrubQueue = s.scrubQueue ∧ (s.answerNotices p max).engine = s.engine ∧
    (s.answerNotices p max).clearLeft = s.clearLeft ∧ (s.answerNotices p max).used = s.used ∧
    (s.answerNotices p max).watches = s.watches ∧ (s.answerNotices p max).descs = s.descs ∧
    (s.answerNotices p max).inUse = s.inUse ∧ (s.answerNotices p max).nextTag = s.nextTag ∧
    (s.answerNotices p max).queues = s.queues ∧ (s.answerNotices p max).hands = s.hands ∧
    (s.answerNotices p max).stagings = s.stagings ∧ (s.answerNotices p max).prescaleCount = s.prescaleCount ∧
    (s.answerNotices p max).periodCount = s.periodCount ∧
    (s.answerNotices p max).postscaleCount = s.postscaleCount ∧ (s.answerNotices p max).ticks = s.ticks ∧
    (s.answerNotices p max).passDue = s.passDue ∧ (s.answerNotices p max).members = s.members ∧
    (s.answerNotices p max).notices = s.notices ∧ (s.answerNotices p max).snapshots = s.snapshots ∧
    (s.answerNotices p max).latches = s.latches ∧ (s.answerNotices p max).table = s.table ∧
    (s.answerNotices p max).slot = s.slot ∧ (s.answerNotices p max).voting = s.voting ∧
    (s.answerNotices p max).nextProposal = s.nextProposal ∧ (s.answerNotices p max).lastProposal = s.lastProposal ∧
    (s.answerNotices p max).epoch = s.epoch ∧ (s.answerNotices p max).pending = s.pending ∧
    (s.answerNotices p max).choices = s.choices := by
  unfold State.answerNotices State.transact; (repeat' split) <;> simp

/-- What answerNotices can touch. -/
theorem State.answerNotices_frame (s : State) (p : Agent) (max : Byte) :
    s.answerNotices p max = { s with
      frames := (s.answerNotices p max).frames } := by
  apply State.ext_fields <;> simp

/-! ### shiftUntil -/

@[simp] theorem State.shiftUntil_untouched (s : State) (p : Agent) (left : Nat) :
    (s.shiftUntil p left).rstnLow = s.rstnLow ∧ (s.shiftUntil p left).mem = s.mem ∧
    (s.shiftUntil p left).cellMap = s.cellMap ∧ (s.shiftUntil p left).freeList = s.freeList ∧
    (s.shiftUntil p left).scrubQueue = s.scrubQueue ∧ (s.shiftUntil p left).engine = s.engine ∧
    (s.shiftUntil p left).clearLeft = s.clearLeft ∧ (s.shiftUntil p left).used = s.used ∧
    (s.shiftUntil p left).watches = s.watches ∧ (s.shiftUntil p left).descs = s.descs ∧
    (s.shiftUntil p left).inUse = s.inUse ∧ (s.shiftUntil p left).nextTag = s.nextTag ∧
    (s.shiftUntil p left).queues = s.queues ∧ (s.shiftUntil p left).hands = s.hands ∧
    (s.shiftUntil p left).stagings = s.stagings ∧ (s.shiftUntil p left).prescaleCount = s.prescaleCount ∧
    (s.shiftUntil p left).periodCount = s.periodCount ∧ (s.shiftUntil p left).postscaleCount = s.postscaleCount ∧
    (s.shiftUntil p left).ticks = s.ticks ∧ (s.shiftUntil p left).passDue = s.passDue ∧
    (s.shiftUntil p left).members = s.members ∧ (s.shiftUntil p left).notices = s.notices ∧
    (s.shiftUntil p left).snapshots = s.snapshots ∧ (s.shiftUntil p left).latches = s.latches ∧
    (s.shiftUntil p left).table = s.table ∧ (s.shiftUntil p left).slot = s.slot ∧
    (s.shiftUntil p left).voting = s.voting ∧ (s.shiftUntil p left).nextProposal = s.nextProposal ∧
    (s.shiftUntil p left).lastProposal = s.lastProposal ∧ (s.shiftUntil p left).epoch = s.epoch ∧
    (s.shiftUntil p left).pending = s.pending ∧ (s.shiftUntil p left).choices = s.choices := by
  simp [State.shiftUntil]

/-! ### removeHead -/

@[simp] theorem State.removeHead_untouched (s : State) (a : Agent) :
    (s.removeHead a).rstnLow = s.rstnLow ∧ (s.removeHead a).mem = s.mem ∧ (s.removeHead a).cellMap = s.cellMap ∧
    (s.removeHead a).freeList = s.freeList ∧ (s.removeHead a).scrubQueue = s.scrubQueue ∧
    (s.removeHead a).engine = s.engine ∧ (s.removeHead a).clearLeft = s.clearLeft ∧ (s.removeHead a).used = s.used ∧
    (s.removeHead a).watches = s.watches ∧ (s.removeHead a).descs = s.descs ∧ (s.removeHead a).inUse = s.inUse ∧
    (s.removeHead a).nextTag = s.nextTag ∧ (s.removeHead a).queues = s.queues ∧ (s.removeHead a).hands = s.hands ∧
    (s.removeHead a).stagings = s.stagings ∧ (s.removeHead a).prescaleCount = s.prescaleCount ∧
    (s.removeHead a).periodCount = s.periodCount ∧ (s.removeHead a).postscaleCount = s.postscaleCount ∧
    (s.removeHead a).ticks = s.ticks ∧ (s.removeHead a).passDue = s.passDue ∧ (s.removeHead a).members = s.members ∧
    (s.removeHead a).snapshots = s.snapshots ∧ (s.removeHead a).table = s.table ∧ (s.removeHead a).slot = s.slot ∧
    (s.removeHead a).voting = s.voting ∧ (s.removeHead a).nextProposal = s.nextProposal ∧
    (s.removeHead a).lastProposal = s.lastProposal ∧ (s.removeHead a).epoch = s.epoch ∧
    (s.removeHead a).frames = s.frames ∧ (s.removeHead a).pending = s.pending ∧ (s.removeHead a).choices = s.choices := by
  unfold State.removeHead; (repeat' split) <;> simp

/-! ### removeRecord -/

@[simp] theorem State.removeRecord_untouched (s : State) (p : Agent) :
    (s.removeRecord p).rstnLow = s.rstnLow ∧ (s.removeRecord p).mem = s.mem ∧
    (s.removeRecord p).cellMap = s.cellMap ∧ (s.removeRecord p).freeList = s.freeList ∧
    (s.removeRecord p).scrubQueue = s.scrubQueue ∧ (s.removeRecord p).engine = s.engine ∧
    (s.removeRecord p).clearLeft = s.clearLeft ∧ (s.removeRecord p).used = s.used ∧
    (s.removeRecord p).watches = s.watches ∧ (s.removeRecord p).descs = s.descs ∧
    (s.removeRecord p).inUse = s.inUse ∧ (s.removeRecord p).nextTag = s.nextTag ∧
    (s.removeRecord p).queues = s.queues ∧ (s.removeRecord p).hands = s.hands ∧
    (s.removeRecord p).stagings = s.stagings ∧ (s.removeRecord p).prescaleCount = s.prescaleCount ∧
    (s.removeRecord p).periodCount = s.periodCount ∧ (s.removeRecord p).postscaleCount = s.postscaleCount ∧
    (s.removeRecord p).ticks = s.ticks ∧ (s.removeRecord p).passDue = s.passDue ∧
    (s.removeRecord p).members = s.members ∧ (s.removeRecord p).snapshots = s.snapshots ∧
    (s.removeRecord p).table = s.table ∧ (s.removeRecord p).slot = s.slot ∧ (s.removeRecord p).voting = s.voting ∧
    (s.removeRecord p).nextProposal = s.nextProposal ∧ (s.removeRecord p).lastProposal = s.lastProposal ∧
    (s.removeRecord p).epoch = s.epoch ∧ (s.removeRecord p).pending = s.pending ∧
    (s.removeRecord p).choices = s.choices := by
  unfold State.removeRecord; dsimp only; (repeat' split) <;> simp

/-- What removeRecord can touch. -/
theorem State.removeRecord_frame (s : State) (p : Agent) :
    s.removeRecord p = { s with
      notices := (s.removeRecord p).notices, latches := (s.removeRecord p).latches
      frames := (s.removeRecord p).frames } := by
  apply State.ext_fields <;> simp

/-! ### latchOverrun -/

@[simp] theorem State.latchOverrun_untouched (s : State) (p : Agent) :
    (s.latchOverrun p).rstnLow = s.rstnLow ∧ (s.latchOverrun p).mem = s.mem ∧
    (s.latchOverrun p).cellMap = s.cellMap ∧ (s.latchOverrun p).freeList = s.freeList ∧
    (s.latchOverrun p).scrubQueue = s.scrubQueue ∧ (s.latchOverrun p).engine = s.engine ∧
    (s.latchOverrun p).clearLeft = s.clearLeft ∧ (s.latchOverrun p).used = s.used ∧
    (s.latchOverrun p).watches = s.watches ∧ (s.latchOverrun p).descs = s.descs ∧
    (s.latchOverrun p).inUse = s.inUse ∧ (s.latchOverrun p).nextTag = s.nextTag ∧
    (s.latchOverrun p).queues = s.queues ∧ (s.latchOverrun p).hands = s.hands ∧
    (s.latchOverrun p).stagings = s.stagings ∧ (s.latchOverrun p).prescaleCount = s.prescaleCount ∧
    (s.latchOverrun p).periodCount = s.periodCount ∧ (s.latchOverrun p).postscaleCount = s.postscaleCount ∧
    (s.latchOverrun p).ticks = s.ticks ∧ (s.latchOverrun p).passDue = s.passDue ∧
    (s.latchOverrun p).members = s.members ∧ (s.latchOverrun p).notices = s.notices ∧
    (s.latchOverrun p).snapshots = s.snapshots ∧ (s.latchOverrun p).table = s.table ∧
    (s.latchOverrun p).slot = s.slot ∧ (s.latchOverrun p).voting = s.voting ∧
    (s.latchOverrun p).nextProposal = s.nextProposal ∧ (s.latchOverrun p).lastProposal = s.lastProposal ∧
    (s.latchOverrun p).epoch = s.epoch ∧ (s.latchOverrun p).pending = s.pending ∧
    (s.latchOverrun p).choices = s.choices := by
  unfold State.latchOverrun; (repeat' split) <;> simp

/-- What latchOverrun can touch. -/
theorem State.latchOverrun_frame (s : State) (p : Agent) :
    s.latchOverrun p = { s with
      latches := (s.latchOverrun p).latches, frames := (s.latchOverrun p).frames } := by
  apply State.ext_fields <;> simp

/-! ### answerSummary -/

@[simp] theorem State.answerSummary_untouched (s : State) (p : Agent) :
    (s.answerSummary p).rstnLow = s.rstnLow ∧ (s.answerSummary p).mem = s.mem ∧
    (s.answerSummary p).cellMap = s.cellMap ∧ (s.answerSummary p).freeList = s.freeList ∧
    (s.answerSummary p).scrubQueue = s.scrubQueue ∧ (s.answerSummary p).engine = s.engine ∧
    (s.answerSummary p).clearLeft = s.clearLeft ∧ (s.answerSummary p).used = s.used ∧
    (s.answerSummary p).watches = s.watches ∧ (s.answerSummary p).descs = s.descs ∧
    (s.answerSummary p).inUse = s.inUse ∧ (s.answerSummary p).nextTag = s.nextTag ∧
    (s.answerSummary p).queues = s.queues ∧ (s.answerSummary p).hands = s.hands ∧
    (s.answerSummary p).stagings = s.stagings ∧ (s.answerSummary p).prescaleCount = s.prescaleCount ∧
    (s.answerSummary p).periodCount = s.periodCount ∧ (s.answerSummary p).postscaleCount = s.postscaleCount ∧
    (s.answerSummary p).ticks = s.ticks ∧ (s.answerSummary p).passDue = s.passDue ∧
    (s.answerSummary p).members = s.members ∧ (s.answerSummary p).notices = s.notices ∧
    (s.answerSummary p).latches = s.latches ∧ (s.answerSummary p).table = s.table ∧
    (s.answerSummary p).slot = s.slot ∧ (s.answerSummary p).voting = s.voting ∧
    (s.answerSummary p).nextProposal = s.nextProposal ∧ (s.answerSummary p).lastProposal = s.lastProposal ∧
    (s.answerSummary p).epoch = s.epoch ∧ (s.answerSummary p).pending = s.pending ∧
    (s.answerSummary p).choices = s.choices := by
  unfold State.answerSummary State.transact; (repeat' split) <;> simp

/-- What answerSummary can touch. -/
theorem State.answerSummary_frame (s : State) (p : Agent) :
    s.answerSummary p = { s with
      snapshots := (s.answerSummary p).snapshots, frames := (s.answerSummary p).frames } := by
  apply State.ext_fields <;> simp

/-! ### readcfgBy -/

@[simp] theorem State.readcfgBy_untouched (s : State) (p : Agent) (sel : Byte) :
    (s.readcfgBy p sel).rstnLow = s.rstnLow ∧ (s.readcfgBy p sel).mem = s.mem ∧
    (s.readcfgBy p sel).cellMap = s.cellMap ∧ (s.readcfgBy p sel).freeList = s.freeList ∧
    (s.readcfgBy p sel).scrubQueue = s.scrubQueue ∧ (s.readcfgBy p sel).engine = s.engine ∧
    (s.readcfgBy p sel).clearLeft = s.clearLeft ∧ (s.readcfgBy p sel).used = s.used ∧
    (s.readcfgBy p sel).watches = s.watches ∧ (s.readcfgBy p sel).descs = s.descs ∧
    (s.readcfgBy p sel).inUse = s.inUse ∧ (s.readcfgBy p sel).nextTag = s.nextTag ∧
    (s.readcfgBy p sel).queues = s.queues ∧ (s.readcfgBy p sel).hands = s.hands ∧
    (s.readcfgBy p sel).stagings = s.stagings ∧ (s.readcfgBy p sel).prescaleCount = s.prescaleCount ∧
    (s.readcfgBy p sel).periodCount = s.periodCount ∧ (s.readcfgBy p sel).postscaleCount = s.postscaleCount ∧
    (s.readcfgBy p sel).ticks = s.ticks ∧ (s.readcfgBy p sel).passDue = s.passDue ∧
    (s.readcfgBy p sel).members = s.members ∧ (s.readcfgBy p sel).notices = s.notices ∧
    (s.readcfgBy p sel).snapshots = s.snapshots ∧ (s.readcfgBy p sel).latches = s.latches ∧
    (s.readcfgBy p sel).table = s.table ∧ (s.readcfgBy p sel).slot = s.slot ∧
    (s.readcfgBy p sel).voting = s.voting ∧ (s.readcfgBy p sel).nextProposal = s.nextProposal ∧
    (s.readcfgBy p sel).lastProposal = s.lastProposal ∧ (s.readcfgBy p sel).epoch = s.epoch ∧
    (s.readcfgBy p sel).pending = s.pending ∧ (s.readcfgBy p sel).choices = s.choices := by
  unfold State.readcfgBy; (repeat' split) <;> simp

/-! ### answerReadcfg -/

@[simp] theorem State.answerReadcfg_untouched (s : State) (p : Agent) (sel : Byte) :
    (s.answerReadcfg p sel).rstnLow = s.rstnLow ∧ (s.answerReadcfg p sel).mem = s.mem ∧
    (s.answerReadcfg p sel).cellMap = s.cellMap ∧ (s.answerReadcfg p sel).freeList = s.freeList ∧
    (s.answerReadcfg p sel).scrubQueue = s.scrubQueue ∧ (s.answerReadcfg p sel).engine = s.engine ∧
    (s.answerReadcfg p sel).clearLeft = s.clearLeft ∧ (s.answerReadcfg p sel).used = s.used ∧
    (s.answerReadcfg p sel).watches = s.watches ∧ (s.answerReadcfg p sel).descs = s.descs ∧
    (s.answerReadcfg p sel).inUse = s.inUse ∧ (s.answerReadcfg p sel).nextTag = s.nextTag ∧
    (s.answerReadcfg p sel).queues = s.queues ∧ (s.answerReadcfg p sel).hands = s.hands ∧
    (s.answerReadcfg p sel).stagings = s.stagings ∧ (s.answerReadcfg p sel).prescaleCount = s.prescaleCount ∧
    (s.answerReadcfg p sel).periodCount = s.periodCount ∧
    (s.answerReadcfg p sel).postscaleCount = s.postscaleCount ∧ (s.answerReadcfg p sel).ticks = s.ticks ∧
    (s.answerReadcfg p sel).passDue = s.passDue ∧ (s.answerReadcfg p sel).members = s.members ∧
    (s.answerReadcfg p sel).notices = s.notices ∧ (s.answerReadcfg p sel).snapshots = s.snapshots ∧
    (s.answerReadcfg p sel).latches = s.latches ∧ (s.answerReadcfg p sel).table = s.table ∧
    (s.answerReadcfg p sel).slot = s.slot ∧ (s.answerReadcfg p sel).voting = s.voting ∧
    (s.answerReadcfg p sel).nextProposal = s.nextProposal ∧ (s.answerReadcfg p sel).lastProposal = s.lastProposal ∧
    (s.answerReadcfg p sel).epoch = s.epoch ∧ (s.answerReadcfg p sel).pending = s.pending ∧
    (s.answerReadcfg p sel).choices = s.choices := by
  unfold State.answerReadcfg State.transact; (repeat' split) <;> simp

/-- What answerReadcfg can touch. -/
theorem State.answerReadcfg_frame (s : State) (p : Agent) (sel : Byte) :
    s.answerReadcfg p sel = { s with
      frames := (s.answerReadcfg p sel).frames } := by
  apply State.ext_fields <;> simp

/-! ### openProposal -/

@[simp] theorem State.openProposal_untouched (s : State) (p : Agent) (t : Table) :
    (s.openProposal p t).rstnLow = s.rstnLow ∧ (s.openProposal p t).mem = s.mem ∧
    (s.openProposal p t).cellMap = s.cellMap ∧ (s.openProposal p t).freeList = s.freeList ∧
    (s.openProposal p t).scrubQueue = s.scrubQueue ∧ (s.openProposal p t).engine = s.engine ∧
    (s.openProposal p t).clearLeft = s.clearLeft ∧ (s.openProposal p t).used = s.used ∧
    (s.openProposal p t).descs = s.descs ∧ (s.openProposal p t).inUse = s.inUse ∧
    (s.openProposal p t).nextTag = s.nextTag ∧ (s.openProposal p t).queues = s.queues ∧
    (s.openProposal p t).hands = s.hands ∧ (s.openProposal p t).stagings = s.stagings ∧
    (s.openProposal p t).ticks = s.ticks ∧ (s.openProposal p t).passDue = s.passDue ∧
    (s.openProposal p t).members = s.members ∧ (s.openProposal p t).snapshots = s.snapshots ∧
    (s.openProposal p t).frames = s.frames ∧ (s.openProposal p t).pending = s.pending ∧
    (s.openProposal p t).choices = s.choices := by
  simp [State.openProposal]

/-! ### proposeBy -/

@[simp] theorem State.proposeBy_untouched (s : State) (p : Agent) (t : Table) :
    (s.proposeBy p t).rstnLow = s.rstnLow ∧ (s.proposeBy p t).mem = s.mem ∧ (s.proposeBy p t).cellMap = s.cellMap ∧
    (s.proposeBy p t).freeList = s.freeList ∧ (s.proposeBy p t).scrubQueue = s.scrubQueue ∧
    (s.proposeBy p t).engine = s.engine ∧ (s.proposeBy p t).clearLeft = s.clearLeft ∧
    (s.proposeBy p t).used = s.used ∧ (s.proposeBy p t).descs = s.descs ∧ (s.proposeBy p t).inUse = s.inUse ∧
    (s.proposeBy p t).nextTag = s.nextTag ∧ (s.proposeBy p t).queues = s.queues ∧
    (s.proposeBy p t).hands = s.hands ∧ (s.proposeBy p t).stagings = s.stagings ∧
    (s.proposeBy p t).ticks = s.ticks ∧ (s.proposeBy p t).passDue = s.passDue ∧
    (s.proposeBy p t).members = s.members ∧ (s.proposeBy p t).snapshots = s.snapshots ∧
    (s.proposeBy p t).pending = s.pending ∧ (s.proposeBy p t).choices = s.choices := by
  unfold State.proposeBy; (repeat' split) <;> simp

/-! ### answerPropose -/

@[simp] theorem State.answerPropose_untouched (s : State) (p : Agent) (image : List Byte) :
    (s.answerPropose p image).rstnLow = s.rstnLow ∧ (s.answerPropose p image).mem = s.mem ∧
    (s.answerPropose p image).cellMap = s.cellMap ∧ (s.answerPropose p image).freeList = s.freeList ∧
    (s.answerPropose p image).scrubQueue = s.scrubQueue ∧ (s.answerPropose p image).engine = s.engine ∧
    (s.answerPropose p image).clearLeft = s.clearLeft ∧ (s.answerPropose p image).used = s.used ∧
    (s.answerPropose p image).descs = s.descs ∧ (s.answerPropose p image).inUse = s.inUse ∧
    (s.answerPropose p image).nextTag = s.nextTag ∧ (s.answerPropose p image).queues = s.queues ∧
    (s.answerPropose p image).hands = s.hands ∧ (s.answerPropose p image).stagings = s.stagings ∧
    (s.answerPropose p image).ticks = s.ticks ∧ (s.answerPropose p image).passDue = s.passDue ∧
    (s.answerPropose p image).members = s.members ∧ (s.answerPropose p image).snapshots = s.snapshots ∧
    (s.answerPropose p image).pending = s.pending ∧ (s.answerPropose p image).choices = s.choices := by
  unfold State.answerPropose State.transact; (repeat' split) <;> simp

/-- What answerPropose can touch. -/
theorem State.answerPropose_frame (s : State) (p : Agent) (image : List Byte) :
    s.answerPropose p image = { s with
      watches := (s.answerPropose p image).watches, prescaleCount := (s.answerPropose p image).prescaleCount
      periodCount := (s.answerPropose p image).periodCount
      postscaleCount := (s.answerPropose p image).postscaleCount, notices := (s.answerPropose p image).notices
      latches := (s.answerPropose p image).latches, table := (s.answerPropose p image).table
      slot := (s.answerPropose p image).slot, voting := (s.answerPropose p image).voting
      nextProposal := (s.answerPropose p image).nextProposal
      lastProposal := (s.answerPropose p image).lastProposal, epoch := (s.answerPropose p image).epoch
      frames := (s.answerPropose p image).frames } := by
  apply State.ext_fields <;> simp

/-! ### addConsent -/

@[simp] theorem State.addConsent_untouched (s : State) (p : Agent) (v : Proposal) :
    (s.addConsent p v).rstnLow = s.rstnLow ∧ (s.addConsent p v).mem = s.mem ∧
    (s.addConsent p v).cellMap = s.cellMap ∧ (s.addConsent p v).freeList = s.freeList ∧
    (s.addConsent p v).scrubQueue = s.scrubQueue ∧ (s.addConsent p v).engine = s.engine ∧
    (s.addConsent p v).clearLeft = s.clearLeft ∧ (s.addConsent p v).used = s.used ∧
    (s.addConsent p v).descs = s.descs ∧ (s.addConsent p v).inUse = s.inUse ∧
    (s.addConsent p v).nextTag = s.nextTag ∧ (s.addConsent p v).queues = s.queues ∧
    (s.addConsent p v).hands = s.hands ∧ (s.addConsent p v).stagings = s.stagings ∧
    (s.addConsent p v).ticks = s.ticks ∧ (s.addConsent p v).passDue = s.passDue ∧
    (s.addConsent p v).members = s.members ∧ (s.addConsent p v).snapshots = s.snapshots ∧
    (s.addConsent p v).nextProposal = s.nextProposal ∧ (s.addConsent p v).lastProposal = s.lastProposal ∧
    (s.addConsent p v).frames = s.frames ∧ (s.addConsent p v).pending = s.pending ∧
    (s.addConsent p v).choices = s.choices := by
  simp [State.addConsent]

/-! ### consentBy -/

@[simp] theorem State.consentBy_untouched (s : State) (p : Agent) (num : Byte) :
    (s.consentBy p num).rstnLow = s.rstnLow ∧ (s.consentBy p num).mem = s.mem ∧
    (s.consentBy p num).cellMap = s.cellMap ∧ (s.consentBy p num).freeList = s.freeList ∧
    (s.consentBy p num).scrubQueue = s.scrubQueue ∧ (s.consentBy p num).engine = s.engine ∧
    (s.consentBy p num).clearLeft = s.clearLeft ∧ (s.consentBy p num).used = s.used ∧
    (s.consentBy p num).descs = s.descs ∧ (s.consentBy p num).inUse = s.inUse ∧
    (s.consentBy p num).nextTag = s.nextTag ∧ (s.consentBy p num).queues = s.queues ∧
    (s.consentBy p num).hands = s.hands ∧ (s.consentBy p num).stagings = s.stagings ∧
    (s.consentBy p num).ticks = s.ticks ∧ (s.consentBy p num).passDue = s.passDue ∧
    (s.consentBy p num).members = s.members ∧ (s.consentBy p num).snapshots = s.snapshots ∧
    (s.consentBy p num).nextProposal = s.nextProposal ∧ (s.consentBy p num).lastProposal = s.lastProposal ∧
    (s.consentBy p num).pending = s.pending ∧ (s.consentBy p num).choices = s.choices := by
  unfold State.consentBy; (repeat' split) <;> simp

/-! ### answerConsent -/

@[simp] theorem State.answerConsent_untouched (s : State) (p : Agent) (num : Byte) :
    (s.answerConsent p num).rstnLow = s.rstnLow ∧ (s.answerConsent p num).mem = s.mem ∧
    (s.answerConsent p num).cellMap = s.cellMap ∧ (s.answerConsent p num).freeList = s.freeList ∧
    (s.answerConsent p num).scrubQueue = s.scrubQueue ∧ (s.answerConsent p num).engine = s.engine ∧
    (s.answerConsent p num).clearLeft = s.clearLeft ∧ (s.answerConsent p num).used = s.used ∧
    (s.answerConsent p num).descs = s.descs ∧ (s.answerConsent p num).inUse = s.inUse ∧
    (s.answerConsent p num).nextTag = s.nextTag ∧ (s.answerConsent p num).queues = s.queues ∧
    (s.answerConsent p num).hands = s.hands ∧ (s.answerConsent p num).stagings = s.stagings ∧
    (s.answerConsent p num).ticks = s.ticks ∧ (s.answerConsent p num).passDue = s.passDue ∧
    (s.answerConsent p num).members = s.members ∧ (s.answerConsent p num).snapshots = s.snapshots ∧
    (s.answerConsent p num).nextProposal = s.nextProposal ∧ (s.answerConsent p num).lastProposal = s.lastProposal ∧
    (s.answerConsent p num).pending = s.pending ∧ (s.answerConsent p num).choices = s.choices := by
  unfold State.answerConsent State.transact; (repeat' split) <;> simp

/-- What answerConsent can touch. -/
theorem State.answerConsent_frame (s : State) (p : Agent) (num : Byte) :
    s.answerConsent p num = { s with
      watches := (s.answerConsent p num).watches, prescaleCount := (s.answerConsent p num).prescaleCount
      periodCount := (s.answerConsent p num).periodCount, postscaleCount := (s.answerConsent p num).postscaleCount
      notices := (s.answerConsent p num).notices, latches := (s.answerConsent p num).latches
      table := (s.answerConsent p num).table, slot := (s.answerConsent p num).slot
      voting := (s.answerConsent p num).voting, epoch := (s.answerConsent p num).epoch
      frames := (s.answerConsent p num).frames } := by
  apply State.ext_fields <;> simp

/-! ### vetoBy -/

@[simp] theorem State.vetoBy_untouched (s : State) (p : Agent) (num : Byte) :
    (s.vetoBy p num).rstnLow = s.rstnLow ∧ (s.vetoBy p num).mem = s.mem ∧ (s.vetoBy p num).cellMap = s.cellMap ∧
    (s.vetoBy p num).freeList = s.freeList ∧ (s.vetoBy p num).scrubQueue = s.scrubQueue ∧
    (s.vetoBy p num).engine = s.engine ∧ (s.vetoBy p num).clearLeft = s.clearLeft ∧ (s.vetoBy p num).used = s.used ∧
    (s.vetoBy p num).descs = s.descs ∧ (s.vetoBy p num).inUse = s.inUse ∧ (s.vetoBy p num).nextTag = s.nextTag ∧
    (s.vetoBy p num).queues = s.queues ∧ (s.vetoBy p num).hands = s.hands ∧ (s.vetoBy p num).stagings = s.stagings ∧
    (s.vetoBy p num).ticks = s.ticks ∧ (s.vetoBy p num).passDue = s.passDue ∧ (s.vetoBy p num).members = s.members ∧
    (s.vetoBy p num).snapshots = s.snapshots ∧ (s.vetoBy p num).nextProposal = s.nextProposal ∧
    (s.vetoBy p num).lastProposal = s.lastProposal ∧ (s.vetoBy p num).pending = s.pending ∧
    (s.vetoBy p num).choices = s.choices := by
  unfold State.vetoBy; (repeat' split) <;> simp

/-! ### answerVeto -/

@[simp] theorem State.answerVeto_untouched (s : State) (p : Agent) (num : Byte) :
    (s.answerVeto p num).rstnLow = s.rstnLow ∧ (s.answerVeto p num).mem = s.mem ∧
    (s.answerVeto p num).cellMap = s.cellMap ∧ (s.answerVeto p num).freeList = s.freeList ∧
    (s.answerVeto p num).scrubQueue = s.scrubQueue ∧ (s.answerVeto p num).engine = s.engine ∧
    (s.answerVeto p num).clearLeft = s.clearLeft ∧ (s.answerVeto p num).used = s.used ∧
    (s.answerVeto p num).descs = s.descs ∧ (s.answerVeto p num).inUse = s.inUse ∧
    (s.answerVeto p num).nextTag = s.nextTag ∧ (s.answerVeto p num).queues = s.queues ∧
    (s.answerVeto p num).hands = s.hands ∧ (s.answerVeto p num).stagings = s.stagings ∧
    (s.answerVeto p num).ticks = s.ticks ∧ (s.answerVeto p num).passDue = s.passDue ∧
    (s.answerVeto p num).members = s.members ∧ (s.answerVeto p num).snapshots = s.snapshots ∧
    (s.answerVeto p num).nextProposal = s.nextProposal ∧ (s.answerVeto p num).lastProposal = s.lastProposal ∧
    (s.answerVeto p num).pending = s.pending ∧ (s.answerVeto p num).choices = s.choices := by
  unfold State.answerVeto State.transact; (repeat' split) <;> simp

/-- What answerVeto can touch. -/
theorem State.answerVeto_frame (s : State) (p : Agent) (num : Byte) :
    s.answerVeto p num = { s with
      watches := (s.answerVeto p num).watches, prescaleCount := (s.answerVeto p num).prescaleCount
      periodCount := (s.answerVeto p num).periodCount, postscaleCount := (s.answerVeto p num).postscaleCount
      notices := (s.answerVeto p num).notices, latches := (s.answerVeto p num).latches
      table := (s.answerVeto p num).table, slot := (s.answerVeto p num).slot, voting := (s.answerVeto p num).voting
      epoch := (s.answerVeto p num).epoch, frames := (s.answerVeto p num).frames } := by
  apply State.ext_fields <;> simp

/-! ### lowerLeases -/

@[simp] theorem State.lowerLeases_untouched (s : State) :
    s.lowerLeases.rstnLow = s.rstnLow ∧ s.lowerLeases.mem = s.mem ∧ s.lowerLeases.cellMap = s.cellMap ∧
    s.lowerLeases.freeList = s.freeList ∧ s.lowerLeases.scrubQueue = s.scrubQueue ∧
    s.lowerLeases.engine = s.engine ∧ s.lowerLeases.clearLeft = s.clearLeft ∧ s.lowerLeases.used = s.used ∧
    s.lowerLeases.watches = s.watches ∧ s.lowerLeases.descs = s.descs ∧ s.lowerLeases.inUse = s.inUse ∧
    s.lowerLeases.nextTag = s.nextTag ∧ s.lowerLeases.queues = s.queues ∧ s.lowerLeases.hands = s.hands ∧
    s.lowerLeases.stagings = s.stagings ∧ s.lowerLeases.prescaleCount = s.prescaleCount ∧
    s.lowerLeases.periodCount = s.periodCount ∧ s.lowerLeases.postscaleCount = s.postscaleCount ∧
    s.lowerLeases.ticks = s.ticks ∧ s.lowerLeases.passDue = s.passDue ∧ s.lowerLeases.notices = s.notices ∧
    s.lowerLeases.snapshots = s.snapshots ∧ s.lowerLeases.latches = s.latches ∧ s.lowerLeases.table = s.table ∧
    s.lowerLeases.slot = s.slot ∧ s.lowerLeases.voting = s.voting ∧ s.lowerLeases.nextProposal = s.nextProposal ∧
    s.lowerLeases.lastProposal = s.lastProposal ∧ s.lowerLeases.epoch = s.epoch ∧ s.lowerLeases.frames = s.frames ∧
    s.lowerLeases.pending = s.pending ∧ s.lowerLeases.choices = s.choices := by
  unfold State.lowerLeases agents
  simp

/-! ### lowerWindow -/

@[simp] theorem State.lowerWindow_untouched (s : State) :
    s.lowerWindow.rstnLow = s.rstnLow ∧ s.lowerWindow.mem = s.mem ∧ s.lowerWindow.cellMap = s.cellMap ∧
    s.lowerWindow.freeList = s.freeList ∧ s.lowerWindow.scrubQueue = s.scrubQueue ∧
    s.lowerWindow.engine = s.engine ∧ s.lowerWindow.clearLeft = s.clearLeft ∧ s.lowerWindow.used = s.used ∧
    s.lowerWindow.watches = s.watches ∧ s.lowerWindow.descs = s.descs ∧ s.lowerWindow.inUse = s.inUse ∧
    s.lowerWindow.nextTag = s.nextTag ∧ s.lowerWindow.queues = s.queues ∧ s.lowerWindow.hands = s.hands ∧
    s.lowerWindow.stagings = s.stagings ∧ s.lowerWindow.prescaleCount = s.prescaleCount ∧
    s.lowerWindow.periodCount = s.periodCount ∧ s.lowerWindow.postscaleCount = s.postscaleCount ∧
    s.lowerWindow.ticks = s.ticks ∧ s.lowerWindow.passDue = s.passDue ∧ s.lowerWindow.members = s.members ∧
    s.lowerWindow.notices = s.notices ∧ s.lowerWindow.snapshots = s.snapshots ∧ s.lowerWindow.latches = s.latches ∧
    s.lowerWindow.table = s.table ∧ s.lowerWindow.slot = s.slot ∧ s.lowerWindow.nextProposal = s.nextProposal ∧
    s.lowerWindow.lastProposal = s.lastProposal ∧ s.lowerWindow.epoch = s.epoch ∧ s.lowerWindow.frames = s.frames ∧
    s.lowerWindow.pending = s.pending ∧ s.lowerWindow.choices = s.choices := by
  unfold State.lowerWindow; (repeat' split) <;> simp

/-! ### tick -/

@[simp] theorem State.tick_untouched (s : State) :
    s.tick.rstnLow = s.rstnLow ∧ s.tick.mem = s.mem ∧ s.tick.cellMap = s.cellMap ∧ s.tick.freeList = s.freeList ∧
    s.tick.scrubQueue = s.scrubQueue ∧ s.tick.engine = s.engine ∧ s.tick.clearLeft = s.clearLeft ∧
    s.tick.used = s.used ∧ s.tick.watches = s.watches ∧ s.tick.descs = s.descs ∧ s.tick.inUse = s.inUse ∧
    s.tick.nextTag = s.nextTag ∧ s.tick.queues = s.queues ∧ s.tick.hands = s.hands ∧ s.tick.stagings = s.stagings ∧
    s.tick.notices = s.notices ∧ s.tick.snapshots = s.snapshots ∧ s.tick.latches = s.latches ∧
    s.tick.table = s.table ∧ s.tick.slot = s.slot ∧ s.tick.nextProposal = s.nextProposal ∧
    s.tick.lastProposal = s.lastProposal ∧ s.tick.epoch = s.epoch ∧ s.tick.frames = s.frames ∧
    s.tick.pending = s.pending ∧ s.tick.choices = s.choices := by
  simp [State.tick]

/-- What tick can touch. -/
theorem State.tick_frame (s : State) :
    s.tick = { s with
      prescaleCount := s.tick.prescaleCount, periodCount := s.tick.periodCount
      postscaleCount := s.tick.postscaleCount, ticks := s.tick.ticks, passDue := s.tick.passDue
      members := s.tick.members, voting := s.tick.voting } := by
  apply State.ext_fields <;> simp

/-! ### countPostscale -/

@[simp] theorem State.countPostscale_untouched (s : State) :
    s.countPostscale.rstnLow = s.rstnLow ∧ s.countPostscale.mem = s.mem ∧ s.countPostscale.cellMap = s.cellMap ∧
    s.countPostscale.freeList = s.freeList ∧ s.countPostscale.scrubQueue = s.scrubQueue ∧
    s.countPostscale.engine = s.engine ∧ s.countPostscale.clearLeft = s.clearLeft ∧ s.countPostscale.used = s.used ∧
    s.countPostscale.watches = s.watches ∧ s.countPostscale.descs = s.descs ∧ s.countPostscale.inUse = s.inUse ∧
    s.countPostscale.nextTag = s.nextTag ∧ s.countPostscale.queues = s.queues ∧ s.countPostscale.hands = s.hands ∧
    s.countPostscale.stagings = s.stagings ∧ s.countPostscale.prescaleCount = s.prescaleCount ∧
    s.countPostscale.periodCount = s.periodCount ∧ s.countPostscale.ticks = s.ticks ∧
    s.countPostscale.passDue = s.passDue ∧ s.countPostscale.members = s.members ∧
    s.countPostscale.notices = s.notices ∧ s.countPostscale.snapshots = s.snapshots ∧
    s.countPostscale.latches = s.latches ∧ s.countPostscale.table = s.table ∧ s.countPostscale.slot = s.slot ∧
    s.countPostscale.voting = s.voting ∧ s.countPostscale.nextProposal = s.nextProposal ∧
    s.countPostscale.lastProposal = s.lastProposal ∧ s.countPostscale.epoch = s.epoch ∧
    s.countPostscale.frames = s.frames ∧ s.countPostscale.pending = s.pending ∧ s.countPostscale.choices = s.choices := by
  simp [State.countPostscale]

/-! ### countPeriod -/

@[simp] theorem State.countPeriod_untouched (s : State) :
    s.countPeriod.rstnLow = s.rstnLow ∧ s.countPeriod.mem = s.mem ∧ s.countPeriod.cellMap = s.cellMap ∧
    s.countPeriod.freeList = s.freeList ∧ s.countPeriod.scrubQueue = s.scrubQueue ∧
    s.countPeriod.engine = s.engine ∧ s.countPeriod.clearLeft = s.clearLeft ∧ s.countPeriod.used = s.used ∧
    s.countPeriod.watches = s.watches ∧ s.countPeriod.descs = s.descs ∧ s.countPeriod.inUse = s.inUse ∧
    s.countPeriod.nextTag = s.nextTag ∧ s.countPeriod.queues = s.queues ∧ s.countPeriod.hands = s.hands ∧
    s.countPeriod.stagings = s.stagings ∧ s.countPeriod.prescaleCount = s.prescaleCount ∧
    s.countPeriod.ticks = s.ticks ∧ s.countPeriod.passDue = s.passDue ∧ s.countPeriod.members = s.members ∧
    s.countPeriod.notices = s.notices ∧ s.countPeriod.snapshots = s.snapshots ∧ s.countPeriod.latches = s.latches ∧
    s.countPeriod.table = s.table ∧ s.countPeriod.slot = s.slot ∧ s.countPeriod.voting = s.voting ∧
    s.countPeriod.nextProposal = s.nextProposal ∧ s.countPeriod.lastProposal = s.lastProposal ∧
    s.countPeriod.epoch = s.epoch ∧ s.countPeriod.frames = s.frames ∧ s.countPeriod.pending = s.pending ∧
    s.countPeriod.choices = s.choices := by
  unfold State.countPeriod; (repeat' split) <;> simp

/-! ### countPrescale -/

@[simp] theorem State.countPrescale_untouched (s : State) :
    s.countPrescale.rstnLow = s.rstnLow ∧ s.countPrescale.mem = s.mem ∧ s.countPrescale.cellMap = s.cellMap ∧
    s.countPrescale.freeList = s.freeList ∧ s.countPrescale.scrubQueue = s.scrubQueue ∧
    s.countPrescale.engine = s.engine ∧ s.countPrescale.clearLeft = s.clearLeft ∧ s.countPrescale.used = s.used ∧
    s.countPrescale.watches = s.watches ∧ s.countPrescale.descs = s.descs ∧ s.countPrescale.inUse = s.inUse ∧
    s.countPrescale.nextTag = s.nextTag ∧ s.countPrescale.queues = s.queues ∧ s.countPrescale.hands = s.hands ∧
    s.countPrescale.stagings = s.stagings ∧ s.countPrescale.ticks = s.ticks ∧ s.countPrescale.passDue = s.passDue ∧
    s.countPrescale.members = s.members ∧ s.countPrescale.notices = s.notices ∧
    s.countPrescale.snapshots = s.snapshots ∧ s.countPrescale.latches = s.latches ∧
    s.countPrescale.table = s.table ∧ s.countPrescale.slot = s.slot ∧ s.countPrescale.voting = s.voting ∧
    s.countPrescale.nextProposal = s.nextProposal ∧ s.countPrescale.lastProposal = s.lastProposal ∧
    s.countPrescale.epoch = s.epoch ∧ s.countPrescale.frames = s.frames ∧ s.countPrescale.pending = s.pending ∧
    s.countPrescale.choices = s.choices := by
  unfold State.countPrescale; (repeat' split) <;> simp

/-! ### countScrub -/

@[simp] theorem State.countScrub_untouched (s : State) :
    s.countScrub.rstnLow = s.rstnLow ∧ s.countScrub.mem = s.mem ∧ s.countScrub.cellMap = s.cellMap ∧
    s.countScrub.freeList = s.freeList ∧ s.countScrub.scrubQueue = s.scrubQueue ∧ s.countScrub.engine = s.engine ∧
    s.countScrub.used = s.used ∧ s.countScrub.watches = s.watches ∧ s.countScrub.descs = s.descs ∧
    s.countScrub.inUse = s.inUse ∧ s.countScrub.nextTag = s.nextTag ∧ s.countScrub.queues = s.queues ∧
    s.countScrub.hands = s.hands ∧ s.countScrub.stagings = s.stagings ∧
    s.countScrub.prescaleCount = s.prescaleCount ∧ s.countScrub.periodCount = s.periodCount ∧
    s.countScrub.postscaleCount = s.postscaleCount ∧ s.countScrub.ticks = s.ticks ∧
    s.countScrub.passDue = s.passDue ∧ s.countScrub.members = s.members ∧ s.countScrub.notices = s.notices ∧
    s.countScrub.snapshots = s.snapshots ∧ s.countScrub.latches = s.latches ∧ s.countScrub.table = s.table ∧
    s.countScrub.slot = s.slot ∧ s.countScrub.voting = s.voting ∧ s.countScrub.nextProposal = s.nextProposal ∧
    s.countScrub.lastProposal = s.lastProposal ∧ s.countScrub.epoch = s.epoch ∧ s.countScrub.frames = s.frames ∧
    s.countScrub.choices = s.choices := by
  unfold State.countScrub; (repeat' split) <;> simp

/-! ### refclkPeriod -/

@[simp] theorem State.refclkPeriod_untouched (s : State) (first : Bool) :
    (s.refclkPeriod first).rstnLow = s.rstnLow ∧ (s.refclkPeriod first).mem = s.mem ∧
    (s.refclkPeriod first).cellMap = s.cellMap ∧ (s.refclkPeriod first).freeList = s.freeList ∧
    (s.refclkPeriod first).scrubQueue = s.scrubQueue ∧ (s.refclkPeriod first).engine = s.engine ∧
    (s.refclkPeriod first).used = s.used ∧ (s.refclkPeriod first).watches = s.watches ∧
    (s.refclkPeriod first).descs = s.descs ∧ (s.refclkPeriod first).inUse = s.inUse ∧
    (s.refclkPeriod first).nextTag = s.nextTag ∧ (s.refclkPeriod first).queues = s.queues ∧
    (s.refclkPeriod first).hands = s.hands ∧ (s.refclkPeriod first).stagings = s.stagings ∧
    (s.refclkPeriod first).notices = s.notices ∧ (s.refclkPeriod first).snapshots = s.snapshots ∧
    (s.refclkPeriod first).latches = s.latches ∧ (s.refclkPeriod first).table = s.table ∧
    (s.refclkPeriod first).slot = s.slot ∧ (s.refclkPeriod first).nextProposal = s.nextProposal ∧
    (s.refclkPeriod first).lastProposal = s.lastProposal ∧ (s.refclkPeriod first).epoch = s.epoch ∧
    (s.refclkPeriod first).frames = s.frames ∧ (s.refclkPeriod first).choices = s.choices := by
  unfold State.refclkPeriod; dsimp only; split <;> simp

/-- What refclkPeriod can touch. -/
theorem State.refclkPeriod_frame (s : State) (first : Bool) :
    s.refclkPeriod first = { s with
      clearLeft := (s.refclkPeriod first).clearLeft, prescaleCount := (s.refclkPeriod first).prescaleCount
      periodCount := (s.refclkPeriod first).periodCount, postscaleCount := (s.refclkPeriod first).postscaleCount
      ticks := (s.refclkPeriod first).ticks, passDue := (s.refclkPeriod first).passDue
      members := (s.refclkPeriod first).members, voting := (s.refclkPeriod first).voting
      pending := (s.refclkPeriod first).pending } := by
  apply State.ext_fields <;> simp

/-! ### enqueue -/

@[simp] theorem State.enqueue_untouched (s : State) (i : Instr) :
    (s.enqueue i).rstnLow = s.rstnLow ∧ (s.enqueue i).mem = s.mem ∧ (s.enqueue i).cellMap = s.cellMap ∧
    (s.enqueue i).freeList = s.freeList ∧ (s.enqueue i).scrubQueue = s.scrubQueue ∧
    (s.enqueue i).engine = s.engine ∧ (s.enqueue i).clearLeft = s.clearLeft ∧ (s.enqueue i).used = s.used ∧
    (s.enqueue i).watches = s.watches ∧ (s.enqueue i).descs = s.descs ∧ (s.enqueue i).inUse = s.inUse ∧
    (s.enqueue i).nextTag = s.nextTag ∧ (s.enqueue i).queues = s.queues ∧ (s.enqueue i).hands = s.hands ∧
    (s.enqueue i).stagings = s.stagings ∧ (s.enqueue i).prescaleCount = s.prescaleCount ∧
    (s.enqueue i).periodCount = s.periodCount ∧ (s.enqueue i).postscaleCount = s.postscaleCount ∧
    (s.enqueue i).ticks = s.ticks ∧ (s.enqueue i).passDue = s.passDue ∧ (s.enqueue i).members = s.members ∧
    (s.enqueue i).notices = s.notices ∧ (s.enqueue i).snapshots = s.snapshots ∧ (s.enqueue i).latches = s.latches ∧
    (s.enqueue i).table = s.table ∧ (s.enqueue i).slot = s.slot ∧ (s.enqueue i).voting = s.voting ∧
    (s.enqueue i).nextProposal = s.nextProposal ∧ (s.enqueue i).lastProposal = s.lastProposal ∧
    (s.enqueue i).epoch = s.epoch ∧ (s.enqueue i).frames = s.frames ∧ (s.enqueue i).choices = s.choices := by
  simp [State.enqueue]

/-! ### enqueueOptional -/

@[simp] theorem State.enqueueOptional_untouched (s : State) (i : Option Instr) :
    (s.enqueueOptional i).rstnLow = s.rstnLow ∧ (s.enqueueOptional i).mem = s.mem ∧
    (s.enqueueOptional i).cellMap = s.cellMap ∧ (s.enqueueOptional i).freeList = s.freeList ∧
    (s.enqueueOptional i).scrubQueue = s.scrubQueue ∧ (s.enqueueOptional i).engine = s.engine ∧
    (s.enqueueOptional i).clearLeft = s.clearLeft ∧ (s.enqueueOptional i).used = s.used ∧
    (s.enqueueOptional i).watches = s.watches ∧ (s.enqueueOptional i).descs = s.descs ∧
    (s.enqueueOptional i).inUse = s.inUse ∧ (s.enqueueOptional i).nextTag = s.nextTag ∧
    (s.enqueueOptional i).queues = s.queues ∧ (s.enqueueOptional i).hands = s.hands ∧
    (s.enqueueOptional i).stagings = s.stagings ∧ (s.enqueueOptional i).prescaleCount = s.prescaleCount ∧
    (s.enqueueOptional i).periodCount = s.periodCount ∧ (s.enqueueOptional i).postscaleCount = s.postscaleCount ∧
    (s.enqueueOptional i).ticks = s.ticks ∧ (s.enqueueOptional i).passDue = s.passDue ∧
    (s.enqueueOptional i).members = s.members ∧ (s.enqueueOptional i).notices = s.notices ∧
    (s.enqueueOptional i).snapshots = s.snapshots ∧ (s.enqueueOptional i).latches = s.latches ∧
    (s.enqueueOptional i).table = s.table ∧ (s.enqueueOptional i).slot = s.slot ∧
    (s.enqueueOptional i).voting = s.voting ∧ (s.enqueueOptional i).nextProposal = s.nextProposal ∧
    (s.enqueueOptional i).lastProposal = s.lastProposal ∧ (s.enqueueOptional i).epoch = s.epoch ∧
    (s.enqueueOptional i).frames = s.frames ∧ (s.enqueueOptional i).choices = s.choices := by
  cases i <;> simp [State.enqueueOptional]

/-! ### exchangeBit -/

@[simp] theorem State.exchangeBit_untouched (s : State) (p : Agent) (b : Bool) :
    (s.exchangeBit p b).rstnLow = s.rstnLow ∧ (s.exchangeBit p b).mem = s.mem ∧
    (s.exchangeBit p b).cellMap = s.cellMap ∧ (s.exchangeBit p b).freeList = s.freeList ∧
    (s.exchangeBit p b).scrubQueue = s.scrubQueue ∧ (s.exchangeBit p b).engine = s.engine ∧
    (s.exchangeBit p b).clearLeft = s.clearLeft ∧ (s.exchangeBit p b).used = s.used ∧
    (s.exchangeBit p b).watches = s.watches ∧ (s.exchangeBit p b).descs = s.descs ∧
    (s.exchangeBit p b).inUse = s.inUse ∧ (s.exchangeBit p b).nextTag = s.nextTag ∧
    (s.exchangeBit p b).queues = s.queues ∧ (s.exchangeBit p b).hands = s.hands ∧
    (s.exchangeBit p b).stagings = s.stagings ∧ (s.exchangeBit p b).prescaleCount = s.prescaleCount ∧
    (s.exchangeBit p b).periodCount = s.periodCount ∧ (s.exchangeBit p b).postscaleCount = s.postscaleCount ∧
    (s.exchangeBit p b).ticks = s.ticks ∧ (s.exchangeBit p b).passDue = s.passDue ∧
    (s.exchangeBit p b).members = s.members ∧ (s.exchangeBit p b).notices = s.notices ∧
    (s.exchangeBit p b).snapshots = s.snapshots ∧ (s.exchangeBit p b).latches = s.latches ∧
    (s.exchangeBit p b).table = s.table ∧ (s.exchangeBit p b).slot = s.slot ∧
    (s.exchangeBit p b).voting = s.voting ∧ (s.exchangeBit p b).nextProposal = s.nextProposal ∧
    (s.exchangeBit p b).lastProposal = s.lastProposal ∧ (s.exchangeBit p b).epoch = s.epoch ∧
    (s.exchangeBit p b).pending = s.pending ∧ (s.exchangeBit p b).choices = s.choices := by
  simp [State.exchangeBit]

/-! ### receiveByte -/

@[simp] theorem State.receiveByte_untouched (s : State) (p : Agent) (x : Byte) :
    (s.receiveByte p x).rstnLow = s.rstnLow ∧ (s.receiveByte p x).mem = s.mem ∧
    (s.receiveByte p x).cellMap = s.cellMap ∧ (s.receiveByte p x).freeList = s.freeList ∧
    (s.receiveByte p x).scrubQueue = s.scrubQueue ∧ (s.receiveByte p x).engine = s.engine ∧
    (s.receiveByte p x).clearLeft = s.clearLeft ∧ (s.receiveByte p x).used = s.used ∧
    (s.receiveByte p x).watches = s.watches ∧ (s.receiveByte p x).descs = s.descs ∧
    (s.receiveByte p x).inUse = s.inUse ∧ (s.receiveByte p x).nextTag = s.nextTag ∧
    (s.receiveByte p x).queues = s.queues ∧ (s.receiveByte p x).hands = s.hands ∧
    (s.receiveByte p x).stagings = s.stagings ∧ (s.receiveByte p x).prescaleCount = s.prescaleCount ∧
    (s.receiveByte p x).periodCount = s.periodCount ∧ (s.receiveByte p x).postscaleCount = s.postscaleCount ∧
    (s.receiveByte p x).ticks = s.ticks ∧ (s.receiveByte p x).passDue = s.passDue ∧
    (s.receiveByte p x).members = s.members ∧ (s.receiveByte p x).notices = s.notices ∧
    (s.receiveByte p x).snapshots = s.snapshots ∧ (s.receiveByte p x).latches = s.latches ∧
    (s.receiveByte p x).table = s.table ∧ (s.receiveByte p x).slot = s.slot ∧
    (s.receiveByte p x).voting = s.voting ∧ (s.receiveByte p x).nextProposal = s.nextProposal ∧
    (s.receiveByte p x).lastProposal = s.lastProposal ∧ (s.receiveByte p x).epoch = s.epoch ∧
    (s.receiveByte p x).choices = s.choices := by
  simp [State.receiveByte]

/-! ### receiveStagingByte -/

@[simp] theorem State.receiveStagingByte_untouched (s : State) (p : Agent) (x : Byte) :
    (s.receiveStagingByte p x).rstnLow = s.rstnLow ∧ (s.receiveStagingByte p x).mem = s.mem ∧
    (s.receiveStagingByte p x).cellMap = s.cellMap ∧ (s.receiveStagingByte p x).freeList = s.freeList ∧
    (s.receiveStagingByte p x).scrubQueue = s.scrubQueue ∧ (s.receiveStagingByte p x).engine = s.engine ∧
    (s.receiveStagingByte p x).clearLeft = s.clearLeft ∧ (s.receiveStagingByte p x).used = s.used ∧
    (s.receiveStagingByte p x).watches = s.watches ∧ (s.receiveStagingByte p x).descs = s.descs ∧
    (s.receiveStagingByte p x).inUse = s.inUse ∧ (s.receiveStagingByte p x).nextTag = s.nextTag ∧
    (s.receiveStagingByte p x).queues = s.queues ∧ (s.receiveStagingByte p x).hands = s.hands ∧
    (s.receiveStagingByte p x).stagings = s.stagings ∧ (s.receiveStagingByte p x).prescaleCount = s.prescaleCount ∧
    (s.receiveStagingByte p x).periodCount = s.periodCount ∧
    (s.receiveStagingByte p x).postscaleCount = s.postscaleCount ∧ (s.receiveStagingByte p x).ticks = s.ticks ∧
    (s.receiveStagingByte p x).passDue = s.passDue ∧ (s.receiveStagingByte p x).members = s.members ∧
    (s.receiveStagingByte p x).notices = s.notices ∧ (s.receiveStagingByte p x).snapshots = s.snapshots ∧
    (s.receiveStagingByte p x).latches = s.latches ∧ (s.receiveStagingByte p x).table = s.table ∧
    (s.receiveStagingByte p x).slot = s.slot ∧ (s.receiveStagingByte p x).voting = s.voting ∧
    (s.receiveStagingByte p x).nextProposal = s.nextProposal ∧
    (s.receiveStagingByte p x).lastProposal = s.lastProposal ∧ (s.receiveStagingByte p x).epoch = s.epoch ∧
    (s.receiveStagingByte p x).choices = s.choices := by
  unfold State.receiveStagingByte; dsimp only; (repeat' split) <;> simp

/-! ### shiftByte -/

@[simp] theorem State.shiftByte_untouched (s : State) (p : Agent) :
    (s.shiftByte p).rstnLow = s.rstnLow ∧ (s.shiftByte p).mem = s.mem ∧ (s.shiftByte p).cellMap = s.cellMap ∧
    (s.shiftByte p).freeList = s.freeList ∧ (s.shiftByte p).scrubQueue = s.scrubQueue ∧
    (s.shiftByte p).engine = s.engine ∧ (s.shiftByte p).clearLeft = s.clearLeft ∧ (s.shiftByte p).used = s.used ∧
    (s.shiftByte p).watches = s.watches ∧ (s.shiftByte p).descs = s.descs ∧ (s.shiftByte p).inUse = s.inUse ∧
    (s.shiftByte p).nextTag = s.nextTag ∧ (s.shiftByte p).queues = s.queues ∧ (s.shiftByte p).hands = s.hands ∧
    (s.shiftByte p).stagings = s.stagings ∧ (s.shiftByte p).prescaleCount = s.prescaleCount ∧
    (s.shiftByte p).periodCount = s.periodCount ∧ (s.shiftByte p).postscaleCount = s.postscaleCount ∧
    (s.shiftByte p).ticks = s.ticks ∧ (s.shiftByte p).passDue = s.passDue ∧ (s.shiftByte p).members = s.members ∧
    (s.shiftByte p).notices = s.notices ∧ (s.shiftByte p).snapshots = s.snapshots ∧
    (s.shiftByte p).latches = s.latches ∧ (s.shiftByte p).table = s.table ∧ (s.shiftByte p).slot = s.slot ∧
    (s.shiftByte p).voting = s.voting ∧ (s.shiftByte p).nextProposal = s.nextProposal ∧
    (s.shiftByte p).lastProposal = s.lastProposal ∧ (s.shiftByte p).epoch = s.epoch ∧
    (s.shiftByte p).pending = s.pending ∧ (s.shiftByte p).choices = s.choices := by
  unfold State.shiftByte; dsimp only; (repeat' split) <;> simp

/-! ### endRecord -/

@[simp] theorem State.endRecord_untouched (s : State) (p : Agent) :
    (s.endRecord p).rstnLow = s.rstnLow ∧ (s.endRecord p).mem = s.mem ∧ (s.endRecord p).cellMap = s.cellMap ∧
    (s.endRecord p).freeList = s.freeList ∧ (s.endRecord p).scrubQueue = s.scrubQueue ∧
    (s.endRecord p).engine = s.engine ∧ (s.endRecord p).clearLeft = s.clearLeft ∧ (s.endRecord p).used = s.used ∧
    (s.endRecord p).watches = s.watches ∧ (s.endRecord p).descs = s.descs ∧ (s.endRecord p).inUse = s.inUse ∧
    (s.endRecord p).nextTag = s.nextTag ∧ (s.endRecord p).queues = s.queues ∧ (s.endRecord p).hands = s.hands ∧
    (s.endRecord p).stagings = s.stagings ∧ (s.endRecord p).prescaleCount = s.prescaleCount ∧
    (s.endRecord p).periodCount = s.periodCount ∧ (s.endRecord p).postscaleCount = s.postscaleCount ∧
    (s.endRecord p).ticks = s.ticks ∧ (s.endRecord p).passDue = s.passDue ∧ (s.endRecord p).members = s.members ∧
    (s.endRecord p).snapshots = s.snapshots ∧ (s.endRecord p).table = s.table ∧ (s.endRecord p).slot = s.slot ∧
    (s.endRecord p).voting = s.voting ∧ (s.endRecord p).nextProposal = s.nextProposal ∧
    (s.endRecord p).lastProposal = s.lastProposal ∧ (s.endRecord p).epoch = s.epoch ∧
    (s.endRecord p).pending = s.pending ∧ (s.endRecord p).choices = s.choices := by
  unfold State.endRecord; (repeat' split) <;> simp

/-! ### beginOverrun -/

@[simp] theorem State.beginOverrun_untouched (s : State) (p : Agent) :
    (s.beginOverrun p).rstnLow = s.rstnLow ∧ (s.beginOverrun p).mem = s.mem ∧
    (s.beginOverrun p).cellMap = s.cellMap ∧ (s.beginOverrun p).freeList = s.freeList ∧
    (s.beginOverrun p).scrubQueue = s.scrubQueue ∧ (s.beginOverrun p).engine = s.engine ∧
    (s.beginOverrun p).clearLeft = s.clearLeft ∧ (s.beginOverrun p).used = s.used ∧
    (s.beginOverrun p).watches = s.watches ∧ (s.beginOverrun p).descs = s.descs ∧
    (s.beginOverrun p).inUse = s.inUse ∧ (s.beginOverrun p).nextTag = s.nextTag ∧
    (s.beginOverrun p).queues = s.queues ∧ (s.beginOverrun p).hands = s.hands ∧
    (s.beginOverrun p).stagings = s.stagings ∧ (s.beginOverrun p).prescaleCount = s.prescaleCount ∧
    (s.beginOverrun p).periodCount = s.periodCount ∧ (s.beginOverrun p).postscaleCount = s.postscaleCount ∧
    (s.beginOverrun p).ticks = s.ticks ∧ (s.beginOverrun p).passDue = s.passDue ∧
    (s.beginOverrun p).members = s.members ∧ (s.beginOverrun p).notices = s.notices ∧
    (s.beginOverrun p).snapshots = s.snapshots ∧ (s.beginOverrun p).table = s.table ∧
    (s.beginOverrun p).slot = s.slot ∧ (s.beginOverrun p).voting = s.voting ∧
    (s.beginOverrun p).nextProposal = s.nextProposal ∧ (s.beginOverrun p).lastProposal = s.lastProposal ∧
    (s.beginOverrun p).epoch = s.epoch ∧ (s.beginOverrun p).pending = s.pending ∧
    (s.beginOverrun p).choices = s.choices := by
  unfold State.beginOverrun; (repeat' split) <;> simp

/-! ### exchangeByte -/

@[simp] theorem State.exchangeByte_untouched (s : State) (p : Agent) (b : Bool) :
    (s.exchangeByte p b).rstnLow = s.rstnLow ∧ (s.exchangeByte p b).mem = s.mem ∧
    (s.exchangeByte p b).cellMap = s.cellMap ∧ (s.exchangeByte p b).freeList = s.freeList ∧
    (s.exchangeByte p b).scrubQueue = s.scrubQueue ∧ (s.exchangeByte p b).engine = s.engine ∧
    (s.exchangeByte p b).clearLeft = s.clearLeft ∧ (s.exchangeByte p b).used = s.used ∧
    (s.exchangeByte p b).watches = s.watches ∧ (s.exchangeByte p b).descs = s.descs ∧
    (s.exchangeByte p b).inUse = s.inUse ∧ (s.exchangeByte p b).nextTag = s.nextTag ∧
    (s.exchangeByte p b).queues = s.queues ∧ (s.exchangeByte p b).hands = s.hands ∧
    (s.exchangeByte p b).stagings = s.stagings ∧ (s.exchangeByte p b).prescaleCount = s.prescaleCount ∧
    (s.exchangeByte p b).periodCount = s.periodCount ∧ (s.exchangeByte p b).postscaleCount = s.postscaleCount ∧
    (s.exchangeByte p b).ticks = s.ticks ∧ (s.exchangeByte p b).passDue = s.passDue ∧
    (s.exchangeByte p b).members = s.members ∧ (s.exchangeByte p b).snapshots = s.snapshots ∧
    (s.exchangeByte p b).table = s.table ∧ (s.exchangeByte p b).slot = s.slot ∧
    (s.exchangeByte p b).voting = s.voting ∧ (s.exchangeByte p b).nextProposal = s.nextProposal ∧
    (s.exchangeByte p b).lastProposal = s.lastProposal ∧ (s.exchangeByte p b).epoch = s.epoch ∧
    (s.exchangeByte p b).choices = s.choices := by
  unfold State.exchangeByte; dsimp only; (repeat' split) <;> simp

/-! ### exchange -/

@[simp] theorem State.exchange_untouched (s : State) (p : Agent) (b : Bool) :
    (s.exchange p b).rstnLow = s.rstnLow ∧ (s.exchange p b).mem = s.mem ∧ (s.exchange p b).cellMap = s.cellMap ∧
    (s.exchange p b).freeList = s.freeList ∧ (s.exchange p b).scrubQueue = s.scrubQueue ∧
    (s.exchange p b).engine = s.engine ∧ (s.exchange p b).clearLeft = s.clearLeft ∧ (s.exchange p b).used = s.used ∧
    (s.exchange p b).watches = s.watches ∧ (s.exchange p b).descs = s.descs ∧ (s.exchange p b).inUse = s.inUse ∧
    (s.exchange p b).nextTag = s.nextTag ∧ (s.exchange p b).queues = s.queues ∧ (s.exchange p b).hands = s.hands ∧
    (s.exchange p b).stagings = s.stagings ∧ (s.exchange p b).prescaleCount = s.prescaleCount ∧
    (s.exchange p b).periodCount = s.periodCount ∧ (s.exchange p b).postscaleCount = s.postscaleCount ∧
    (s.exchange p b).ticks = s.ticks ∧ (s.exchange p b).passDue = s.passDue ∧ (s.exchange p b).members = s.members ∧
    (s.exchange p b).snapshots = s.snapshots ∧ (s.exchange p b).table = s.table ∧ (s.exchange p b).slot = s.slot ∧
    (s.exchange p b).voting = s.voting ∧ (s.exchange p b).nextProposal = s.nextProposal ∧
    (s.exchange p b).lastProposal = s.lastProposal ∧ (s.exchange p b).epoch = s.epoch ∧
    (s.exchange p b).choices = s.choices := by
  unfold State.exchange; (repeat' split) <;> simp

/-! ### sckPeriod -/

@[simp] theorem State.sckPeriod_untouched (s : State) (p : Agent) (b : Bool) :
    (s.sckPeriod p b).rstnLow = s.rstnLow ∧ (s.sckPeriod p b).mem = s.mem ∧ (s.sckPeriod p b).cellMap = s.cellMap ∧
    (s.sckPeriod p b).freeList = s.freeList ∧ (s.sckPeriod p b).scrubQueue = s.scrubQueue ∧
    (s.sckPeriod p b).engine = s.engine ∧ (s.sckPeriod p b).clearLeft = s.clearLeft ∧
    (s.sckPeriod p b).used = s.used ∧ (s.sckPeriod p b).watches = s.watches ∧ (s.sckPeriod p b).descs = s.descs ∧
    (s.sckPeriod p b).inUse = s.inUse ∧ (s.sckPeriod p b).nextTag = s.nextTag ∧
    (s.sckPeriod p b).queues = s.queues ∧ (s.sckPeriod p b).hands = s.hands ∧
    (s.sckPeriod p b).stagings = s.stagings ∧ (s.sckPeriod p b).prescaleCount = s.prescaleCount ∧
    (s.sckPeriod p b).periodCount = s.periodCount ∧ (s.sckPeriod p b).postscaleCount = s.postscaleCount ∧
    (s.sckPeriod p b).ticks = s.ticks ∧ (s.sckPeriod p b).passDue = s.passDue ∧
    (s.sckPeriod p b).members = s.members ∧ (s.sckPeriod p b).snapshots = s.snapshots ∧
    (s.sckPeriod p b).table = s.table ∧ (s.sckPeriod p b).slot = s.slot ∧ (s.sckPeriod p b).voting = s.voting ∧
    (s.sckPeriod p b).nextProposal = s.nextProposal ∧ (s.sckPeriod p b).lastProposal = s.lastProposal ∧
    (s.sckPeriod p b).epoch = s.epoch ∧ (s.sckPeriod p b).choices = s.choices := by
  unfold State.sckPeriod; dsimp only; (repeat' split) <;> simp

/-- What sckPeriod can touch. -/
theorem State.sckPeriod_frame (s : State) (p : Agent) (b : Bool) :
    s.sckPeriod p b = { s with
      notices := (s.sckPeriod p b).notices, latches := (s.sckPeriod p b).latches
      frames := (s.sckPeriod p b).frames, pending := (s.sckPeriod p b).pending } := by
  apply State.ext_fields <;> simp

/-! ### clockPeriod -/

@[simp] theorem State.clockPeriod_untouched (s : State) (clock : Option (Agent × Bool)) (first : Bool) :
    (s.clockPeriod clock first).rstnLow = s.rstnLow ∧ (s.clockPeriod clock first).mem = s.mem ∧
    (s.clockPeriod clock first).cellMap = s.cellMap ∧ (s.clockPeriod clock first).freeList = s.freeList ∧
    (s.clockPeriod clock first).scrubQueue = s.scrubQueue ∧ (s.clockPeriod clock first).engine = s.engine ∧
    (s.clockPeriod clock first).used = s.used ∧ (s.clockPeriod clock first).watches = s.watches ∧
    (s.clockPeriod clock first).descs = s.descs ∧ (s.clockPeriod clock first).inUse = s.inUse ∧
    (s.clockPeriod clock first).nextTag = s.nextTag ∧ (s.clockPeriod clock first).queues = s.queues ∧
    (s.clockPeriod clock first).hands = s.hands ∧ (s.clockPeriod clock first).stagings = s.stagings ∧
    (s.clockPeriod clock first).snapshots = s.snapshots ∧ (s.clockPeriod clock first).table = s.table ∧
    (s.clockPeriod clock first).slot = s.slot ∧ (s.clockPeriod clock first).nextProposal = s.nextProposal ∧
    (s.clockPeriod clock first).lastProposal = s.lastProposal ∧ (s.clockPeriod clock first).epoch = s.epoch ∧
    (s.clockPeriod clock first).choices = s.choices := by
  unfold State.clockPeriod; (repeat' split) <;> simp

/-- What clockPeriod can touch. -/
theorem State.clockPeriod_frame (s : State) (clock : Option (Agent × Bool)) (first : Bool) :
    s.clockPeriod clock first = { s with
      clearLeft := (s.clockPeriod clock first).clearLeft
      prescaleCount := (s.clockPeriod clock first).prescaleCount
      periodCount := (s.clockPeriod clock first).periodCount
      postscaleCount := (s.clockPeriod clock first).postscaleCount, ticks := (s.clockPeriod clock first).ticks
      passDue := (s.clockPeriod clock first).passDue, members := (s.clockPeriod clock first).members
      notices := (s.clockPeriod clock first).notices, latches := (s.clockPeriod clock first).latches
      voting := (s.clockPeriod clock first).voting, frames := (s.clockPeriod clock first).frames
      pending := (s.clockPeriod clock first).pending } := by
  apply State.ext_fields <;> simp

end Sys2Proof.Machine
end

