-- ==== Sys2Proof/Laws/Operands.lean ====
section
/-! SUPPORT. Lemmas about the wire fields, the bytes of a field, and the shape of a notice queue. -/

namespace Sys2Proof.Machine

/-! ## Codes -/

theorem classOfCode_code (k : MsgClass) : classOfCode (classCode k) = some k := by cases k <;> decide

/-- A class argument names a class exactly by that class's code. -/
theorem classOfCode_eq_some (c : Byte) (k : MsgClass) : classOfCode c = some k ↔ classCode k = c := by
  constructor
  · intro h
    unfold classOfCode at h
    split_ifs at h with h0 h1 h2 <;> cases h
    · exact h0.symm
    · exact h1.symm
    · exact h2.symm
  · rintro rfl
    exact classOfCode_code k

theorem classOfCode_eq_none (c : Byte) : classOfCode c = none ↔ 2 < c.toNat := by
  revert c
  decide

theorem classCode_le (k : MsgClass) : (classCode k).toNat ≤ 2 := by cases k <;> decide

theorem agentOfCode_code (d : Agent) : agentOfCode (BitVec.ofNat 8 d.val) = some d := by revert d; decide

/-- An agent argument names an agent exactly by its number. -/
theorem agentOfCode_eq_some (c : Byte) (d : Agent) : agentOfCode c = some d ↔ d.val = c.toNat := by
  revert c d
  decide

theorem agentOfCode_eq_none (c : Byte) : agentOfCode c = none ↔ 3 < c.toNat := by
  revert c
  decide

/-! ## The bytes of a field -/

theorem half_toNat (hi lo : Byte) : (half hi lo).toNat = 256 * hi.toNat + lo.toNat := by
  unfold half
  rw [BitVec.toNat_append, ← Nat.shiftLeft_add_eq_or_of_lt lo.isLt, Nat.shiftLeft_eq]
  omega

/-- The two bytes of a field, received in order, are the field. -/
theorem half_bytes (h : Half) : half (h.extractLsb' 8 8) (h.extractLsb' 0 8) = h := by
  apply BitVec.eq_of_toNat_eq
  rw [half_toNat, BitVec.extractLsb'_toNat, BitVec.extractLsb'_toNat, Nat.shiftRight_eq_div_pow,
    Nat.shiftRight_eq_div_pow]
  have := h.isLt
  omega

theorem bytes16_half (hi lo : Byte) : bytes16 (half hi lo) = [hi, lo] := by
  have h := half_toNat hi lo
  have h1 := hi.isLt
  have h2 := lo.isLt
  unfold bytes16
  congr 1
  · apply BitVec.eq_of_toNat_eq
    rw [BitVec.extractLsb'_toNat, Nat.shiftRight_eq_div_pow, h]
    omega
  · congr 1
    apply BitVec.eq_of_toNat_eq
    rw [BitVec.extractLsb'_toNat, Nat.shiftRight_eq_div_pow, h]
    omega

@[simp] theorem bytes16_length (h : Half) : (bytes16 h).length = 2 := rfl

@[simp] theorem bytes32_length (w : Word) : (bytes32 w).length = 4 := rfl

@[simp] theorem record_length (n : Notice) : n.record.length = 6 := rfl

/-! ## The end of a notice queue -/

theorem mapLast_append (f : Notice → Notice) (q : List Notice) (n : Notice) : mapLast f (q ++ [n]) = q ++ [f n] := by
  induction q with
  | nil => rfl
  | cons a rest ih =>
    cases rest with
    | nil => rfl
    | cons b more =>
      show a :: mapLast f ((b :: more) ++ [n]) = _
      rw [ih]
      rfl

theorem mapLast_length (f : Notice → Notice) (q : List Notice) : (mapLast f q).length = q.length := by
  rcases List.eq_nil_or_concat q with rfl | ⟨r, n, rfl⟩
  · rfl
  · rw [List.concat_eq_append, mapLast_append]
    simp

/-- A queue ends in OVERRUN exactly when an OVERRUN record is its last. -/
theorem endsInOverrun_iff (q : List Notice) : endsInOverrun q = true ↔ ∃ r c, q = r ++ [.overrun c] := by
  rcases List.eq_nil_or_concat q with rfl | ⟨r, n, rfl⟩
  · simp [endsInOverrun]
  · rw [List.concat_eq_append]
    constructor
    · intro h
      cases n <;> simp [endsInOverrun, Notice.isOverrun] at h
      exact ⟨r, _, rfl⟩
    · rintro ⟨r', c, e⟩
      obtain ⟨-, e⟩ := List.append_inj' e rfl
      cases e
      simp [endsInOverrun, Notice.isOverrun]

/-! ## The selection of ANY -/

/-- R76: ANY selects the highest-ranked class with an occupied hand slot or a non-empty queue. -/
theorem selectFirst_eq (f : MsgClass → Bool) (k : MsgClass) (hk : f k = true)
    (hn : ∀ j : MsgClass, (classCode j).toNat < (classCode k).toNat → f j = false) : classes.find? f = some k := by
  unfold classes
  cases k with
  | express => simp [hk]
  | standard => simp [hk, hn .express (by decide)]
  | bulk => simp [hk, hn .express (by decide), hn .standard (by decide)]

/-! ## Counts against a table -/

/-- The fit test reads the counts alone. -/
theorem fits_congr (s u : State) (t : Table) (h1 : u.used = s.used) (h2 : u.inUse = s.inUse) : u.fits t = s.fits t := by
  unfold State.fits
  rw [h1, h2]

end Sys2Proof.Machine
end

