-- ==== Sys2Proof/Laws/Steps.lean ====
section
/-! SUPPORT. What a command does around its own effect: the due consumers of a quiet state, the common frame of a
transaction, and the response. -/

namespace Sys2Proof.Machine

/-- In a quiet state no consumer is taken. -/
@[simp] theorem State.settle_of_quiet (s : State) (h : s.quiet) : s.settle = s := by
  unfold State.settle State.settleSome
  have h' : s.dueEvents = [] := h
  rw [h']

/-! ## The common frame of a transaction -/

theorem State.transact_closed (s : State) (p : Agent) (code : Byte) (len : Nat) (check : Option Result) (body : State)
    (h : s.requestOpen p = false) : s.transact p code len check body = s := by
  simp [State.transact, h]

theorem State.transact_starting (s : State) (p : Agent) (code : Byte) (len : Nat) (check : Option Result) (body : State)
    (h : s.requestOpen p = true) (hs : s.starting = true) :
    s.transact p code len check body = s.respondOnly p code len .starting [] := by
  simp [State.transact, h, hs]

theorem State.transact_refused (s : State) (p : Agent) (code : Byte) (len : Nat) (r : Result) (body : State)
    (h : s.requestOpen p = true) (hs : s.starting = false) :
    s.transact p code len (some r) body = s.respond p code len r [] none := by
  simp [State.transact, h, hs]

theorem State.transact_body (s : State) (p : Agent) (code : Byte) (len : Nat) (body : State)
    (h : s.requestOpen p = true) (hs : s.starting = false) : s.transact p code len none body = body := by
  simp [State.transact, h, hs]

theorem State.refuseOutsider_joined (s : State) (p : Agent) (h : s.joined p) : s.refuseOutsider p = none := by
  unfold State.refuseOutsider
  rcases h with h | h <;> rw [h]

theorem State.refuseInactive_active (s : State) (p : Agent) (h : s.portIs p .active) : s.refuseInactive p = none := by
  unfold State.refuseInactive
  rw [h]

/-- An open request stands in REQUEST with RSTN high and no staging loaded. -/
theorem State.requestOpen_iff (s : State) (p : Agent) :
    s.requestOpen p = true ↔ s.rstnLow = false ∧ (s.frames[p]).phase = .request ∧ s.stagings[p] = none := by
  simp [State.requestOpen, and_assoc]

/-! ## Responses -/

/-- The response of a state `u` that frames the ports as `s` does is an answer from `s`. -/
theorem respond_answers (s u : State) (p : Agent) (code : Byte) (len : Nat) (r : Result) (data : List Byte)
    (tag : Option Half) (h : u.frames = s.frames) : answers s (u.respond p code len r data tag) p code len r tag data := by
  refine ⟨?_, fun q hq => ?_⟩
  · simp [State.respond, State.record, State.respondOnly, State.setFrame, Config.turnaround, h]
  · simp only [State.respond, State.record, State.respondOnly, State.setFrame, h]
    rw [vec_get_set_ne _ _ _ _ (Ne.symm hq), vec_get_set_ne _ _ _ _ (Ne.symm hq)]

theorem respondOnly_answers (s u : State) (p : Agent) (code : Byte) (len : Nat) (r : Result) (data : List Byte)
    (h : u.frames = s.frames) :
    answersKeeping s (u.respondOnly p code len r data) p code len r data (s.frames[p]).last := by
  refine ⟨?_, fun q hq => ?_⟩
  · simp [State.respondOnly, State.setFrame, Config.turnaround, h]
  · simp only [State.respondOnly, State.setFrame, h]
    rw [vec_get_set_ne _ _ _ _ (Ne.symm hq)]

/-! ## Notice offers -/

theorem State.offer_notices_ne (s : State) (a b : Agent) (n : Notice) (h : b ≠ a) :
    ((s.offer a n).notices)[b] = s.notices[b] := by
  unfold State.offer State.foldOffer
  repeat' split
  all_goals first | rfl | exact vec_get_set_ne _ _ _ _ (Ne.symm h)

theorem State.offer_latches_ne (s : State) (a b : Agent) (n : Notice) (h : b ≠ a) :
    ((s.offer a n).latches)[b] = s.latches[b] := by
  unfold State.offer State.foldOffer
  repeat' split
  all_goals first | rfl | exact vec_get_set_ne _ _ _ _ (Ne.symm h)

end Sys2Proof.Machine
end

