-- ==== Sys2Proof/Laws/Effects.lean ====
section
/-! SUPPORT. What the shared operations do, once each, in the words of the statements: offers, releases, the drain test, the
apply and the end of a round. -/

namespace Sys2Proof.Machine

/-! ## Offers -/

/-- An offer reads the port state, the queue and the latch of its own agent alone. -/
theorem State.offer_notices_congr (s u : State) (a : Agent) (n : Notice)
    (hm : (u.members[a]).state = (s.members[a]).state) (hn : u.notices[a] = s.notices[a])
    (hl : u.latches[a] = s.latches[a]) :
    ((u.offer a n).notices)[a] = ((s.offer a n).notices)[a] ∧
      ((u.offer a n).latches)[a] = ((s.offer a n).latches)[a] := by
  have hi : u.isMember a = s.isMember a := by unfold State.isMember; rw [hm]
  unfold State.offer State.foldOffer
  rw [hi, hn, hl]
  cases s.isMember a
  · simp [-Fin.getElem_fin, hn, hl]
  · cases endsInOverrun s.notices[a]
    · by_cases hlen : (s.notices[a]).length < Config.openRecords <;>
        simp [-Fin.getElem_fin, hlen, hl]
    · cases s.latches[a] <;> simp [-Fin.getElem_fin, hn, hl]

/-- The notices of an agent outside the list are not touched. -/
theorem State.offerAll_notices_notMem (s : State) (l : List Agent) (n : Notice) (b : Agent) (h : b ∉ l) :
    ((s.offerAll l n).notices)[b] = s.notices[b] ∧ ((s.offerAll l n).latches)[b] = s.latches[b] := by
  induction l generalizing s with
  | nil => exact ⟨rfl, rfl⟩
  | cons a rest ih =>
    have hb : b ≠ a := fun e => h (e ▸ List.mem_cons_self ..)
    have hr : b ∉ rest := fun e => h (List.mem_cons_of_mem _ e)
    have := ih (s.offer a n) hr
    rw [State.offer_notices_ne s a b n hb, State.offer_latches_ne s a b n hb] at this
    exact this

/-- Each agent of the list is offered the notice once. -/
theorem State.offerAll_notices_mem (s : State) (l : List Agent) (n : Notice) (b : Agent) (hl : l.Nodup) (h : b ∈ l) :
    ((s.offerAll l n).notices)[b] = ((s.offer b n).notices)[b] ∧
      ((s.offerAll l n).latches)[b] = ((s.offer b n).latches)[b] := by
  induction l generalizing s with
  | nil => exact absurd h (List.not_mem_nil)
  | cons a rest ih =>
    obtain ⟨ha, hr⟩ := List.nodup_cons.mp hl
    by_cases hb : b = a
    · subst hb
      exact State.offerAll_notices_notMem (s.offer b n) rest n b ha
    · have hm : b ∈ rest := (List.mem_cons.mp h).resolve_left hb
      have := ih (s.offer a n) hr hm
      rw [(State.offer_notices_congr s (s.offer a n) b n (by rw [State.offer_frame])
        (State.offer_notices_ne s a b n hb) (State.offer_latches_ne s a b n hb)).1,
        (State.offer_notices_congr s (s.offer a n) b n (by rw [State.offer_frame])
        (State.offer_notices_ne s a b n hb) (State.offer_latches_ne s a b n hb)).2] at this
      exact this

/-- An offer to each agent of a list without repeats is told to exactly those. -/
theorem offerAll_told (s t : State) (l : List Agent) (n : Notice) (who : Agent → Bool) (hl : l.Nodup)
    (hw : ∀ b, who b = true ↔ b ∈ l) (hn : t.notices = (s.offerAll l n).notices)
    (ht : t.latches = (s.offerAll l n).latches) : told s t who n := by
  intro b
  rw [hn, ht]
  by_cases h : who b = true
  · rw [if_pos h]
    exact State.offerAll_notices_mem s l n b hl ((hw b).mp h)
  · rw [if_neg h]
    exact State.offerAll_notices_notMem s l n b (fun e => h ((hw b).mpr e))

theorem agents_filter_nodup (f : Agent → Bool) : (agents.filter f).Nodup := List.Nodup.filter f (by decide)

theorem mem_agents (a : Agent) : a ∈ agents := by
  revert a
  decide

theorem mem_agents_filter (f : Agent → Bool) (b : Agent) : b ∈ agents.filter f ↔ f b = true := by
  simp [List.mem_filter, mem_agents b]

/-- An offer to one agent is told to that agent alone. -/
theorem offer_told (s t : State) (a : Agent) (n : Notice) (hn : t.notices = (s.offer a n).notices)
    (ht : t.latches = (s.offer a n).latches) : told s t (fun b => b = a) n :=
  offerAll_told s t [a] n _ (List.nodup_singleton a) (fun b => by simp) hn ht

/-! ## Release -/

/-- The cells of a list released, one after another. -/
theorem releasedCells_cellMap (s : State) (cells : List CellId) (x : CellId) :
    ((cells.foldl (fun t c => t.setCell c ((t.cellMap[c]).released)) s).cellMap)[x] =
      if x ∈ cells then (s.cellMap[x]).released else s.cellMap[x] := by
  induction cells generalizing s with
  | nil => simp
  | cons c rest ih =>
    rw [List.foldl_cons, ih]
    by_cases hx : x = c
    · subst hx
      have hr : ∀ r : CellRecord, r.released.released = r.released := fun r => by cases r <;> rfl
      by_cases hm : x ∈ rest <;> simp [-Fin.getElem_fin, hm, hr]
    · have hc : c ≠ x := fun e => hx e.symm
      simp [-Fin.getElem_fin, hx, vec_get_set_ne _ _ _ _ hc]

theorem startScrub_queue (s : State) : s.startScrub.scrubQueue = s.scrubQueue := by simp

/-- R42 step 2. -/
theorem scrubCells_spec (s : State) (cells : List CellId) :
    (s.scrubCells cells).scrubQueue = s.scrubQueue ++ cells ∧
      ∀ x : CellId, ((s.scrubCells cells).cellMap)[x] =
        if x ∈ cells then (s.cellMap[x]).released else s.cellMap[x] := by
  constructor
  · unfold State.scrubCells
    rw [startScrub_queue]
    exact congrArg (· ++ cells) (foldl_field State.scrubQueue _ (fun t x => by simp) cells s)
  · intro x
    unfold State.scrubCells
    simp only [State.startScrub_untouched]
    exact releasedCells_cellMap s cells x

/-- R96: an IDLE engine starts on the head of the scrub queue; an engine that is not IDLE goes on. -/
theorem startScrub_engine (u : State) :
    (∀ c rest, u.engine = .idle → u.scrubQueue = c :: rest →
      u.startScrub.engine = .clearing c ∧ u.startScrub.clearLeft = 32) ∧
      (u.engine ≠ .idle → u.startScrub = u) := by
  constructor
  · intro c rest he hq
    simp [State.startScrub, he, hq, Config.scrubPeriods]
  · intro he
    unfold State.startScrub
    split
    · next h _ => exact absurd h he
    · next h _ => exact absurd h he
    · rfl
    · rfl

/-- R96, R97: an IDLE engine starts on the first cell appended, and a clear in progress goes on. -/
theorem scrubCells_engine (s : State) (cells : List CellId) :
    (∀ c rest, s.engine = .idle → s.scrubQueue = [] → cells = c :: rest →
      (s.scrubCells cells).engine = .clearing c ∧ (s.scrubCells cells).clearLeft = 32) ∧
      (s.engine ≠ .idle →
        (s.scrubCells cells).engine = s.engine ∧ (s.scrubCells cells).clearLeft = s.clearLeft) := by
  set v := cells.foldl (fun t c => t.setCell c ((t.cellMap[c]).released)) s with hv
  have h1 : v.engine = s.engine := foldl_field State.engine _ (fun t x => by simp) cells s
  have h2 : v.scrubQueue = s.scrubQueue := foldl_field State.scrubQueue _ (fun t x => by simp) cells s
  have h3 : v.clearLeft = s.clearLeft := foldl_field State.clearLeft _ (fun t x => by simp) cells s
  have hu : s.scrubCells cells = { v with scrubQueue := v.scrubQueue ++ cells }.startScrub := rfl
  obtain ⟨hi, hb⟩ := startScrub_engine { v with scrubQueue := v.scrubQueue ++ cells }
  rw [hu]
  constructor
  · intro c rest he hq hc
    exact hi c rest (h1.trans he) (by rw [h2, hq, hc]; rfl)
  · intro he
    rw [hb (by rw [h1]; exact he)]
    exact ⟨h1, h3⟩

/-- R42 steps 2 and 3. -/
theorem dropRecord_dropped (s : State) (d : DescId) (m : Message) : dropped s (s.dropRecord d m) d m := by
  obtain ⟨hq, hc⟩ := scrubCells_spec s m.cells
  obtain ⟨hi, hb⟩ := scrubCells_engine s m.cells
  refine ⟨?_, fun e he => ?_, ?_, fun c rest e1 e2 e3 => ?_, fun e => ?_, fun x => ?_, ?_, fun a ha => ?_⟩
  · simp [State.dropRecord]
  · simp [-Fin.getElem_fin, State.dropRecord, vec_get_set_ne _ _ _ _ (Ne.symm he)]
  · simp [State.dropRecord, hq]
  · simpa [State.dropRecord] using hi c rest e1 e2 e3
  · simpa [State.dropRecord] using hb e
  · simpa [-Fin.getElem_fin, State.dropRecord] using hc x
  · simp [State.dropRecord]
  · simp [-Fin.getElem_fin, State.dropRecord, vec_get_set_ne _ _ _ _ (Ne.symm ha)]

/-- A record that was dropped stays so while the cells and the descriptors are not touched. -/
theorem dropped_congr {s t u : State} {d : DescId} {m : Message} (h : dropped s t d m) (hd : u.descs = t.descs)
    (hq : u.scrubQueue = t.scrubQueue) (he : u.engine = t.engine) (hl : u.clearLeft = t.clearLeft)
    (hc : u.cellMap = t.cellMap) (hi : u.inUse = t.inUse) : dropped s u d m := by
  unfold dropped at h ⊢
  rw [hd, hq, he, hl, hc, hi]
  exact h

theorem runFitTest_empty (s : State) (h : s.slot = none) : s.runFitTest = s := by
  unfold State.runFitTest
  rw [h]

theorem release_staging (s : State) (d : DescId) (m : Message) (path : RemovalPath) (h : s.descs[d] = .staging m) :
    s.release d path = (s.dropRecord d m).runFitTest := by
  unfold State.release
  rw [h]

theorem release_queued (s : State) (d : DescId) (m : Message) (adm : Admission) (path : RemovalPath)
    (h : s.descs[d] = .queued m adm) :
    s.release d path =
      (s.setQueue m.dest m.cls (((s.queues[m.dest]).get m.cls).filter (fun x => x ≠ d))).finishRelease d m adm path := by
  unfold State.release
  rw [h]

theorem release_inHand (s : State) (d : DescId) (m : Message) (adm : Admission) (path : RemovalPath)
    (h : s.descs[d] = .inHand m adm) :
    s.release d path = (s.setHand m.dest m.cls none).finishRelease d m adm path := by
  unfold State.release
  rw [h]

theorem release_free (s : State) (d : DescId) (path : RemovalPath) (h : s.descs[d] = .free) : s.release d path = s := by
  unfold State.release
  rw [h]

/-! ## A watch evaluation with no watch armed -/

theorem testWatch_disarmed (s : State) (a : Agent) (k : MsgClass) (h : (s.watches[a]).get k = none) :
    s.testWatch a k = s := by
  unfold State.testWatch
  rw [h]

theorem testWatchesOf_disarmed (s : State) (a : Agent) (h : s.watches[a] = .all none) : s.testWatchesOf a = s := by
  unfold State.testWatchesOf classes
  simp only [List.foldl_cons, List.foldl_nil]
  have hk : ∀ k, (s.watches[a]).get k = none := fun k => by rw [h]; simp
  rw [testWatch_disarmed s a _ (hk _), testWatch_disarmed s a _ (hk _), testWatch_disarmed s a _ (hk _)]

theorem evaluateWatches_disarmed (s : State) (h : ∀ a : Agent, s.watches[a] = .all none) : s.evaluateWatches = s := by
  unfold State.evaluateWatches agents
  simp only [List.foldl_cons, List.foldl_nil]
  rw [testWatchesOf_disarmed s _ (h _), testWatchesOf_disarmed s _ (h _), testWatchesOf_disarmed s _ (h _),
    testWatchesOf_disarmed s _ (h _)]

/-! ## The apply -/

/-- R173 steps 1 to 4. -/
theorem applyTable_applied (s : State) (x : Table) : applied s (s.applyTable x) x := by
  refine ⟨?_, ?_, ?_, ?_, ?_, ?_⟩ <;> simp [State.applyTable, State.restartClock, epochAfter]

/-! ## Offers that find no receiver -/

theorem offer_nonmember (s : State) (a : Agent) (n : Notice) (h : s.isMember a = false) : s.offer a n = s := by
  unfold State.offer
  rw [h]
  rfl

theorem joined_isMember (s : State) (a : Agent) (h : s.joined a) : s.isMember a = true := by
  unfold State.isMember
  rcases h with h | h <;> rw [h]

theorem isMember_congr {s u : State} (a : Agent) (h : u.members = s.members) : u.isMember a = s.isMember a := by
  unfold State.isMember
  rw [h]

/-- R123: a peer notice about `p` is offered to another agent as it would be by itself. -/
theorem offerPeers_other (s u : State) (p b : Agent) (n : Notice) (hb : b ≠ p)
    (hm : (u.members[b]).state = (s.members[b]).state) (h1 : u.notices[b] = s.notices[b])
    (h2 : u.latches[b] = s.latches[b]) :
    ((u.offerPeers p n).notices)[b] = ((s.offer b n).notices)[b] ∧
      ((u.offerPeers p n).latches)[b] = ((s.offer b n).latches)[b] := by
  obtain ⟨a1, a2⟩ := State.offerAll_notices_mem u (agents.filter (fun b => b ≠ p)) n b (agents_filter_nodup _)
    (by rw [mem_agents_filter]; simpa using hb)
  obtain ⟨b1, b2⟩ := State.offer_notices_congr s u b n hm h1 h2
  exact ⟨a1.trans b1, a2.trans b2⟩

/-- R123: the agent a peer notice is about is not offered it. -/
theorem offerPeers_self (u : State) (p : Agent) (n : Notice) :
    ((u.offerPeers p n).notices)[p] = u.notices[p] ∧ ((u.offerPeers p n).latches)[p] = u.latches[p] :=
  State.offerAll_notices_notMem u _ n p (by rw [mem_agents_filter]; simp)

/-! ## The drain test -/

/-- R136 steps 1 to 3. -/
theorem goOffline_offline (s u : State) (a : Agent) (h : (u.members[a]) = s.members[a]) :
    (u.goOffline a).members[a] = { s.members[a] with state := .offline, leaseLeft := 0 } ∧
      (u.goOffline a).notices[a] = [] ∧ (u.goOffline a).latches[a] = none ∧
      (u.goOffline a).snapshots[a] = .all false ∧ (u.goOffline a).watches[a] = .all none := by
  simp [-Fin.getElem_fin, State.goOffline, State.clearNotices, State.disarm, h]

/-- R135: the drain test leaves the other agents alone; where it passes the agent is OFFLINE, else nothing changes. -/
theorem drain_spec (s : State) (a : Agent) :
    (∀ b : Agent, b ≠ a →
      (s.drainTest a).members[b] = s.members[b] ∧ (s.drainTest a).snapshots[b] = s.snapshots[b]) ∧
    (if s.portIs a .closing ∧ s.holdsNothing a = true then
      wentOffline s (s.drainTest a) a ∧ (s.drainTest a).isMember a = false
    else s.drainTest a = s) := by
  constructor
  · intro b hb
    have := hb.symm
    unfold State.drainTest
    split
    · simp [-Fin.getElem_fin, vec_get_set, State.goOffline, this]
    · exact ⟨rfl, rfl⟩
  · by_cases h : s.portIs a .closing ∧ s.holdsNothing a = true
    · rw [if_pos h]
      have hc : ((s.members[a]).state = .closing && s.holdsNothing a) = true := by
        simpa [-Fin.getElem_fin] using h
      have he : s.drainTest a = (s.goOffline a).offerPeers a (.peerLeft a) := if_pos hc
      obtain ⟨g1, g2, -, g4, g5⟩ := goOffline_offline s s a rfl
      obtain ⟨n1, -⟩ := offerPeers_self (s.goOffline a) a (.peerLeft a)
      have hm : (s.drainTest a).members[a] = { s.members[a] with state := .offline, leaseLeft := 0 } := by
        rw [he, State.offerPeers_frame]
        exact g1
      refine ⟨⟨hm, ?_, ?_, ?_⟩, ?_⟩
      · rw [he, n1, g2]
      · rw [he, State.offerPeers_frame]
        exact g4
      · rw [he, State.offerPeers_frame]
        exact g5
      · unfold State.isMember
        rw [hm]
    · rw [if_neg h]
      refine if_neg (fun hx => h ?_)
      simpa [-Fin.getElem_fin] using hx

/-- R139, R152: only the port of the agent itself is zero-filled. -/
theorem zeroFillReadout_frames_ne (s : State) (p q : Agent) (h : q ≠ p) :
    (s.zeroFillReadout p).frames[q] = s.frames[q] := by
  unfold State.zeroFillReadout State.zeroFill
  repeat' split
  all_goals first | rfl | exact vec_get_set_ne _ _ _ _ (Ne.symm h)

/-- A port in REQUEST has nothing to zero-fill. -/
theorem zeroFillReadout_request (s : State) (p : Agent) (h : (s.frames[p]).phase = .request) :
    s.zeroFillReadout p = s := by
  unfold State.zeroFillReadout State.zeroFill
  rw [h]
  simp

theorem drainTest_frames_ne (s : State) (a q : Agent) (h : q ≠ a) : (s.drainTest a).frames[q] = s.frames[q] := by
  unfold State.drainTest
  split
  · simp only [State.offerPeers_untouched, State.goOffline, State.disarm]
    rw [zeroFillReadout_frames_ne _ _ _ h]
    rfl
  · rfl

theorem drainTest_frames_request (s : State) (a : Agent) (h : (s.frames[a]).phase = .request) :
    (s.drainTest a).frames = s.frames := by
  unfold State.drainTest
  split
  · simp only [State.offerPeers_untouched, State.goOffline, State.disarm]
    rw [zeroFillReadout_request _ _ (by simpa [-Fin.getElem_fin] using h)]
    rfl
  · rfl

/-! ## The fit test, seen from an absent agent -/

/-- No watch test arms a watch. -/
theorem testWatch_absent (s : State) (a b : Agent) (k : MsgClass) (hw : s.watches[a] = .all none) :
    ((s.testWatch b k).watches)[a] = .all none ∧ ((s.testWatch b k).notices)[a] = s.notices[a] := by
  unfold State.testWatch
  split
  · exact ⟨hw, rfl⟩
  · next t ht =>
    split
    · by_cases h : b = a
      · subst h
        rw [hw] at ht
        simp at ht
      · simp only [State.setWatch]
        rw [vec_get_set_ne _ _ _ _ h, State.offer_frame]
        exact ⟨hw, State.offer_notices_ne _ _ _ _ (Ne.symm h)⟩
    · exact ⟨hw, rfl⟩

/-- Nothing of an evaluation of the watches reaches an agent without one. -/
theorem evaluateWatches_absent (s : State) (a : Agent) (hw : s.watches[a] = .all none) :
    (s.evaluateWatches.watches)[a] = .all none ∧ (s.evaluateWatches.notices)[a] = s.notices[a] := by
  have of : ∀ (u : State) b, u.watches[a] = .all none →
      ((u.testWatchesOf b).watches)[a] = .all none ∧ ((u.testWatchesOf b).notices)[a] = u.notices[a] := by
    intro u b h
    simp only [State.testWatchesOf, classes, List.foldl_cons, List.foldl_nil]
    have h1 := testWatch_absent u a b .express h
    have h2 := testWatch_absent _ a b .standard h1.1
    have h3 := testWatch_absent _ a b .bulk h2.1
    exact ⟨h3.1, h3.2.trans (h2.2.trans h1.2)⟩
  simp only [State.evaluateWatches, agents, List.foldl_cons, List.foldl_nil]
  have h1 := of s 0 hw
  have h2 := of _ 1 h1.1
  have h3 := of _ 2 h2.1
  have h4 := of _ 3 h3.1
  exact ⟨h4.1, h4.2.trans (h3.2.trans (h2.2.trans h1.2))⟩

/-- Nothing of an apply reaches an absent agent. -/
theorem applyTable_absent (s : State) (x : Table) (a : Agent) (hm : s.isMember a = false)
    (hw : s.watches[a] = .all none) :
    ((s.applyTable x).watches)[a] = .all none ∧ ((s.applyTable x).notices)[a] = s.notices[a] := by
  unfold State.applyTable
  set u : State := State.restartClock { s with table := x, epoch := epochAfter s.epoch, slot := none } with hu
  have h := evaluateWatches_absent (u.offerAll agents (.configApplied u.epoch)) a
    (by rw [State.offerAll_frame]; exact hw)
  refine ⟨h.1, h.2.trans ?_⟩
  rw [(State.offerAll_notices_mem u agents _ a (by decide) (mem_agents a)).1,
    offer_nonmember u a _ ((isMember_congr a rfl).trans hm)]
  rfl

theorem fit_absent (s : State) (a : Agent) (hm : s.isMember a = false) (hw : s.watches[a] = .all none) :
    (s.runFitTest.watches)[a] = .all none ∧ (s.runFitTest.notices)[a] = s.notices[a] := by
  unfold State.runFitTest
  split
  · exact ⟨hw, rfl⟩
  · split
    · exact applyTable_absent s _ a hm hw
    · exact ⟨hw, rfl⟩

/-! ## The end of a release -/

/-- R42 step 5. -/
theorem finish_drained (u : State) (d : DescId) (m : Message) (adm : Admission) (path : RemovalPath) :
    drained u (u.finishRelease d m adm path) m.dest := by
  set v := (u.dropRecord d m).offerOptional m.source (removalNotice path m adm) with hv
  have hd := drain_spec v m.dest
  have ht : u.finishRelease d m adm path = (v.drainTest m.dest).runFitTest := rfl
  have hm : v.members = u.members := by simp [-Fin.getElem_fin, hv]
  have hs : v.snapshots = u.snapshots := by simp [-Fin.getElem_fin, hv]
  have hhold : (u.finishRelease d m adm path).holdsNothing m.dest = v.holdsNothing m.dest := by
    rw [ht]
    simp [-Fin.getElem_fin, State.holdsNothing]
  constructor
  · intro b hb
    obtain ⟨h1, h2⟩ := hd.1 b hb
    rw [ht]
    simp [-Fin.getElem_fin, h1, h2, hm, hs]
  · have hp : (u.portIs m.dest .closing ∧ (u.finishRelease d m adm path).holdsNothing m.dest = true) ↔
        (v.portIs m.dest .closing ∧ v.holdsNothing m.dest = true) := by
      rw [hhold]
      simp only [State.portIs, hm]
    have h2 := hd.2
    by_cases hc : v.portIs m.dest .closing ∧ v.holdsNothing m.dest = true
    · rw [if_pos hc] at h2
      rw [if_pos (hp.mpr hc)]
      obtain ⟨⟨w1, w2, w3, w4⟩, hn⟩ := h2
      obtain ⟨f1, f2⟩ := fit_absent (v.drainTest m.dest) m.dest hn w4
      rw [ht]
      exact ⟨by simp [-Fin.getElem_fin, w1, hm], by rw [f2, w2], by simp [-Fin.getElem_fin, w3], f1⟩
    · rw [if_neg hc] at h2
      rw [if_neg (fun e => hc (hp.mp e)), ht, h2]
      simp [-Fin.getElem_fin, hm, hs]

/-- R42 steps 2 and 3. -/
theorem finish_dropped (u : State) (d : DescId) (m : Message) (adm : Admission) (path : RemovalPath) :
    dropped u (u.finishRelease d m adm path) d m := by
  apply dropped_congr (dropRecord_dropped u d m) <;> simp [-Fin.getElem_fin, State.finishRelease]

/-- R42: a release that empties no CLOSING agent, with nothing held, drops the record and offers its notice; that is
all. -/
theorem finish_plain (u : State) (d : DescId) (m : Message) (adm : Admission) (path : RemovalPath)
    (hs : u.slot = none) (hm : (u.finishRelease d m adm path).members = u.members) :
    u.finishRelease d m adm path = (u.dropRecord d m).offerOptional m.source (removalNotice path m adm) := by
  set v := (u.dropRecord d m).offerOptional m.source (removalNotice path m adm) with hv
  have ht : u.finishRelease d m adm path = (v.drainTest m.dest).runFitTest := rfl
  have hvm : v.members = u.members := by simp [-Fin.getElem_fin, hv]
  have hx := (drain_spec v m.dest).2
  by_cases hc : v.portIs m.dest .closing ∧ v.holdsNothing m.dest = true
  · rw [if_pos hc] at hx
    rw [ht, State.runFitTest_frame] at hm
    have h7 : ((v.drainTest m.dest).members)[m.dest] = v.members[m.dest] := by
      rw [hvm]
      exact congrArg (fun x : Vector Member 4 => x[m.dest]) hm
    have h8 : (v.members[m.dest]).state = .closing := hc.1
    rw [hx.1.1] at h7
    rw [← h7] at h8
    cases h8
  · rw [if_neg hc] at hx
    rw [ht, hx]
    refine runFitTest_empty _ ?_
    simpa [-Fin.getElem_fin, hv] using hs

/-! ## Staging -/

theorem bindCells_ne (s : State) (c : Charge) (x : DescId) (pos : Nat) (l : List CellId) (y : CellId) (h : y ∉ l) :
    ((s.bindCells c x pos l).cellMap)[y] = s.cellMap[y] := by
  induction l generalizing s pos with
  | nil => rfl
  | cons a rest ih =>
    obtain ⟨h1, h2⟩ := not_or.mp (fun e => h (List.mem_cons.mpr e))
    simp only [State.bindCells]
    rw [ih _ _ h2]
    exact vec_get_set_ne _ _ _ _ (Ne.symm h1)

/-- R3, R5: the cells of a list are bound in order. -/
theorem bindCells_get (s : State) (c : Charge) (x : DescId) (pos : Nat) (l : List CellId) (hn : l.Nodup) (i : Nat)
    (y : CellId) (h : l[i]? = some y) : ((s.bindCells c x pos l).cellMap)[y] = .bound c x (pos + i) := by
  induction l generalizing s pos i with
  | nil => simp at h
  | cons a rest ih =>
    obtain ⟨h1, h2⟩ := List.nodup_cons.mp hn
    simp only [State.bindCells]
    cases i with
    | zero =>
      obtain rfl : a = y := by simpa using h
      rw [bindCells_ne _ _ _ _ _ _ h1]
      simp [-Fin.getElem_fin]
    | succ i =>
      rw [ih _ _ h2 i (by simpa using h)]
      congr 1
      omega

/-! ## The round -/

theorem endRound_voting (s : State) (v : Proposal) (o : RoundOutcome) (w : Option Agent) :
    (s.endRound v o w).voting = none := by
  cases o <;> simp [-Fin.getElem_fin, State.endRound]

/-- R167. -/
theorem leaveRound_leftRound (s u : State) (a : Agent) (h : u.voting = s.voting) : leftRound s (u.leaveRound a) a := by
  unfold State.leaveRound
  constructor
  · intro hv
    rw [h, hv]
    simp only
    rw [h, hv]
  · intro v hv
    rw [h, hv]
    simp only
    split_ifs with h1 h2 h3
    · exact endRound_voting _ _ _ _
    · unfold State.testConsents
      simp only [h3, if_true]
      exact endRound_voting _ _ _ _
    · unfold State.testConsents
      simp only [h3, if_false]
    · exact h.trans hv

/-- R170: a committed table applies where it fits, and is held where not. -/
theorem commit_spec (u : State) (x : Table) (n : Byte) :
    (u.fits x = true → applied u (u.commit x n) x) ∧
      (u.fits x = false → (u.commit x n).slot = some ⟨x, n⟩ ∧ (u.commit x n).table = u.table ∧
        (u.commit x n).epoch = u.epoch ∧
        ((∀ a : Agent, u.watches[a] = .all none) →
          (u.commit x n).notices = u.notices ∧ (u.commit x n).latches = u.latches)) := by
  have hf : ({ u with slot := some ⟨x, n⟩ } : State).fits x = u.fits x := fits_congr _ _ _ rfl rfl
  refine ⟨fun h => ?_, fun h => ?_⟩
  · simp only [State.commit, State.fitThenWatches, hf, h, if_true]
    exact applyTable_applied { u with slot := some ⟨x, n⟩ } x
  · simp only [State.commit, State.fitThenWatches, hf, h]
    refine ⟨by simp [-Fin.getElem_fin], by simp [-Fin.getElem_fin], by simp [-Fin.getElem_fin], fun hw => ?_⟩
    have := evaluateWatches_disarmed { u with slot := some ⟨x, n⟩ } hw
    simp [-Fin.getElem_fin, this]

/-! ## Hand slots and queues under the place law -/

theorem handMessage_of (s : State) (a : Agent) (k : MsgClass) (d : DescId) (m : Message) (adm : Admission)
    (h : (s.hands[a]).get k = some d) (hd : s.descs[d] = .inHand m adm) : s.handMessage a k = some (d, m, adm) := by
  unfold State.handMessage
  rw [h]
  simp only [hd]

theorem handMessage_none (s : State) (a : Agent) (k : MsgClass) (h : (s.hands[a]).get k = none) :
    s.handMessage a k = none := by
  unfold State.handMessage
  rw [h]

/-- Under the place law a hand slot holds an IN_HAND message of its own agent and class. -/
theorem PlaceLaw.hand {s : State} (hl : PlaceLaw s) {a : Agent} {k : MsgClass} {d : DescId}
    (h : (s.hands[a]).get k = some d) : ∃ m adm, s.descs[d] = .inHand m adm ∧ m.dest = a ∧ m.cls = k := by
  have := (hl.2.2.1 a k d).mp h
  unfold State.inHandFor at this
  split at this
  · exact absurd this (by simp)
  · exact absurd this (by simp)
  · exact absurd this (by simp)
  · next m adm hd =>
    simp only [Bool.and_eq_true, decide_eq_true_eq] at this
    exact ⟨m, adm, hd, this.1, this.2⟩

/-- Under the place law a queue holds QUEUED messages of its own agent and class. -/
theorem PlaceLaw.queue {s : State} (hl : PlaceLaw s) {a : Agent} {k : MsgClass} {d : DescId}
    (h : d ∈ (s.queues[a]).get k) : ∃ m adm, s.descs[d] = .queued m adm ∧ m.dest = a ∧ m.cls = k := by
  have := (hl.2.1 a k d).mp h
  unfold State.queuedFor at this
  split at this
  · exact absurd this (by simp)
  · exact absurd this (by simp)
  · next m adm hd =>
    simp only [Bool.and_eq_true, decide_eq_true_eq] at this
    exact ⟨m, adm, hd, this.1, this.2⟩
  · exact absurd this (by simp)

/-- Under the place law a QUEUED message stands in the queue of its destination and class. -/
theorem PlaceLaw.queued {s : State} (hl : PlaceLaw s) {d : DescId} {m : Message} {adm : Admission}
    (h : s.descs[d] = .queued m adm) : d ∈ (s.queues[m.dest]).get m.cls := by
  refine (hl.2.1 m.dest m.cls d).mpr ?_
  unfold State.queuedFor
  rw [h]
  simp

/-- Under the place law an IN_HAND message stands in the hand slot of its destination and class. -/
theorem PlaceLaw.inHand {s : State} (hl : PlaceLaw s) {d : DescId} {m : Message} {adm : Admission}
    (h : s.descs[d] = .inHand m adm) : (s.hands[m.dest]).get m.cls = some d := by
  refine (hl.2.2.1 m.dest m.cls d).mpr ?_
  unfold State.inHandFor
  rw [h]
  simp

end Sys2Proof.Machine
end

