-- ==== Sys2Proof/Laws/Memory.lean ====
section
/-! SUPPORT. The cell contents: a write and a clear keep the canonical form; a read after either. -/

namespace Sys2Proof.Machine

/-! ## The canonical form -/

theorem memWfFrom_mono (lo lo' : Nat) (m : Memory) (h : lo' ≤ lo) (hm : memWfFrom lo m = true) :
    memWfFrom lo' m = true := by
  cases m with
  | nil => rfl
  | cons x rest =>
    obtain ⟨a, b⟩ := x
    simp only [memWfFrom, Bool.and_eq_true, decide_eq_true_eq] at hm ⊢
    exact ⟨⟨⟨by omega, hm.1.1.2⟩, hm.1.2⟩, hm.2⟩

/-- A write inside the cell store keeps the canonical form. -/
theorem memWrite_wfFrom (lo a : Nat) (b : Byte) (m : Memory) (hlo : lo ≤ a)
    (ha : a < Config.cellCount * Config.cellBytes) (hm : memWfFrom lo m = true) :
    memWfFrom lo (memWrite m a b) = true := by
  induction m generalizing lo with
  | nil => by_cases hb : b = 0#8 <;> simp [memWrite, memWfFrom, hb, hlo, ha]
  | cons x rest ih =>
    obtain ⟨a', b'⟩ := x
    simp only [memWfFrom, Bool.and_eq_true, decide_eq_true_eq, bne_iff_ne, ne_eq, BitVec.ofNat_eq_ofNat] at hm
    obtain ⟨⟨⟨h1, h2⟩, h3⟩, h4⟩ := hm
    rcases Nat.lt_trichotomy a a' with h | h | h
    · by_cases hb : b = 0#8
      · simp [memWrite, memWfFrom, h, hb, h1, h2, h3, h4]
      · simp [memWrite, memWfFrom, h, hb, hlo, ha, h2, h3, h4, Nat.succ_le_of_lt h]
    · subst h
      by_cases hb : b = 0#8
      · simpa [memWrite, hb] using memWfFrom_mono _ _ _ (by omega) h4
      · simp [memWrite, memWfFrom, hb, hlo, ha, h4]
    · have h5 : ¬ a < a' := by omega
      have h6 : a ≠ a' := by omega
      simp [memWrite, memWfFrom, h5, h6, h1, h2, h3, ih (a' + 1) (by omega) h4]

/-- A write inside the cell store keeps the canonical form. -/
theorem memWrite_wf (m : Memory) (a : Nat) (b : Byte) (ha : a < Config.cellCount * Config.cellBytes)
    (hm : memWf m = true) : memWf (memWrite m a b) = true :=
  memWrite_wfFrom 0 a b m (Nat.zero_le a) ha hm

theorem memFilter_wfFrom (f : Host.Cell → Bool) (lo : Nat) (m : Memory) (hm : memWfFrom lo m = true) :
    memWfFrom lo (m.filter f) = true := by
  induction m generalizing lo with
  | nil => rfl
  | cons x rest ih =>
    obtain ⟨a, b⟩ := x
    simp only [memWfFrom, Bool.and_eq_true, decide_eq_true_eq, bne_iff_ne, ne_eq, BitVec.ofNat_eq_ofNat] at hm
    obtain ⟨⟨⟨h1, h2⟩, h3⟩, h4⟩ := hm
    by_cases hf : f (a, b) = true
    · simp [List.filter_cons_of_pos hf, memWfFrom, h1, h2, h3, ih _ h4]
    · rw [List.filter_cons_of_neg hf]
      exact memWfFrom_mono _ _ _ (by omega) (ih _ h4)

/-- The clear of a cell keeps the canonical form. -/
theorem memClear_wf (m : Memory) (c : CellId) (hm : memWf m = true) : memWf (memClear m c) = true :=
  memFilter_wfFrom _ 0 m hm

/-- The contents after device reset are in canonical form. -/
theorem reset_mem_wf : memWf State.reset.mem = true := rfl

/-! ## Reads -/

theorem memRead_of_lt (lo a : Nat) (m : Memory) (h : a < lo) (hm : memWfFrom lo m = true) : memRead m a = 0 := by
  induction m generalizing lo with
  | nil => rfl
  | cons x rest ih =>
    obtain ⟨a', b'⟩ := x
    simp only [memWfFrom, Bool.and_eq_true, decide_eq_true_eq, bne_iff_ne, ne_eq, BitVec.ofNat_eq_ofNat] at hm
    have h1 : a' ≠ a := by omega
    simp only [memRead, h1, if_false]
    exact ih (a' + 1) (by omega) hm.2

theorem memRead_memWrite_from (lo a x : Nat) (b : Byte) (m : Memory) (hm : memWfFrom lo m = true) :
    memRead (memWrite m a b) x = if x = a then b else memRead m x := by
  induction m generalizing lo with
  | nil =>
    by_cases hb : b = 0#8
    · by_cases hx : x = a <;> simp [memWrite, memRead, hb]
    · by_cases hx : x = a
      · simp [memWrite, memRead, hb, hx]
      · simp [memWrite, memRead, hb, hx, Ne.symm hx]
  | cons y rest ih =>
    obtain ⟨a', b'⟩ := y
    simp only [memWfFrom, Bool.and_eq_true, decide_eq_true_eq, bne_iff_ne, ne_eq, BitVec.ofNat_eq_ofNat] at hm
    obtain ⟨⟨⟨h1, h2⟩, h3⟩, h4⟩ := hm
    rcases Nat.lt_trichotomy a a' with h | h | h
    · have hr : memRead ((a', b') :: rest) a = 0 := by
        simp only [memRead]
        rw [if_neg (by omega)]
        exact memRead_of_lt _ _ _ (by omega) h4
      by_cases hb : b = 0#8
      · subst hb
        by_cases hx : x = a
        · subst hx; simp [memWrite, h, hr]
        · simp [memWrite, h, hx]
      · by_cases hx : x = a
        · subst hx; simp [memWrite, h, hb, memRead]
        · have : a ≠ x := fun e => hx e.symm
          simp [memWrite, h, hb, memRead, hx, this]
    · subst h
      have hr : memRead rest a = 0 := memRead_of_lt _ _ _ (by omega) h4
      by_cases hb : b = 0#8
      · subst hb
        by_cases hx : x = a
        · subst hx; simp [memWrite, hr]
        · have : a ≠ x := fun e => hx e.symm
          simp [memWrite, memRead, hx, this]
      · by_cases hx : x = a
        · subst hx; simp [memWrite, hb, memRead]
        · have : a ≠ x := fun e => hx e.symm
          simp [memWrite, hb, memRead, hx, this]
    · have h5 : ¬ a < a' := by omega
      have h6 : a ≠ a' := by omega
      simp only [memWrite, h5, h6, if_false, memRead, ih _ h4]
      by_cases hx : a' = x
      · have : x ≠ a := by omega
        simp [hx, this]
      · simp [hx]

/-- A read after a write: the byte written at its address, what was there before at every other. -/
theorem memRead_memWrite (m : Memory) (a x : Nat) (b : Byte) (hm : memWf m = true) :
    memRead (memWrite m a b) x = if x = a then b else memRead m x :=
  memRead_memWrite_from 0 a x b m hm

/-- A read after a filter that looks at addresses alone. -/
theorem memRead_filter (f : Nat → Bool) (m : Memory) (x : Nat) :
    memRead (m.filter (fun y => f y.1)) x = if f x = true then memRead m x else 0 := by
  induction m with
  | nil => simp [memRead]
  | cons y rest ih =>
    obtain ⟨a', b'⟩ := y
    by_cases hf : f a' = true
    · rw [List.filter_cons_of_pos (by simpa using hf)]
      simp only [memRead, ih]
      by_cases hx : a' = x
      · subst hx; simp [hf]
      · simp [hx]
    · rw [List.filter_cons_of_neg (by simpa using hf), ih]
      by_cases hx : a' = x
      · subst hx; simp [hf]
      · simp [memRead, hx]

/-- R97: after the clear of a cell its 32 bytes read 0x00 and every other byte as before. -/
theorem memRead_memClear (m : Memory) (c : CellId) (x : Nat) :
    memRead (memClear m c) x =
      if cellAddr c 0 ≤ x ∧ x < cellAddr c 0 + Config.cellBytes then 0 else memRead m x := by
  have h := memRead_filter (fun y => !(decide (cellAddr c 0 ≤ y) && decide (y < cellAddr c 0 + Config.cellBytes))) m x
  unfold memClear
  rw [h]
  by_cases hx : cellAddr c 0 ≤ x ∧ x < cellAddr c 0 + Config.cellBytes
  · simp [hx.1, hx.2]
  · rw [if_neg hx]
    rcases Nat.lt_or_ge x (cellAddr c 0) with h1 | h1
    · simp [Nat.not_le.mpr h1]
    · have h2 : ¬ x < cellAddr c 0 + Config.cellBytes := fun h2 => hx ⟨h1, h2⟩
      simp [h2]

/-- The address of a byte of a cell lies in the cell store. -/
theorem cellAddr_lt (c : CellId) (j : Nat) (h : j < Config.cellBytes) :
    cellAddr c j < Config.cellCount * Config.cellBytes := by
  have := c.isLt
  simp only [cellAddr, Config.cellBytes, Config.cellCount] at *
  omega

end Sys2Proof.Machine
end

