-- ==== Sys2Proof/Laws/PerInstr.lean ====
section
/-! SUPPORT. Statements about every command, one lemma for each constructor: the request of a command has the length
that R188 gives its transaction code. -/

namespace Sys2Proof.Laws.RequestLength

/-- R188, R180, R51: the bytes of the request phase of a transaction, opcode included; of a POST, those of its header; of
an unknown opcode, one. -/
def lengthOf (code : Byte) : Nat :=
  if code = codeJoin || code = codeWatch then 3
  else if code = codePost then 6
  else if code = codeFetch || code = codeNotices || code = codeReadcfg || code = codeConsent || code = codeVeto then 2
  else if code = codeAck || code = codeNack then 4
  else if code = codeRecall then 5
  else if code = codePropose then 39
  else 1

/-- A well-formed command that is a request has as many bytes as its code tells. -/
def Statement (i : Instr) : Prop :=
  ∀ (p : Agent) (code : Byte) (args : List Byte),
    i.wellFormed = true → requestBytes i = some (p, code :: args) → args.length + 1 = lengthOf code

theorem deviceReset : Statement (.deviceReset) := by
  intro p code args _ h
  cases h

theorem startupClearStart : Statement (.startupClearStart) := by
  intro p code args _ h
  cases h

theorem startupClearCompletion : Statement (.startupClearCompletion) := by
  intro p code args _ h
  cases h

theorem csnFall (a : Agent) : Statement (.csnFall a) := by
  intro p code args _ h
  cases h

theorem csnRise (a : Agent) : Statement (.csnRise a) := by
  intro p code args _ h
  cases h

theorem badop (a : Agent) (b : Byte) : Statement (.badop a b) := by
  intro p code args hw h
  cases h
  have key : ∀ x : Byte, (!isTransactionCode x) = true → 1 = lengthOf x := by decide
  exact key b hw

theorem ident (a : Agent) : Statement (.ident a) := by
  intro p code args _ h
  cases h
  rfl

theorem status (a : Agent) : Statement (.status a) := by
  intro p code args _ h
  cases h
  rfl

theorem join (a : Agent) (b : Half) : Statement (.join a b) := by
  intro p code args _ h
  cases h
  rfl

theorem leave (a : Agent) : Statement (.leave a) := by
  intro p code args _ h
  cases h
  rfl

theorem renew (a : Agent) : Statement (.renew a) := by
  intro p code args _ h
  cases h
  rfl

theorem postHeader (a : Agent) (b c d : Byte) (e : Half) : Statement (.postHeader a b c d e) := by
  intro p code args _ h
  cases h
  rfl

theorem postStagingByte (a : Agent) (b : Byte) : Statement (.postStagingByte a b) := by
  intro p code args _ h
  cases h

theorem postLastCheckByte (a : Agent) (b : Byte) : Statement (.postLastCheckByte a b) := by
  intro p code args _ h
  cases h

theorem fetch (a : Agent) (b : Byte) : Statement (.fetch a b) := by
  intro p code args _ h
  cases h
  rfl

theorem ack (a : Agent) (b : Byte) (c : Half) : Statement (.ack a b c) := by
  intro p code args _ h
  cases h
  rfl

theorem nack (a : Agent) (b : Byte) (c : Half) : Statement (.nack a b c) := by
  intro p code args _ h
  cases h
  rfl

theorem recallMessage (a : Agent) (b c : Byte) (d : Half) : Statement (.recallMessage a b c d) := by
  intro p code args _ h
  cases h
  rfl

theorem watch (a : Agent) (b c : Byte) : Statement (.watch a b c) := by
  intro p code args _ h
  cases h
  rfl

theorem notices (a : Agent) (b : Byte) : Statement (.notices a b) := by
  intro p code args _ h
  cases h
  rfl

theorem noticeRecordRemoval (a : Agent) : Statement (.noticeRecordRemoval a) := by
  intro p code args _ h
  cases h

theorem overrunLatch (a : Agent) : Statement (.overrunLatch a) := by
  intro p code args _ h
  cases h

theorem summary (a : Agent) : Statement (.summary a) := by
  intro p code args _ h
  cases h
  rfl

theorem readcfg (a : Agent) (b : Byte) : Statement (.readcfg a b) := by
  intro p code args _ h
  cases h
  rfl

theorem propose (a : Agent) (b : List Byte) : Statement (.propose a b) := by
  intro p code args hw h
  cases h
  have hl : b.length = 38 := by simpa [Instr.wellFormed, imageBytes] using hw
  rw [hl]
  decide

theorem consent (a : Agent) (b : Byte) : Statement (.consent a b) := by
  intro p code args _ h
  cases h
  rfl

theorem veto (a : Agent) (b : Byte) : Statement (.veto a b) := by
  intro p code args _ h
  cases h
  rfl

theorem applyHeld : Statement (.applyHeld) := by
  intro p code args _ h
  cases h

theorem ageTick : Statement (.ageTick) := by
  intro p code args _ h
  cases h

theorem expiryPass : Statement (.expiryPass) := by
  intro p code args _ h
  cases h

theorem fencing (a : Agent) : Statement (.fencing a) := by
  intro p code args _ h
  cases h

theorem proposalLapse : Statement (.proposalLapse) := by
  intro p code args _ h
  cases h

theorem drainCompletion (a : Agent) : Statement (.drainCompletion a) := by
  intro p code args _ h
  cases h

theorem scrubCompletion : Statement (.scrubCompletion) := by
  intro p code args _ h
  cases h

theorem watchFire (a : Agent) (b : MsgClass) : Statement (.watchFire a b) := by
  intro p code args _ h
  cases h

end Sys2Proof.Laws.RequestLength
end

