-- ==== Sys2Proof/Laws/Releases.lean ====
section
/-! SUPPORT. What one release, and the releases of a list, do to descriptors, queues and hand slots. -/

namespace Sys2Proof.Machine

/-- A release frees its descriptor and no other. -/
theorem release_descs (s : State) (d e : DescId) (path : RemovalPath) :
    (s.release d path).descs[e] = if e = d then .free else s.descs[e] := by
  by_cases he : e = d
  · subst he
    rw [if_pos rfl]
    cases hd : s.descs[e] with
    | free => rw [release_free s e path hd, hd]
    | staging m => rw [release_staging s e m path hd]; simp [-Fin.getElem_fin, (dropRecord_dropped s e m).1]
    | queued m adm => rw [release_queued s e m adm path hd]; exact (finish_dropped _ e m adm path).1
    | inHand m adm => rw [release_inHand s e m adm path hd]; exact (finish_dropped _ e m adm path).1
  · rw [if_neg he]
    cases hd : s.descs[d] with
    | free => rw [release_free s d path hd]
    | staging m => rw [release_staging s d m path hd]; simp [-Fin.getElem_fin, (dropRecord_dropped s d m).2.1 e he]
    | queued m adm => rw [release_queued s d m adm path hd, (finish_dropped _ d m adm path).2.1 e he]; rfl
    | inHand m adm => rw [release_inHand s d m adm path hd, (finish_dropped _ d m adm path).2.1 e he]; rfl

/-- The releases of a list free its descriptors and no other. -/
theorem releaseAll_descs (s : State) (ds : List DescId) (e : DescId) (path : RemovalPath) :
    (s.releaseAll ds path).descs[e] = if e ∈ ds then .free else s.descs[e] := by
  induction ds generalizing s with
  | nil => simp [-Fin.getElem_fin, State.releaseAll]
  | cons d rest ih =>
    have h : s.releaseAll (d :: rest) path = (s.release d path).releaseAll rest path := rfl
    rw [h, ih, release_descs]
    by_cases h1 : e ∈ rest <;> by_cases h2 : e = d <;> simp [-Fin.getElem_fin, h1, h2]

/-- A release takes its descriptor out of the queues (R42 step 1). -/
theorem release_queues (s : State) (hl : PlaceLaw s) (d : DescId) (path : RemovalPath) (a : Agent) (k : MsgClass) :
    (((s.release d path).queues)[a]).get k = ((s.queues[a]).get k).filter (fun x => x ≠ d) := by
  have hno : d ∉ (s.queues[a]).get k → ((s.queues[a]).get k).filter (fun x => x ≠ d) = (s.queues[a]).get k := by
    intro h
    rw [List.filter_eq_self]
    intro x hx
    simp only [decide_eq_true_eq]
    rintro rfl
    exact h hx
  have hnq : (∀ m adm, s.descs[d] ≠ .queued m adm) → d ∉ (s.queues[a]).get k := by
    intro h hx
    obtain ⟨m, adm, e, -, -⟩ := hl.queue hx
    exact h m adm e
  cases hd : s.descs[d] with
  | free => rw [release_free s d path hd, hno (hnq (by simp [-Fin.getElem_fin, hd]))]
  | staging m => rw [release_staging s d m path hd, hno (hnq (by simp [-Fin.getElem_fin, hd]))]; simp [-Fin.getElem_fin]
  | inHand m adm => rw [release_inHand s d m adm path hd, hno (hnq (by simp [-Fin.getElem_fin, hd]))]; simp [-Fin.getElem_fin, State.finishRelease]
  | queued m adm =>
    rw [release_queued s d m adm path hd]
    by_cases h : a = m.dest ∧ k = m.cls
    · obtain ⟨rfl, rfl⟩ := h
      simp [-Fin.getElem_fin, State.finishRelease]
    · have hx : d ∉ (s.queues[a]).get k := by
        intro hx
        obtain ⟨m', adm', e, e1, e2⟩ := hl.queue hx
        rw [hd] at e
        cases e
        exact h ⟨e1.symm, e2.symm⟩
      rw [hno hx]
      by_cases ha : a = m.dest
      · subst ha
        have : m.cls ≠ k := fun e => h ⟨rfl, e.symm⟩
        simp [-Fin.getElem_fin, State.finishRelease, PerClass.get_set, this]
      · have hb : m.dest ≠ a := Ne.symm ha
        simp [-Fin.getElem_fin, State.finishRelease, vec_get_set, hb]

/-- A release takes its descriptor out of the hand slots (R42 step 1). -/
theorem release_hands (s : State) (hl : PlaceLaw s) (d : DescId) (path : RemovalPath) (a : Agent) (k : MsgClass) :
    (((s.release d path).hands)[a]).get k = if (s.hands[a]).get k = some d then none else (s.hands[a]).get k := by
  have hnq : (∀ m adm, s.descs[d] ≠ .inHand m adm) → (s.hands[a]).get k ≠ some d := by
    intro h hx
    obtain ⟨m, adm, e, -, -⟩ := hl.hand hx
    exact h m adm e
  cases hd : s.descs[d] with
  | free => rw [release_free s d path hd, if_neg (hnq (by simp [-Fin.getElem_fin, hd]))]
  | staging m => rw [release_staging s d m path hd, if_neg (hnq (by simp [-Fin.getElem_fin, hd]))]; simp [-Fin.getElem_fin]
  | queued m adm => rw [release_queued s d m adm path hd, if_neg (hnq (by simp [-Fin.getElem_fin, hd]))]; simp [-Fin.getElem_fin, State.finishRelease]
  | inHand m adm =>
    rw [release_inHand s d m adm path hd]
    by_cases h : a = m.dest ∧ k = m.cls
    · obtain ⟨rfl, rfl⟩ := h
      simp [-Fin.getElem_fin, State.finishRelease, hl.inHand hd]
    · have hx : (s.hands[a]).get k ≠ some d := by
        intro hx
        obtain ⟨m', adm', e, e1, e2⟩ := hl.hand hx
        rw [hd] at e
        cases e
        exact h ⟨e1.symm, e2.symm⟩
      rw [if_neg hx]
      by_cases ha : a = m.dest
      · subst ha
        have : m.cls ≠ k := fun e => h ⟨rfl, e.symm⟩
        simp [-Fin.getElem_fin, State.finishRelease, PerClass.get_set, this]
      · have hb : m.dest ≠ a := Ne.symm ha
        simp [-Fin.getElem_fin, State.finishRelease, vec_get_set, hb]

/-- The release of a message that is not STAGING keeps the place law. -/
theorem release_place (s : State) (hl : PlaceLaw s) (d : DescId) (path : RemovalPath)
    (hs : ∀ m, s.descs[d] ≠ .staging m) : PlaceLaw (s.release d path) := by
  refine ⟨fun a k => ?_, fun a k e => ?_, fun a k e => ?_, fun p e => ?_⟩
  · rw [release_queues s hl]; exact (hl.1 a k).filter _
  · rw [release_queues s hl, List.mem_filter, hl.2.1 a k e]
    unfold State.queuedFor
    rw [release_descs]
    by_cases h : e = d <;> simp [-Fin.getElem_fin, h]
  · rw [release_hands s hl]
    have := hl.2.2.1 a k e
    unfold State.inHandFor at this ⊢
    rw [release_descs]
    by_cases h : e = d
    · subst h
      simp [-Fin.getElem_fin]
    · simp only [h, if_false]
      rw [← this]
      split
      · next h2 => rw [h2]; simp [-Fin.getElem_fin, Ne.symm h]
      · rfl
  · have hst : (s.release d path).stagings = s.stagings := by simp [-Fin.getElem_fin]
    rw [hst, hl.2.2.2 p e]
    unfold State.stagedOn
    rw [release_descs]
    by_cases h : e = d
    · subst h
      simp [-Fin.getElem_fin]
      split
      · rfl
      · next m h2 => exact absurd h2 (hs m)
      · rfl
      · rfl
    · simp only [h, if_false]

/-- The releases of a list keep the place law and take its descriptors out of the queues and the hand slots. -/
theorem releaseAll_place (s : State) (hl : PlaceLaw s) (ds : List DescId) (path : RemovalPath)
    (hs : ∀ d ∈ ds, ∀ m, s.descs[d] ≠ .staging m) :
    PlaceLaw (s.releaseAll ds path) ∧
      (∀ (a : Agent) k, (((s.releaseAll ds path).queues)[a]).get k = ((s.queues[a]).get k).filter (fun x => x ∉ ds)) ∧
      (∀ (a : Agent) k, (((s.releaseAll ds path).hands)[a]).get k =
        ((s.hands[a]).get k).filter (fun x => x ∉ ds)) := by
  induction ds generalizing s with
  | nil =>
    refine ⟨hl, fun a k => by simp [-Fin.getElem_fin, State.releaseAll], fun a k => ?_⟩
    cases h : (s.hands[a]).get k <;> simp [-Fin.getElem_fin, State.releaseAll, h, Option.filter]
  | cons d rest ih =>
    have h : s.releaseAll (d :: rest) path = (s.release d path).releaseAll rest path := rfl
    rw [h]
    obtain ⟨i1, i2, i3⟩ := ih (s.release d path) (release_place s hl d path (hs d (by simp [-Fin.getElem_fin]))) (by
      intro e he m
      rw [release_descs]
      split
      · simp [-Fin.getElem_fin]
      · exact hs e (by simp [-Fin.getElem_fin, he]) m)
    refine ⟨i1, fun a k => ?_, fun a k => ?_⟩
    · rw [i2, release_queues s hl, List.filter_filter]
      congr 1
      funext x
      simp [-Fin.getElem_fin, not_or, Bool.and_comm]
    · rw [i3, release_hands s hl]
      split
      · next h2 => rw [h2]; simp [-Fin.getElem_fin, Option.filter]
      · next h2 =>
        cases hh : (s.hands[a]).get k with
        | none => rfl
        | some x =>
          have : x ≠ d := fun e => h2 (by rw [hh, e])
          simp [-Fin.getElem_fin, Option.filter, this]

end Sys2Proof.Machine
end

