-- ==== Sys2Proof/Laws/Told.lean ====
section
/-! SUPPORT. What each agent is offered, in order: an evaluation of the watches, an apply, a fit test, a commit, a release,
the rejoin return and the end of a round, once each, in the words of the statements. -/

namespace Sys2Proof.Machine

/-! ## Lists of offers -/

theorem offerEach_append (s : State) (xs ys : List (Agent × Notice)) :
    s.offerEach (xs ++ ys) = (s.offerEach xs).offerEach ys := List.foldl_append

/-- What a list of offers to one agent does there depends on that agent's port, queue and latch alone. -/
theorem offerEach_congr (s u : State) (b : Agent) (ns : List Notice)
    (hm : (u.members[b]).state = (s.members[b]).state) (hn : u.notices[b] = s.notices[b])
    (hl : u.latches[b] = s.latches[b]) :
    ((u.offerEach (ns.map (fun n => (b, n)))).notices)[b] = ((s.offerEach (ns.map (fun n => (b, n)))).notices)[b] ∧
      ((u.offerEach (ns.map (fun n => (b, n)))).latches)[b] = ((s.offerEach (ns.map (fun n => (b, n)))).latches)[b] := by
  induction ns generalizing s u with
  | nil => exact ⟨hn, hl⟩
  | cons n rest ih =>
    obtain ⟨h1, h2⟩ := State.offer_notices_congr s u b n hm hn hl
    exact ih (s.offer b n) (u.offer b n) (by simpa [-Fin.getElem_fin] using hm) h1 h2

/-- No offer. -/
theorem toldEach_nil {s t : State} {b : Agent} (hn : t.notices[b] = s.notices[b]) (hl : t.latches[b] = s.latches[b]) :
    toldEach s t b [] := ⟨hn, hl⟩

/-- One list of offers after another. -/
theorem toldEach_append {s u t : State} {b : Agent} {xs ys : List Notice} (h1 : toldEach s u b xs)
    (h2 : toldEach u t b ys) (hm : (u.members[b]).state = (s.members[b]).state) : toldEach s t b (xs ++ ys) := by
  have hs : ((s.offerEach (xs.map (fun n => (b, n)))).members) = s.members :=
    foldl_field State.members _ (fun t x => by simp) _ s
  obtain ⟨c1, c2⟩ := offerEach_congr (s.offerEach (xs.map (fun n => (b, n)))) u b ys (by rw [hs]; exact hm) h1.1 h1.2
  unfold toldEach toldInOrder
  rw [List.map_append, offerEach_append]
  exact ⟨h2.1.trans c1, h2.2.trans c2⟩

/-- An offer to one agent. -/
theorem toldEach_offer (s : State) (b : Agent) (n : Notice) : toldEach s (s.offer b n) b [n] := ⟨rfl, rfl⟩

/-- The offers read the ports of `s` alone, and the queues that `t` leaves. -/
theorem toldEach_of_eq {s u t v : State} {b : Agent} {xs : List Notice} (h : toldEach s t b xs)
    (hm : (u.members[b]).state = (s.members[b]).state) (hn : u.notices[b] = s.notices[b])
    (hl : u.latches[b] = s.latches[b]) (hn' : v.notices[b] = t.notices[b]) (hl' : v.latches[b] = t.latches[b]) :
    toldEach u v b xs := by
  obtain ⟨c1, c2⟩ := offerEach_congr s u b xs hm hn hl
  exact ⟨hn'.trans (h.1.trans c1.symm), hl'.trans (h.2.trans c2.symm)⟩

/-! ## The evaluation of the watches (R21, R22) -/

/-- A credit level is read from the table, the slot and the used counts. -/
theorem creditLevel_congr {s u : State} (a : Agent) (k : MsgClass) (ht : u.table = s.table) (hs : u.slot = s.slot)
    (hu : u.used = s.used) : u.creditLevel a k = s.creditLevel a k := by
  unfold State.creditLevel State.commonHeadroom State.reservedHeadroom
  rw [ht, hs, hu]

/-- R22: one watch tested. -/
theorem testWatch_spec (s : State) (a : Agent) (k : MsgClass) :
    toldEach s (s.testWatch a k) a (s.creditFor s a k).toList ∧
      (∀ j, ((s.testWatch a k).watches[a]).get j = if j = k then s.watchLeft s a k else (s.watches[a]).get j) ∧
      ∀ b : Agent, b ≠ a → (s.testWatch a k).notices[b] = s.notices[b] ∧ (s.testWatch a k).latches[b] = s.latches[b] ∧
        (s.testWatch a k).watches[b] = s.watches[b] := by
  unfold State.testWatch State.creditFor State.watchLeft
  cases hw : (s.watches[a]).get k with
  | none =>
    refine ⟨toldEach_nil rfl rfl, fun j => ?_, fun b _ => ⟨rfl, rfl, rfl⟩⟩
    by_cases e : j = k
    · rw [if_pos e, e]
      exact hw
    · exact (if_neg e).symm
  | some n =>
    by_cases h : n ≤ s.creditLevel a k
    · simp only [h, if_true]
      refine ⟨⟨rfl, rfl⟩, fun j => ?_, fun b hb => ⟨?_, ?_, ?_⟩⟩
      · simp only [State.setWatch, State.offer_untouched, vec_get_set, if_true, PerClass.get_set]
        simp only [eq_comm]
      · exact State.offer_notices_ne s a b _ hb
      · exact State.offer_latches_ne s a b _ hb
      · simp only [State.setWatch, State.offer_untouched, vec_get_set_ne _ _ _ _ (Ne.symm hb)]
    · simp only [h, if_false]
      refine ⟨toldEach_nil rfl rfl, fun j => ?_, fun b _ => by simp⟩
      by_cases e : j = k
      · rw [if_pos e, e]
        exact hw
      · exact (if_neg e).symm

/-- R22: the three watches of one agent evaluated, in class rank order. -/
theorem testWatchesOf_spec (s : State) (a : Agent) :
    toldEach s (s.testWatchesOf a) a (s.credits s a) ∧ evaluated s (s.testWatchesOf a) a ∧
      ∀ b : Agent, b ≠ a → (s.testWatchesOf a).notices[b] = s.notices[b] ∧
        (s.testWatchesOf a).latches[b] = s.latches[b] ∧ (s.testWatchesOf a).watches[b] = s.watches[b] := by
  have e : s.testWatchesOf a = ((s.testWatch a .express).testWatch a .standard).testWatch a .bulk := rfl
  obtain ⟨t1, w1, o1⟩ := testWatch_spec s a .express
  obtain ⟨t2, w2, o2⟩ := testWatch_spec (s.testWatch a .express) a .standard
  obtain ⟨t3, w3, o3⟩ := testWatch_spec ((s.testWatch a .express).testWatch a .standard) a .bulk
  have l1 (k) : (s.testWatch a .express).creditLevel a k = s.creditLevel a k :=
    creditLevel_congr a k (by simp) (by simp) (by simp)
  have l2 (k) : ((s.testWatch a .express).testWatch a .standard).creditLevel a k = s.creditLevel a k :=
    creditLevel_congr a k (by simp) (by simp) (by simp)
  have l3 (k) : (s.testWatchesOf a).creditLevel a k = s.creditLevel a k :=
    creditLevel_congr a k (by simp) (by simp) (by simp)
  have f2 : (s.testWatch a .express).creditFor (s.testWatch a .express) a .standard = s.creditFor s a .standard := by
    simp only [State.creditFor, l1, w1, if_neg (show ¬MsgClass.standard = .express by decide)]
  have g2 : (s.testWatch a .express).watchLeft (s.testWatch a .express) a .standard = s.watchLeft s a .standard := by
    simp only [State.watchLeft, l1, w1, if_neg (show ¬MsgClass.standard = .express by decide)]
  have f3 : ((s.testWatch a .express).testWatch a .standard).creditFor
      ((s.testWatch a .express).testWatch a .standard) a .bulk = s.creditFor s a .bulk := by
    simp only [State.creditFor, l2, w2, w1, if_neg (show ¬MsgClass.bulk = .express by decide),
      if_neg (show ¬MsgClass.bulk = .standard by decide)]
  have g3 : ((s.testWatch a .express).testWatch a .standard).watchLeft
      ((s.testWatch a .express).testWatch a .standard) a .bulk = s.watchLeft s a .bulk := by
    simp only [State.watchLeft, l2, w2, w1, if_neg (show ¬MsgClass.bulk = .express by decide),
      if_neg (show ¬MsgClass.bulk = .standard by decide)]
  rw [f2] at t2
  rw [f3] at t3
  refine ⟨?_, fun k => ?_, fun b hb => ?_⟩
  · have h12 := toldEach_append t1 t2 (by simp [-Fin.getElem_fin])
    have h123 := toldEach_append h12 t3 (by simp [-Fin.getElem_fin])
    have ec : s.credits s a =
        (s.creditFor s a .express).toList ++ (s.creditFor s a .standard).toList ++ (s.creditFor s a .bulk).toList := by
      cases h1 : s.creditFor s a .express <;> cases h2 : s.creditFor s a .standard <;>
        cases h3 : s.creditFor s a .bulk <;> simp [State.credits, classes, h1, h2, h3]
    rw [ec, e]
    exact h123
  · have hl : s.watchLeft (s.testWatchesOf a) a k = s.watchLeft s a k := by simp only [State.watchLeft, l3]
    rw [hl, e]
    cases k with
    | express => simp only [w3, w2, w1, if_true, reduceCtorEq, if_false]
    | standard => simp only [w3, w2, g2, if_true, reduceCtorEq, if_false]
    | bulk => simp only [w3, g3, if_true]
  · obtain ⟨a1, a2, a3⟩ := o1 b hb
    obtain ⟨b1, b2, b3⟩ := o2 b hb
    obtain ⟨c1, c2, c3⟩ := o3 b hb
    rw [e]
    exact ⟨c1.trans (b1.trans a1), c2.trans (b2.trans a2), c3.trans (b3.trans a3)⟩

/-- The watches of some agents evaluated, one agent after another. -/
theorem testWatches_fold (s : State) (l : List Agent) (hl : l.Nodup) (b : Agent) :
    (b ∈ l → toldEach s (l.foldl (fun t a => t.testWatchesOf a) s) b (s.credits s b) ∧
      ∀ k, ((l.foldl (fun t a => t.testWatchesOf a) s).watches[b]).get k = s.watchLeft s b k) ∧
    (b ∉ l → (l.foldl (fun t a => t.testWatchesOf a) s).notices[b] = s.notices[b] ∧
      (l.foldl (fun t a => t.testWatchesOf a) s).latches[b] = s.latches[b] ∧
      (l.foldl (fun t a => t.testWatchesOf a) s).watches[b] = s.watches[b]) := by
  induction l generalizing s with
  | nil => exact ⟨fun h => absurd h List.not_mem_nil, fun _ => ⟨rfl, rfl, rfl⟩⟩
  | cons a rest ih =>
    obtain ⟨ha, hr⟩ := List.nodup_cons.mp hl
    obtain ⟨i1, i2⟩ := ih (s.testWatchesOf a) hr
    obtain ⟨t1, w1, o1⟩ := testWatchesOf_spec s a
    have lv (c : Agent) (k) : (s.testWatchesOf a).creditLevel c k = s.creditLevel c k :=
      creditLevel_congr c k (by simp) (by simp) (by simp)
    simp only [List.foldl_cons]
    constructor
    · intro hb
      by_cases h : b = a
      · subst h
        obtain ⟨j1, j2, j3⟩ := i2 ha
        refine ⟨toldEach_of_eq t1 rfl rfl rfl j1 j2, fun k => ?_⟩
        rw [j3, w1 k]
        simp only [State.watchLeft, lv]
      · obtain ⟨o2, o3, o4⟩ := o1 b h
        obtain ⟨j1, j2⟩ := i1 ((List.mem_cons.mp hb).resolve_left h)
        have ec : (s.testWatchesOf a).credits (s.testWatchesOf a) b = s.credits s b := by
          unfold State.credits State.creditFor
          simp only [lv, o4]
        rw [ec] at j1
        refine ⟨toldEach_of_eq j1 (by simp [-Fin.getElem_fin]) o2.symm o3.symm rfl rfl, fun k => ?_⟩
        rw [j2 k]
        simp only [State.watchLeft, lv, o4]
    · intro hb
      obtain ⟨h1, h2⟩ := not_or.mp (fun e => hb (List.mem_cons.mpr e))
      obtain ⟨o2, o3, o4⟩ := o1 b h1
      obtain ⟨j1, j2, j3⟩ := i2 h2
      exact ⟨j1.trans o2, j2.trans o3, j3.trans o4⟩

/-- CREDIT and the watches that are left are read from the watches of `s` and the levels of `t`. -/
theorem credits_congr {s s' t t' : State} (b : Agent) (hw : s'.watches[b] = s.watches[b]) (ht : t'.table = t.table)
    (hs : t'.slot = t.slot) (hu : t'.used = t.used) :
    s'.credits t' b = s.credits t b ∧ ∀ k, s'.watchLeft t' b k = s.watchLeft t b k := by
  have l (k) := creditLevel_congr b k ht hs hu
  unfold State.credits State.creditFor State.watchLeft
  exact ⟨by simp only [l, hw], fun k => by simp only [l, hw]⟩

/-- R21: every armed watch evaluated. -/
theorem evaluateWatches_told (s : State) (b : Agent) : toldAndEvaluated s s.evaluateWatches b [] [] := by
  obtain ⟨h1, h2⟩ := (testWatches_fold s agents (by decide) b).1 (mem_agents b)
  obtain ⟨c1, c2⟩ := credits_congr (s := s) (s' := s) (t := s) (t' := s.evaluateWatches) b rfl (by simp) (by simp) (by simp)
  refine ⟨?_, fun k => (h2 k).trans (c2 k).symm⟩
  rw [c1, List.nil_append, List.append_nil]
  exact h1

/-- An evaluation behind some offers. -/
theorem evaluated_after {s v t : State} {b : Agent} {first : List Notice} (h : toldEach s v b first)
    (hm : (v.members[b]).state = (s.members[b]).state) (hw : v.watches[b] = s.watches[b])
    (he : toldAndEvaluated v t b [] []) : toldAndEvaluated s t b first [] := by
  obtain ⟨c1, c2⟩ := credits_congr (s := s) (s' := v) (t := t) (t' := t) b hw rfl rfl rfl
  refine ⟨?_, fun k => (he.2 k).trans (c2 k)⟩
  have h1 := he.1
  rw [List.nil_append, List.append_nil, c1] at h1
  rw [List.append_nil]
  exact toldEach_append h h1 hm

/-! ## The apply, the fit test and the commit (R170 to R173) -/

/-- R173 steps 5 and 6. -/
theorem applyTable_told (s : State) (x : Table) (b : Agent) :
    toldAndEvaluated s (s.applyTable x) b [.configApplied (s.applyTable x).epoch] [] := by
  set u : State := State.restartClock { s with table := x, epoch := epochAfter s.epoch, slot := none } with hu
  have ht : s.applyTable x = (u.offerAll agents (.configApplied u.epoch)).evaluateWatches := rfl
  have he : (s.applyTable x).epoch = u.epoch := by rw [ht]; simp
  obtain ⟨o1, o2⟩ := State.offerAll_notices_mem u agents (.configApplied u.epoch) b (by decide) (mem_agents b)
  rw [he, ht]
  exact evaluated_after (v := u.offerAll agents (.configApplied u.epoch))
    (toldEach_of_eq (toldEach_offer u b (.configApplied u.epoch)) rfl rfl rfl o1 o2) (by simp [-Fin.getElem_fin, hu])
    (by simp [-Fin.getElem_fin, hu]) (evaluateWatches_told _ b)

/-- R172: the fit test. -/
theorem runFitTest_spec (s : State) :
    fitTested s s.runFitTest ∧ s.appliesTo s.runFitTest = s.appliesTo s ∧
      (s.appliesTo s = false → s.runFitTest = s) ∧
      (s.appliesTo s = true → ∀ b : Agent,
        toldAndEvaluated s s.runFitTest b (s.runFitTest.configNotice true) []) := by
  have hf (x : Table) : s.runFitTest.fits x = s.fits x := fits_congr _ _ _ (by simp) (by simp)
  unfold fitTested State.appliesTo
  cases hs : s.slot with
  | none =>
    have e := runFitTest_empty s hs
    rw [e]
    exact ⟨⟨rfl, rfl, rfl, rfl, rfl, rfl⟩, rfl, fun _ => rfl, fun h => by cases h⟩
  | some h =>
    simp only [hf, true_and]
    have e : s.runFitTest = if s.fits h.table then s.applyTable h.table else s := by
      unfold State.runFitTest
      rw [hs]
    cases hx : s.fits h.table
    · rw [hx] at e
      rw [e]
      exact ⟨⟨rfl, rfl, rfl, rfl, rfl, rfl⟩, fun _ => rfl, fun h => by cases h⟩
    · rw [hx] at e
      rw [e]
      exact ⟨applyTable_applied s _, fun h => (by cases h), fun _ b => applyTable_told s _ b⟩

/-- R98 steps 5 and 6, R99: the fit test and the evaluation of the watches. -/
theorem fitThenWatches_spec (s : State) :
    fitTested s s.fitThenWatches ∧
      ∀ b : Agent, toldAndEvaluated s s.fitThenWatches b (s.fitThenWatches.configNotice (s.appliesTo s)) [] := by
  have hk : tableKept s s.evaluateWatches := by
    refine ⟨?_, ?_, ?_, ?_, ?_, ?_⟩ <;> simp
  have hf (x : Table) : s.fitThenWatches.fits x = s.fits x := fits_congr _ _ _ (by simp) (by simp)
  unfold fitTested State.appliesTo
  cases hs : s.slot with
  | none =>
    have e : s.fitThenWatches = s.evaluateWatches := by
      unfold State.fitThenWatches
      rw [hs]
    rw [e]
    exact ⟨hk, fun b => evaluateWatches_told s b⟩
  | some h =>
    simp only [hf]
    have e : s.fitThenWatches = if s.fits h.table then s.applyTable h.table else s.evaluateWatches := by
      unfold State.fitThenWatches
      rw [hs]
    cases hx : s.fits h.table
    · rw [hx] at e
      rw [e]
      exact ⟨hk, fun b => evaluateWatches_told s b⟩
    · rw [hx] at e
      rw [e]
      exact ⟨applyTable_applied s _, fun b => applyTable_told s _ b⟩

/-- R170: the commit of the table of a proposal. -/
theorem commit_told (s : State) (v : Proposal) :
    committed s (s.commit v.table v.number) v ∧
      ∀ b : Agent, toldAndEvaluated s (s.commit v.table v.number) b
        ((s.commit v.table v.number).configNotice ((s.commit v.table v.number).fits v.table)) [] := by
  set u : State := { s with slot := some ⟨v.table, v.number⟩ } with hu
  have ht : s.commit v.table v.number = u.fitThenWatches := rfl
  have hf : (s.commit v.table v.number).fits v.table = s.fits v.table := fits_congr _ _ _ (by simp) (by simp)
  obtain ⟨h1, h2⟩ := fitThenWatches_spec u
  have ha : u.appliesTo u = s.fits v.table := fits_congr _ _ _ rfl rfl
  constructor
  · unfold committed
    rw [hf]
    have h3 : if u.fitThenWatches.fits v.table = true then applied u u.fitThenWatches v.table
        else tableKept u u.fitThenWatches := h1
    rw [← ht, hf] at h3
    cases hx : s.fits v.table
    · rw [hx] at h3
      obtain ⟨k1, k2, k3, k4, k5, k6⟩ := h3
      exact ⟨k2, k1, k3, k4, k5, k6⟩
    · rw [hx] at h3
      exact h3
  · intro b
    have h3 := h2 b
    rw [ha] at h3
    rw [hf, ht]
    obtain ⟨c1, c2⟩ := credits_congr (s := s) (s' := u) (t := u.fitThenWatches) (t' := u.fitThenWatches) b rfl rfl rfl rfl
    exact ⟨toldEach_of_eq h3.1 rfl rfl rfl rfl rfl, fun k => (h3.2 k).trans (c2 k)⟩

/-! ## What an evaluation and a fit test leave (R21, R172) -/

/-- R21, R22: no watch stays armed at or under its level. -/
theorem watchLaw_of_evaluated {s t : State} (h : ∀ b : Agent, evaluated s t b) : WatchLaw t := by
  intro a k n e
  rw [h a k, State.watchLeft] at e
  split at e
  · cases e
  · split_ifs at e with hn
    cases e
    omega

/-- R172: a table still held does not fit. -/
theorem heldLaw_of_fitTested {s t : State} (h : fitTested s t) : HeldLaw t := by
  intro x e
  unfold fitTested at h
  split at h
  · next hs => rw [h.2.1, hs] at e; cases e
  · next y hs =>
    split_ifs at h with hf
    · rw [h.2.1] at e; cases e
    · rw [h.2.1, hs] at e
      cases e
      simpa using hf

/-- R170: a table that was committed and is still held does not fit. -/
theorem heldLaw_of_committed {s t : State} {v : Proposal} (h : committed s t v) : HeldLaw t := by
  intro x e
  unfold committed at h
  split_ifs at h with hf
  · rw [h.2.1] at e; cases e
  · rw [h.1] at e
    cases e
    simpa using hf

/-! ## A release (R42) -/

/-- The fit test reads the tables and the counts alone. -/
theorem fitTested_congr {s u t t' : State} (h : fitTested s t) (h1 : u.table = s.table) (h2 : u.slot = s.slot)
    (h3 : u.epoch = s.epoch) (h4 : u.prescaleCount = s.prescaleCount) (h5 : u.periodCount = s.periodCount)
    (h6 : u.postscaleCount = s.postscaleCount) (g1 : t'.table = t.table) (g2 : t'.slot = t.slot)
    (g3 : t'.epoch = t.epoch) (g4 : t'.prescaleCount = t.prescaleCount) (g5 : t'.periodCount = t.periodCount)
    (g6 : t'.postscaleCount = t.postscaleCount) (g7 : t'.used = t.used) (g8 : t'.inUse = t.inUse) : fitTested u t' := by
  have hf (x : Table) : t'.fits x = t.fits x := fits_congr _ _ _ g7 g8
  unfold fitTested tableKept applied at *
  simp only [hf, h1, h2, h3, h4, h5, h6, g1, g2, g3, g4, g5, g6]
  exact h

/-- The notice of a removal path, as agent `b` sees it (R43). -/
def removalTo (path : RemovalPath) (m : Message) (adm : Admission) (b : Agent) : List Notice :=
  match removalNotice path m adm with
  | none => []
  | some n => if b = m.source then [n] else []

theorem offerOptional_told (s : State) (path : RemovalPath) (m : Message) (adm : Admission) (b : Agent) :
    toldEach s (s.offerOptional m.source (removalNotice path m adm)) b (removalTo path m adm b) := by
  unfold removalTo
  cases removalNotice path m adm with
  | none => exact toldEach_nil rfl rfl
  | some n =>
    by_cases h : b = m.source
    · subst h
      simp only [if_true]
      exact toldEach_offer s m.source n
    · simp only [if_neg h]
      exact toldEach_nil (State.offer_notices_ne _ _ _ _ h) (State.offer_latches_ne _ _ _ _ h)

/-- R42 step 6 behind some offers. -/
theorem releaseTold_fit {s w : State} {left : Option Agent} {first : List Notice} {b : Agent}
    (hs : w.slot = s.slot)
    (hl : left = some b → w.notices[b] = [] ∧ w.latches[b] = none ∧ w.watches[b] = .all none ∧ w.isMember b = false)
    (ho : left ≠ some b → (w.members[b]).state = (s.members[b]).state ∧ w.watches[b] = s.watches[b] ∧
      toldEach s w b (first ++ peerNotice left)) : releaseTold s w.runFitTest left first b := by
  obtain ⟨-, f2, f3, f4⟩ := runFitTest_spec w
  have ha : s.appliesTo w.runFitTest = w.appliesTo w := by
    rw [← f2]
    unfold State.appliesTo
    rw [hs]
  unfold releaseTold
  by_cases h : left = some b
  · rw [if_pos h]
    obtain ⟨l1, l2, l3, l4⟩ := hl h
    cases hx : w.appliesTo w
    · rw [f3 hx]
      exact ⟨l1, l2, l3⟩
    · obtain ⟨e1, e2⟩ := f4 hx b
      have hc : w.credits w.runFitTest b = [] := by
        unfold State.credits State.creditFor
        rw [l3]
        simp
      rw [hc] at e1
      have hoff : w.offer b (.configApplied w.runFitTest.epoch) = w := offer_nonmember _ _ _ l4
      have e3 : w.runFitTest.notices[b] = ((w.offer b (.configApplied w.runFitTest.epoch)).notices)[b] := e1.1
      have e4 : w.runFitTest.latches[b] = ((w.offer b (.configApplied w.runFitTest.epoch)).latches)[b] := e1.2
      rw [hoff] at e3 e4
      refine ⟨e3.trans l1, e4.trans l2, PerClass.ext_get _ _ (fun k => ?_)⟩
      rw [e2 k, State.watchLeft, l3]
      simp
  · rw [if_neg h, ha]
    obtain ⟨o1, o2, o3⟩ := ho h
    cases hx : w.appliesTo w
    · rw [f3 hx]
      exact ⟨o3, o2⟩
    · obtain ⟨e1, e2⟩ := f4 hx b
      obtain ⟨c1, c2⟩ := credits_congr (s := s) (s' := w) (t := w.runFitTest) (t' := w.runFitTest) b o2 rfl rfl rfl
      rw [if_pos rfl]
      refine ⟨?_, fun k => (e2 k).trans (c2 k)⟩
      rw [c1] at e1
      have := toldEach_append o3 e1 o1
      simpa only [List.append_assoc] using this

/-- What a release tells reads the ports, the notices, the watches and the slot of the state before it alone. -/
theorem releaseTold_congr {s u t : State} {left : Option Agent} {first : List Notice} {b : Agent}
    (h : releaseTold u t left first b) (hm : s.members = u.members) (hn : s.notices = u.notices)
    (hl : s.latches = u.latches) (hw : s.watches = u.watches) (hs : s.slot = u.slot) : releaseTold s t left first b := by
  have ha : s.appliesTo t = u.appliesTo t := by
    unfold State.appliesTo
    rw [hs]
  obtain ⟨c1, c2⟩ := credits_congr (s := u) (s' := s) (t := t) (t' := t) b (by rw [hw]) rfl rfl rfl
  have told (ns : List Notice) (hx : toldEach u t b ns) : toldEach s t b ns :=
    toldEach_of_eq hx (by rw [hm]) (by rw [hn]) (by rw [hl]) rfl rfl
  unfold releaseTold at *
  rw [ha, hw]
  split_ifs at h ⊢ with h1 h2
  · exact h
  · obtain ⟨g1, g2⟩ := h
    rw [← c1] at g1
    exact ⟨told _ g1, fun k => (g2 k).trans (c2 k).symm⟩
  · exact ⟨told _ h.1, h.2⟩

/-- R42: the release of a STAGING message tells nobody but by an apply. -/
theorem drop_told (s : State) (d : DescId) (m : Message) :
    fitTested s (s.dropRecord d m).runFitTest ∧ ∀ b : Agent, releaseTold s (s.dropRecord d m).runFitTest none [] b := by
  constructor
  · exact fitTested_congr (runFitTest_spec (s.dropRecord d m)).1 (by simp) (by simp) (by simp) (by simp) (by simp)
      (by simp) rfl rfl rfl rfl rfl rfl rfl rfl
  · intro b
    refine releaseTold_fit (by simp) (fun h => by cases h) (fun _ => ⟨by simp [-Fin.getElem_fin],
      by simp [-Fin.getElem_fin], toldEach_nil (by simp [-Fin.getElem_fin]) (by simp [-Fin.getElem_fin])⟩)

/-- R135, R136: what the drain test offers. -/
theorem drainTest_told (s : State) (a b : Agent) :
    if s.portIs a .closing ∧ s.holdsNothing a = true then
      (b = a → (s.drainTest a).notices[b] = [] ∧ (s.drainTest a).latches[b] = none ∧
        (s.drainTest a).watches[b] = .all none) ∧
      (b ≠ a → toldEach s (s.drainTest a) b [.peerLeft a] ∧ (s.drainTest a).watches[b] = s.watches[b])
    else s.drainTest a = s := by
  by_cases h : s.portIs a .closing ∧ s.holdsNothing a = true
  · rw [if_pos h]
    have hc : ((s.members[a]).state = .closing && s.holdsNothing a) = true := by simpa [-Fin.getElem_fin] using h
    have he : s.drainTest a = (s.goOffline a).offerPeers a (.peerLeft a) := if_pos hc
    obtain ⟨-, g2, g3, -, g5⟩ := goOffline_offline s s a rfl
    obtain ⟨n1, n2⟩ := offerPeers_self (s.goOffline a) a (.peerLeft a)
    rw [he]
    constructor
    · rintro rfl
      exact ⟨n1.trans g2, n2.trans g3, by rw [State.offerPeers_frame]; exact g5⟩
    · intro hb
      have hn := Ne.symm hb
      have m1 : ((s.goOffline a).members[b]).state = (s.members[b]).state := by
        simp [-Fin.getElem_fin, State.goOffline, State.disarm, State.clearNotices, vec_get_set_ne _ _ _ _ hn]
      have m2 : (s.goOffline a).notices[b] = s.notices[b] := by
        simp [-Fin.getElem_fin, State.goOffline, State.disarm, State.clearNotices, vec_get_set_ne _ _ _ _ hn]
      have m3 : (s.goOffline a).latches[b] = s.latches[b] := by
        simp [-Fin.getElem_fin, State.goOffline, State.disarm, State.clearNotices, vec_get_set_ne _ _ _ _ hn]
      have m4 : (s.goOffline a).watches[b] = s.watches[b] := by
        simp [-Fin.getElem_fin, State.goOffline, State.disarm, State.clearNotices, vec_get_set_ne _ _ _ _ hn]
      exact ⟨offerPeers_other s (s.goOffline a) a b _ hb m1 m2 m3, by rw [State.offerPeers_frame]; exact m4⟩
  · rw [if_neg h]
    refine if_neg (fun hx => h ?_)
    simpa [-Fin.getElem_fin] using hx

/-- R42 steps 2 to 6: what the release of an admitted message offers. -/
theorem finish_told (u : State) (d : DescId) (m : Message) (adm : Admission) (path : RemovalPath) :
    fitTested u (u.finishRelease d m adm path) ∧
      ∀ b : Agent, releaseTold u (u.finishRelease d m adm path) (u.leaverAt (u.finishRelease d m adm path) m.dest)
        (removalTo path m adm b) b := by
  set x := u.dropRecord d m with hx
  set v := x.offerOptional m.source (removalNotice path m adm) with hv
  set w := v.drainTest m.dest with hw
  have ht : u.finishRelease d m adm path = w.runFitTest := rfl
  have hold : (u.finishRelease d m adm path).holdsNothing m.dest = v.holdsNothing m.dest := by
    rw [ht]
    simp [-Fin.getElem_fin, State.holdsNothing, hw]
  have hm : v.members = u.members := by simp [hv, hx]
  have hleft : u.leaverAt (u.finishRelease d m adm path) m.dest =
      if v.portIs m.dest .closing ∧ v.holdsNothing m.dest = true then some m.dest else none := by
    unfold State.leaverAt State.portIs
    rw [hold, hm]
  constructor
  · rw [ht]
    exact fitTested_congr (runFitTest_spec w).1 (by simp [hw, hv, hx]) (by simp [hw, hv, hx]) (by simp [hw, hv, hx])
      (by simp [hw, hv, hx]) (by simp [hw, hv, hx]) (by simp [hw, hv, hx]) rfl rfl rfl rfl rfl rfl rfl rfl
  · intro b
    have htold : toldEach u v b (removalTo path m adm b) :=
      toldEach_of_eq (offerOptional_told x path m adm b) (by simp [-Fin.getElem_fin, hx]) (by simp [-Fin.getElem_fin, hx])
        (by simp [-Fin.getElem_fin, hx]) rfl rfl
    have hwat : v.watches[b] = u.watches[b] := by simp [-Fin.getElem_fin, hv, hx]
    have hd := drainTest_told v m.dest b
    have hs := drain_spec v m.dest
    rw [hleft, ht]
    refine releaseTold_fit (by simp [hw, hv, hx]) (fun h => ?_) (fun h => ?_)
    · by_cases hc : v.portIs m.dest .closing ∧ v.holdsNothing m.dest = true
      · rw [if_pos hc] at h hd
        obtain rfl : m.dest = b := by simpa using h
        obtain ⟨h1, h2, h3⟩ := hd.1 rfl
        have h4 := hs.2
        rw [if_pos hc] at h4
        exact ⟨h1, h2, h3, h4.2⟩
      · rw [if_neg hc] at h
        cases h
    · by_cases hc : v.portIs m.dest .closing ∧ v.holdsNothing m.dest = true
      · rw [if_pos hc] at h hd ⊢
        have hb : b ≠ m.dest := fun e => h (by rw [e])
        obtain ⟨h1, h2⟩ := hd.2 hb
        refine ⟨?_, h2.trans hwat, toldEach_append htold h1 (by rw [hm])⟩
        rw [(hs.1 b hb).1, hm]
      · rw [if_neg hc] at hd
        rw [if_neg hc, hw, hd, show peerNotice none = [] from rfl, List.append_nil]
        exact ⟨by rw [hm], hwat, htold⟩

/-! ## The rejoin return (R40) -/

/-- A release of a message to an ACTIVE agent runs no drain test. -/
theorem finish_stays (u : State) (d : DescId) (m : Message) (adm : Admission) (path : RemovalPath)
    (h : u.portIs m.dest .active) :
    (u.finishRelease d m adm path).members = u.members ∧ (u.finishRelease d m adm path).snapshots = u.snapshots ∧
      (u.finishRelease d m adm path).frames = u.frames := by
  set v := (u.dropRecord d m).offerOptional m.source (removalNotice path m adm) with hv
  have hc : ¬(v.portIs m.dest .closing ∧ v.holdsNothing m.dest = true) := fun hc => by
    have e : (v.members[m.dest]).state = (u.members[m.dest]).state := by simp [-Fin.getElem_fin, hv]
    have := (h.symm.trans e.symm).trans hc.1
    cases this
  have hd := (drain_spec v m.dest).2
  rw [if_neg hc] at hd
  rw [show u.finishRelease d m adm path = (v.drainTest m.dest).runFitTest from rfl, hd]
  simp [hv]


/-- R38: one hand slot emptied, and no other. -/
theorem hands_without (s t : State) (p : Agent) (k : MsgClass) (ht : t.hands = (s.setHand p k none).hands) :
    (t.hands[p]).get k = none ∧
      ∀ (a : Agent) (j : MsgClass), a ≠ p ∨ j ≠ k → (t.hands[a]).get j = (s.hands[a]).get j := by
  rw [ht]
  refine ⟨by simp [-Fin.getElem_fin], fun a j haj => ?_⟩
  by_cases ha : p = a
  · subst ha
    have hj : k ≠ j := fun e => by simp [e] at haj
    simp [-Fin.getElem_fin, PerClass.get_set, hj]
  · simp [-Fin.getElem_fin, vec_get_set, ha]

/-- R42: the rejection of an in-hand message of an ACTIVE agent. -/
theorem reject_spec (s : State) (d : DescId) (m : Message) (adm : Admission) (hd : s.descs[d] = .inHand m adm)
    (hp : s.portIs m.dest .active) :
    dropped s (s.release d .rejected) d m ∧ fitTested s (s.release d .rejected) ∧
      ((s.release d .rejected).members = s.members ∧ (s.release d .rejected).snapshots = s.snapshots ∧
        (s.release d .rejected).frames = s.frames ∧ (s.release d .rejected).queues = s.queues ∧
        (s.release d .rejected).hands = (s.setHand m.dest m.cls none).hands) ∧
      ∀ b : Agent, releaseTold s (s.release d .rejected) none
        (if b = m.source then [.rejected m.dest m.cls adm.tag] else []) b := by
  obtain ⟨f1, f2⟩ := finish_told (s.setHand m.dest m.cls none) d m adm .rejected
  have hn : (s.setHand m.dest m.cls none).leaverAt
      ((s.setHand m.dest m.cls none).finishRelease d m adm .rejected) m.dest = none := by
    unfold State.leaverAt
    refine if_neg (fun hc => ?_)
    have := hp.symm.trans hc.1
    cases this
  rw [hn] at f2
  obtain ⟨k1, k2, k3⟩ := finish_stays (s.setHand m.dest m.cls none) d m adm .rejected hp
  have k4 : ((s.setHand m.dest m.cls none).finishRelease d m adm .rejected).queues = s.queues := by simp
  have k5 : ((s.setHand m.dest m.cls none).finishRelease d m adm .rejected).hands =
      (s.setHand m.dest m.cls none).hands := by simp
  have k6 := finish_dropped (s.setHand m.dest m.cls none) d m adm .rejected
  rw [release_inHand s d m adm .rejected hd]
  generalize (s.setHand m.dest m.cls none).finishRelease d m adm .rejected = t at *
  exact ⟨k6, f1, ⟨k1, k2, k3, k4, k5⟩, fun b => releaseTold_congr (f2 b) rfl rfl rfl rfl rfl⟩

/-- R85: the return of an in-hand message. -/
theorem return_spec (s : State) (d : DescId) (m : Message) (adm : Admission) :
    (s.returnToQueue d m adm).descs[d] = .queued { m with redeliveries := m.redeliveries + 1 } adm ∧
      (∀ e : DescId, e ≠ d → (s.returnToQueue d m adm).descs[e] = s.descs[e]) ∧
      ((s.returnToQueue d m adm).queues[m.dest]).get m.cls = d :: (s.queues[m.dest]).get m.cls ∧
      ∀ (a : Agent) (j : MsgClass), a ≠ m.dest ∨ j ≠ m.cls →
        ((s.returnToQueue d m adm).queues[a]).get j = (s.queues[a]).get j := by
  refine ⟨by simp [-Fin.getElem_fin, State.returnToQueue], fun e he => ?_,
    by simp [-Fin.getElem_fin, State.returnToQueue], fun a j haj => ?_⟩
  · simp [-Fin.getElem_fin, State.returnToQueue, vec_get_set, Ne.symm he]
  · by_cases ha : m.dest = a
    · subst ha
      have hj : m.cls ≠ j := fun e => by simp [e] at haj
      simp [-Fin.getElem_fin, State.returnToQueue, PerClass.get_set, hj]
    · simp [-Fin.getElem_fin, State.returnToQueue, vec_get_set, ha]

/-- R40: one hand slot at a rejoin. The port is ACTIVE, so no release runs a drain test (R127). -/
theorem rejoinReturnOf_spec (s : State) (p : Agent) (k : MsgClass) (hl : PlaceLaw s) (hp : s.portIs p .active) :
    returnedOrRejected s (s.rejoinReturnOf p k) p k := by
  refine ⟨fun h => by simp only [State.rejoinReturnOf, handMessage_none s p k h], fun d m adm h hd => ?_⟩
  have hi := (hl.2.2.1 p k d).mp h
  unfold State.inHandFor at hi
  rw [hd] at hi
  obtain ⟨rfl, rfl⟩ : m.dest = p ∧ m.cls = k := by simpa using hi
  have e : s.rejoinReturnOf m.dest m.cls = s.returnOrReject d m adm := by
    simp only [State.rejoinReturnOf, handMessage_of s m.dest m.cls d m adm h hd]
  rw [e]
  unfold State.returnOrReject State.pastLimit
  by_cases hx : s.table.redelivery.get m.cls < m.redeliveries + 1
  · rw [if_pos (decide_eq_true hx)]
    obtain ⟨r1, r2, ⟨k1, k2, k3, k4, k5⟩, r3⟩ := reject_spec s d m adm hd hp
    obtain ⟨g1, g2⟩ := hands_without s _ m.dest m.cls k5
    refine ⟨g1, g2, fun hy => absurd hx (by omega), fun _ => ⟨r1, r2, r3, ?_⟩⟩
    apply State.ext_fields <;> first | exact k1 | exact k2 | exact k3 | exact k4 | rfl | simp
  · rw [if_neg (by simpa using hx)]
    obtain ⟨g1, g2⟩ := hands_without s (s.returnToQueue d m adm) m.dest m.cls rfl
    obtain ⟨q1, q2, q3, q4⟩ := return_spec s d m adm
    exact ⟨g1, g2, fun _ => ⟨q1, q2, q3, q4, State.returnToQueue_frame s d m adm⟩, fun hy => absurd hy hx⟩

/-- The return of an in-hand message keeps the place law. -/
theorem returnToQueue_place (s : State) (hl : PlaceLaw s) (d : DescId) (m : Message) (adm : Admission)
    (hd : s.descs[d] = .inHand m adm) : PlaceLaw (s.returnToQueue d m adm) := by
  have hnot (a : Agent) (k : MsgClass) : d ∉ (s.queues[a]).get k := by
    rw [hl.2.1 a k d]
    unfold State.queuedFor
    rw [hd]
    simp
  have hdescs (e : DescId) : (s.returnToQueue d m adm).descs[e] =
      if e = d then .queued { m with redeliveries := m.redeliveries + 1 } adm else s.descs[e] := by
    by_cases he : e = d
    · subst he
      simp [-Fin.getElem_fin, State.returnToQueue]
    · simp [-Fin.getElem_fin, State.returnToQueue, vec_get_set, he, Ne.symm he]
  have hq (a : Agent) (k : MsgClass) : ((s.returnToQueue d m adm).queues[a]).get k =
      if m.dest = a ∧ m.cls = k then d :: (s.queues[a]).get k else (s.queues[a]).get k := by
    by_cases ha : m.dest = a
    · subst ha
      by_cases hk : m.cls = k
      · subst hk; simp [-Fin.getElem_fin, State.returnToQueue]
      · simp [-Fin.getElem_fin, State.returnToQueue, PerClass.get_set, hk]
    · simp [-Fin.getElem_fin, State.returnToQueue, vec_get_set, ha]
  have hh (a : Agent) (k : MsgClass) : ((s.returnToQueue d m adm).hands[a]).get k =
      if m.dest = a ∧ m.cls = k then none else (s.hands[a]).get k := by
    by_cases ha : m.dest = a
    · subst ha
      by_cases hk : m.cls = k
      · subst hk; simp [-Fin.getElem_fin, State.returnToQueue]
      · simp [-Fin.getElem_fin, State.returnToQueue, PerClass.get_set, hk]
    · simp [-Fin.getElem_fin, State.returnToQueue, vec_get_set, ha]
  have hin := (hl.2.2.1 m.dest m.cls d).mpr (by unfold State.inHandFor; rw [hd]; simp)
  refine ⟨fun a k => ?_, fun a k e => ?_, fun a k e => ?_, fun p e => ?_⟩
  · rw [hq]
    split_ifs
    · exact List.nodup_cons.mpr ⟨hnot a k, hl.1 a k⟩
    · exact hl.1 a k
  · have h2 := hl.2.1 a k e
    unfold State.queuedFor at h2 ⊢
    rw [hq, hdescs]
    by_cases he : e = d
    · subst he
      have := hnot a k
      by_cases hc : m.dest = a ∧ m.cls = k <;> simp [-Fin.getElem_fin, hc, this]
    · rw [if_neg he]
      by_cases hc : m.dest = a ∧ m.cls = k <;> simp [-Fin.getElem_fin, hc, he, h2]
  · have h2 := hl.2.2.1 a k e
    unfold State.inHandFor at h2 ⊢
    rw [hh, hdescs]
    by_cases he : e = d
    · subst he
      rw [hd] at h2
      by_cases hc : m.dest = a ∧ m.cls = k <;> simp_all [-Fin.getElem_fin]
    · rw [if_neg he]
      by_cases hc : m.dest = a ∧ m.cls = k
      · obtain ⟨rfl, rfl⟩ := hc
        rw [hin] at h2
        simp only [and_self, if_true, reduceCtorEq, false_iff]
        intro h3
        exact he (Option.some.inj (h2.mpr h3)).symm
      · rw [if_neg hc]
        exact h2
  · have h2 := hl.2.2.2 p e
    unfold State.stagedOn at h2 ⊢
    rw [hdescs]
    by_cases he : e = d
    · subst he
      rw [hd] at h2
      simpa [-Fin.getElem_fin] using h2
    · rw [if_neg he]
      simpa [-Fin.getElem_fin] using h2

theorem rejoinReturnOf_place (s : State) (p : Agent) (k : MsgClass) (hl : PlaceLaw s) :
    PlaceLaw (s.rejoinReturnOf p k) := by
  unfold State.rejoinReturnOf
  cases h : s.handMessage p k with
  | none => exact hl
  | some x =>
    obtain ⟨d, m, adm⟩ := x
    have hd : s.descs[d] = .inHand m adm := by
      unfold State.handMessage at h
      repeat' split at h
      all_goals cases h
      assumption
    show PlaceLaw (s.returnOrReject d m adm)
    unfold State.returnOrReject
    split
    · exact release_place s hl d .rejected (fun m' e => by rw [hd] at e; cases e)
    · exact returnToQueue_place s hl d m adm hd

/-- R40, R127: the rejoin return of an ACTIVE agent. -/
theorem rejoinReturn_spec (s : State) (p : Agent) (hl : PlaceLaw s) (hp : s.portIs p .active) :
    rejoinReturned s (s.rejoinReturn p) p := by
  have active (u : State) (k : MsgClass) (h : PlaceLaw u) (hu : u.portIs p .active) :
      (u.rejoinReturnOf p k).portIs p .active := by
    obtain ⟨g1, g2⟩ := rejoinReturnOf_spec u p k h hu
    have hm : (u.rejoinReturnOf p k).members = u.members := by
      cases hk : (u.hands[p]).get k with
      | none => rw [g1 hk]
      | some d =>
        obtain ⟨m, adm, hd⟩ : ∃ m adm, u.descs[d] = .inHand m adm := by
          have := (h.2.2.1 p k d).mp hk
          unfold State.inHandFor at this
          cases e : u.descs[d] <;> simp_all
        obtain ⟨-, -, b, r⟩ := g2 d m adm hk hd
        by_cases hx : m.redeliveries + 1 ≤ u.table.redelivery.get k
        · rw [(b hx).2.2.2.2]
        · rw [(r (by omega)).2.2.2]
    show ((u.rejoinReturnOf p k).members[p]).state = .active
    rw [hm]
    exact hu
  refine ⟨s.rejoinReturnOf p .express, (s.rejoinReturnOf p .express).rejoinReturnOf p .standard,
    rejoinReturnOf_spec s p _ hl hp, rejoinReturnOf_spec _ p _ ?_ ?_, rejoinReturnOf_spec _ p _ ?_ ?_⟩
  · exact rejoinReturnOf_place _ _ _ hl
  · exact active s _ hl hp
  · exact rejoinReturnOf_place _ _ _ (rejoinReturnOf_place _ _ _ hl)
  · exact active _ _ (rejoinReturnOf_place _ _ _ hl) (active s _ hl hp)

/-! ## The end of a round (R167, R168) -/

/-- R168 step 1: PROPOSAL_CLOSED without a vetoing agent. -/
theorem closedTo_told (s u : State) (v : Proposal) (o : RoundOutcome) (b : Agent) (hm : u.members = s.members)
    (hn : u.notices = s.notices) (hl : u.latches = s.latches) :
    toldEach s (u.offerAll (agents.filter (fun a => a = v.proposer || v.required[a])) (.proposalClosed none v.number o)) b
      (closedTo v o b) := by
  have hx : b ∈ agents.filter (fun a => a = v.proposer || v.required[a]) ↔ b = v.proposer ∨ v.required[b] = true := by
    rw [mem_agents_filter]
    simp [-Fin.getElem_fin]
  unfold closedTo
  by_cases h : b = v.proposer ∨ v.required[b] = true
  · rw [if_pos h]
    obtain ⟨o1, o2⟩ := State.offerAll_notices_mem u _ (.proposalClosed none v.number o) b (agents_filter_nodup _) (hx.mpr h)
    exact toldEach_of_eq (toldEach_offer u b _) (by rw [hm]) (by rw [hn]) (by rw [hl]) o1 o2
  · rw [if_neg h]
    obtain ⟨o1, o2⟩ := State.offerAll_notices_notMem u (agents.filter (fun a => a = v.proposer || v.required[a]))
      (.proposalClosed none v.number o) b (fun e => h (hx.mp e))
    exact toldEach_nil (o1.trans (by rw [hn])) (o2.trans (by rw [hl]))

/-- R168, R170: a round that ends COMMITTED. -/
theorem endRound_committed (s u : State) (v : Proposal) (hu : u = { s with voting := u.voting }) :
    committed s (u.endRound v .committed none) v ∧ ∀ b : Agent, commitTold s (u.endRound v .committed none) v [] [] b := by
  obtain ⟨round, rfl⟩ : ∃ r, u = { s with voting := r } := ⟨_, hu⟩
  clear hu
  set x : State := { ({ s with voting := round } : State).offerAll
    (agents.filter (fun a => a = v.proposer || v.required[a])) (.proposalClosed none v.number .committed)
    with voting := none } with hx
  have ht : ({ s with voting := round } : State).endRound v .committed none = x.commit v.table v.number := rfl
  obtain ⟨h1, h2⟩ := commit_told x v
  rw [ht]
  constructor
  · have e1 : x.table = s.table := by simp only [hx, State.offerAll_untouched]
    have e2 : x.epoch = s.epoch := by simp only [hx, State.offerAll_untouched]
    have e3 : x.prescaleCount = s.prescaleCount := by simp only [hx, State.offerAll_untouched]
    have e4 : x.periodCount = s.periodCount := by simp only [hx, State.offerAll_untouched]
    have e5 : x.postscaleCount = s.postscaleCount := by simp only [hx, State.offerAll_untouched]
    unfold committed applied at *
    rw [e1, e2, e3, e4, e5] at h1
    exact h1
  · intro b
    have h3 : toldEach s x b (closedTo v .committed b) :=
      toldEach_of_eq (closedTo_told s { s with voting := round } v .committed b rfl rfl rfl) rfl rfl rfl rfl rfl
    have hw : x.watches[b] = s.watches[b] := by simp only [hx, State.offerAll_untouched]
    have hmm : (x.members[b]).state = (s.members[b]).state := by simp only [hx, State.offerAll_untouched]
    obtain ⟨e1, e2⟩ := h2 b
    obtain ⟨c1, c2⟩ := credits_congr (s := s) (s' := x) (t := x.commit v.table v.number) (t' := x.commit v.table v.number) b
      hw rfl rfl rfl
    refine ⟨?_, fun k => (e2 k).trans (c2 k)⟩
    rw [c1] at e1
    have := toldEach_append h3 e1 hmm
    simpa only [List.append_assoc, List.nil_append, List.append_nil] using this

/-- R167: agent `a` has left ACTIVE. -/
theorem leaveRound_told (s : State) (a : Agent) :
    (match s.commitsAt a with
      | none => tableKept s (s.leaveRound a)
      | some v => committed s (s.leaveRound a) v) ∧ ∀ b : Agent, leaveTold s (s.leaveRound a) a [] [] b := by
  unfold leaveTold State.commitsAt State.withdrawnTo
  have same (r : Option Proposal) : tableKept s { s with voting := r } ∧ ∀ b : Agent,
      toldEach s { s with voting := r } b ([] ++ [] ++ []) ∧ ({ s with voting := r } : State).watches[b] = s.watches[b] :=
    ⟨⟨rfl, rfl, rfl, rfl, rfl, rfl⟩, fun b => ⟨toldEach_nil rfl rfl, rfl⟩⟩
  cases hv : s.voting with
  | none =>
    have hl : s.leaveRound a = { s with voting := s.voting } := by simp [State.leaveRound, hv]
    rw [hl]
    exact same _
  | some v =>
    by_cases h1 : v.proposer = a
    · have hl : s.leaveRound a = s.endRound v .withdrawn none := by simp [State.leaveRound, hv, h1]
      rw [hl]
      simp only [h1, ne_eq, not_true_eq_false, false_and, if_false, if_true, List.nil_append, List.append_nil]
      constructor
      · refine ⟨?_, ?_, ?_, ?_, ?_, ?_⟩ <;> simp [State.endRound]
      · intro b
        exact ⟨toldEach_of_eq (closedTo_told s s v .withdrawn b rfl rfl rfl) rfl rfl rfl rfl rfl, by simp [State.endRound]⟩
    · by_cases h2 : v.required[a] = true
      · have hl : s.leaveRound a = ({ s with voting := some (v.without a) } : State).testConsents := by
          unfold State.leaveRound
          rw [hv]
          show (if v.proposer = a then _ else if v.required[a] = true then _ else _) = _
          rw [if_neg h1, if_pos h2]
          rfl
        rw [hl]
        by_cases h3 : (v.without a).consented = (v.without a).required
        · have e : ({ s with voting := some (v.without a) } : State).testConsents =
              ({ s with voting := some (v.without a) } : State).endRound (v.without a) .committed none := by
            unfold State.testConsents
            exact if_pos h3
          obtain ⟨r1, r2⟩ := endRound_committed s { s with voting := some (v.without a) } (v.without a) rfl
          rw [e]
          simp only [h1, h2, h3, ne_eq, not_false_eq_true, and_self, if_true]
          exact ⟨r1, r2⟩
        · have e : ({ s with voting := some (v.without a) } : State).testConsents =
              { s with voting := some (v.without a) } := by
            unfold State.testConsents
            exact if_neg h3
          rw [e]
          simp only [h1, h3, ne_eq, and_false, if_false]
          exact ⟨(same (some (v.without a))).1, fun b => ⟨((same (some (v.without a))).2 b).1, trivial⟩⟩
      · have hl : s.leaveRound a = s := by
          unfold State.leaveRound
          rw [hv]
          show (if v.proposer = a then _ else if v.required[a] = true then _ else _) = _
          rw [if_neg h1, if_neg h2]
        rw [hl]
        simp only [h1, h2, ne_eq, Bool.false_eq_true, and_false, false_and, if_false]
        exact ⟨(same s.voting).1, fun b => ⟨((same s.voting).2 b).1, trivial⟩⟩

end Sys2Proof.Machine
end

