-- ==== Sys2Proof/Tests/Slice0.lean ====
section
/-! SUPPORT. Small tests of single steps, their expected values taken from the manual, and for each statement with
hypotheses a state and operands that meet them. -/

-- One theorem after another: each kernel evaluation at once would take a thread of its own.
set_option Elab.async false

namespace Sys2Proof.Tests

open Sys2Proof Sys2Proof.Machine

/-! ## States -/

/-- A port with CSN low that has received nothing yet. -/
def asking : Framing where
  csnLow := true
  phase := .request
  bytePos := 0
  opcode := none
  last := none
  out := []
  recordsLeft := 0

/-- A port about to shift out some bytes, of which the last are notice records. -/
def replying (code : Byte) (out : List Byte) (records : Nat) : Framing where
  csnLow := true
  phase := .turnaround
  bytePos := 2
  opcode := some code
  last := some ⟨code, .ok, none⟩
  out := out
  recordsLeft := records

/-- During the start-up clear of cell `p`, every port receiving a request. -/
def clearing (p : CellId) : State :=
  { State.reset with
    rstnLow := false
    engine := .startUp p
    clearLeft := 1
    frames := #v[asking, asking, asking, asking] }

/-- After the start-up clear, every port OFFLINE and receiving a request. -/
def fresh : State :=
  { State.reset with
    rstnLow := false
    engine := .idle
    cellMap := Vector.replicate 384 .free
    freeList := List.finRange 384
    frames := #v[asking, asking, asking, asking] }

/-- An ACTIVE port with a lease of 16 ticks. -/
def present : Member := ⟨.active, 16, 16, 0⟩

/-- Four ACTIVE agents and nothing posted. -/
def live : State := { fresh with members := #v[present, present, present, present] }

/-- Agent `a` in port state `x`, its lease at 0 ticks while it is absent. -/
def inState (s : State) (a : Agent) (x : PortState) : State :=
  s.setMember a { s.members[a] with state := x }

/-- Port `p` framed otherwise. -/
def framed (s : State) (p : Agent) (f : Framing) : State := s.setFrame p f

/-- A message from agent `a` to agent 1. -/
def letter (a : Agent) (k : MsgClass) (len : Nat) (cells : List CellId) (c : Charge) (count : Nat) : Message where
  source := a
  dest := 1
  cls := k
  length := len
  cells := cells
  charge := c
  redeliveries := count
  receipt := true
  corr := .absent

/-- The QUEUED message of `busy`: EXPRESS, 32 bytes, its first 0x41. -/
def queuedLetter : Message := letter 0 .express 32 [0] (.common 0) 0

/-- The IN_HAND message of `busy`: STANDARD, returned three times. -/
def handLetter : Message := letter 0 .standard 1 [1] (.reserved 0 .standard) 3

/-- The STAGING message of `busy`: BULK, 33 bytes in two cells. -/
def stagedLetter : Message := letter 2 .bulk 33 [2, 4] (.common 2) 0

/-- The staging context of `busy`: no payload byte received. -/
def stagedContext : StagingContext where
  desc := 2
  corrToCome := 0
  corrBytes := 0
  payloadReceived := 0
  checkReceived := 0
  checkRegister := 0xFFFF
  checkHigh := none

/-- Four ACTIVE agents; to agent 1 one message QUEUED and one IN_HAND from agent 0 and one STAGING from agent 2; and a cell
of an earlier message of agent 0 being scrubbed. -/
def busy : State :=
  { live with
    mem := [(0, 0x41), (128, 0x42)]
    cellMap := ((((live.cellMap.set 0 (.bound (.common 0) 0 0)).set 4 (.bound (.common 2) 2 1)).set 1
      (.bound (.reserved 0 .standard) 1 0)).set 2 (.bound (.common 2) 2 0)).set 3 (.scrub (.reserved 0 .express))
    freeList := (List.finRange 384).drop 5
    scrubQueue := [3]
    engine := .clearing 3
    clearLeft := 32
    used := ⟨3, #v[1, 0, 2, 0], #v[⟨1, 1, 0⟩, .all 0, .all 0, .all 0]⟩
    descs := ((live.descs.set 0 (.queued queuedLetter ⟨1, 0⟩)).set 1 (.inHand handLetter ⟨2, 0⟩)).set 2
      (.staging stagedLetter)
    inUse := #v[2, 0, 1, 0]
    nextTag := #v[3, 1, 1, 1]
    queues := #v[.all [], ⟨[0], [], []⟩, .all [], .all []]
    hands := #v[.all none, ⟨none, some 1, none⟩, .all none, .all none]
    stagings := #v[none, none, some stagedContext, none]
    frames := #v[asking, asking, { asking with bytePos := 6, opcode := some codePost }, asking] }

/-- `busy` with the payload received and the high check byte of a right check word. -/
def lastByte : State :=
  { busy with stagings := #v[none, none, some { stagedContext with
      payloadReceived := 33, checkReceived := 1, checkRegister := 0x29B1, checkHigh := some 0x29 }, none] }

/-- An open round of agent 3, in which agent 1 is required. -/
def round : Proposal where
  number := 7
  proposer := 3
  table := .default
  required := #v[false, true, false, false]
  consented := #v[false, false, false, false]
  window := 100

/-- A table that no count of `busy` fits: agent 0 may use no common cell. -/
def tight : Table := { Table.default with cap := #v[0, 96, 96, 96] }

/-- A table that `busy` does not fit, and fits once agent 0 has a descriptor fewer in use, or agent 2 of two. -/
def narrow : Table := { Table.default with descLimit := #v[1, 32, 1, 32] }

/-- A table in which agent 3 has two cells of the common pool and none of its own. -/
def scant : Table := { Table.default with cap := #v[96, 96, 96, 2], reserved := #v[.all 16, .all 16, .all 16, .all 0] }

/-- `busy` with table `x` held. -/
def holding (x : Table) : State := { busy with slot := some ⟨x, 4⟩ }

/-- Watch of agent `a` in EXPRESS ARMED at `n`. -/
def watching (s : State) (a : Agent) (n : Nat) : State := { s with watches := s.watches.set a ⟨some n, none, none⟩ }

/-- The IN_HAND message of `busy` alone. -/
def solo : State :=
  { live with
    descs := live.descs.set 0 (.inHand handLetter ⟨2, 0⟩)
    hands := #v[.all none, ⟨none, some 0, none⟩, .all none, .all none]
    inUse := #v[1, 0, 0, 0] }

/-- The queued message of `busy` alone, and agent 1 at the end of its lease. -/
def lone : State :=
  { live with
    descs := live.descs.set 0 (.queued queuedLetter ⟨1, 0⟩)
    queues := #v[.all [], ⟨[0], [], []⟩, .all [], .all []]
    members := live.members.set 1 ⟨.active, 16, 0, 0⟩ }

/-- Two messages of agent 0 in hand at agent 1, each returned three times, and a held table that fits once agent 0 has one
of them, in which STANDARD may be returned five times. -/
def paired : State :=
  { live with
    descs := (live.descs.set 0 (.inHand (letter 0 .express 32 [0] (.common 0) 3) ⟨1, 0⟩)).set 1 (.inHand handLetter ⟨2, 0⟩)
    hands := #v[.all none, ⟨some 0, some 1, none⟩, .all none, .all none]
    inUse := #v[2, 0, 0, 0]
    slot := some ⟨{ narrow with redelivery := ⟨3, 5, 3⟩ }, 4⟩ }

/-- The state after a command. -/
def after (i : Instr) (s : State) : State :=
  match exec i s with
  | .next t => t
  | .fault _ => s
  | .refused _ => s

/-- The bytes port `p` has still to shift out after a command. -/
def reply (i : Instr) (p : Agent) (s : State) : List Byte := ((after i s).frames[p]).out

/-! ## Well-formedness and the wire -/

theorem test_badop_of_a_code_is_ill_formed : (Instr.badop 0 0x21).wellFormed = false := by decide

theorem test_propose_of_a_short_image_is_ill_formed : (Instr.propose 0 (List.replicate 37 0)).wellFormed = false := by
  decide

/-- R188: words written out from the table of transaction codes. -/
theorem test_wire_requests :
    decodeRequest 1 [0x01] = some (.ident 1) ∧ decodeRequest 2 [0x10, 0x01, 0x2C] = some (.join 2 300) ∧
      decodeRequest 0 [0x20, 0x03, 0x01, 0x02, 0x01, 0x00] = some (.postHeader 0 3 1 2 256) ∧
      decodeRequest 1 [0x21, 0x03] = some (.fetch 1 3) ∧
      decodeRequest 3 [0x24, 0x02, 0x01, 0x02, 0x03] = some (.recallMessage 3 2 1 0x0203) ∧
      decodeRequest 0 [0x30, 0x02, 0x08] = some (.watch 0 2 8) ∧ decodeRequest 0 [0x31, 0x10] = some (.notices 0 16) ∧
      decodeRequest 0 [0x42, 0x07] = some (.consent 0 7) ∧ decodeRequest 0 [0xFF] = some (.badop 0 0xFF) ∧
      decodeRequest 0 [0x41, 0x00] = none := by decide

/-- R61 gives both values. -/
theorem test_check_word :
    checkWord [0x31, 0x32, 0x33, 0x34, 0x35, 0x36, 0x37, 0x38, 0x39] = 0x29B1 ∧ checkWord [0x00] = 0xE1F0 := by
  decide +kernel

/-- R192: the default image read back. -/
theorem test_default_image : tableOfImage Table.default.image = Table.default := by decide +kernel

/-- R191: byte 1 of a notice record. -/
theorem test_notice_record :
    (Notice.delivered 3 .standard 6).record = [0x01, 0x31, 0x00, 0x06, 0x00, 0x00] ∧
      (Notice.overrun 4).record = [0x0E, 0xFF, 0x00, 0x00, 0x00, 0x04] := by decide

/-! ## Device -/

theorem test_reset_drops_messages :
    (after .deviceReset busy).queues[1] = .all [] ∧ (after .deviceReset busy).engine = .startUp 0 := by decide +kernel

theorem test_clear_starts : (after .startupClearStart State.reset).clearLeft = 32 := by decide +kernel

theorem test_last_clear_ends : (after .startupClearCompletion (clearing 383)).engine = .idle := by decide +kernel

theorem test_clear_frees_its_cell :
    (after .startupClearCompletion (clearing 5)).freeList = [5] ∧
      (after .startupClearCompletion (clearing 5)).engine = .startUp 6 := by decide +kernel

/-! ## Framing and standing -/

theorem test_fall_starts_a_request :
    ((after (.csnFall 2) (framed live 2 (.quiet false))).frames[2]).phase = .request := by decide +kernel

/-- R67, section 3.9: the cells of a cut staging follow those in the scrub queue. -/
theorem test_rise_cuts_a_staging :
    (after (.csnRise 2) busy).scrubQueue = [3, 2, 4] ∧
      ((after (.csnRise 2) busy).frames[2]).last = some ⟨0x20, .cut, none⟩ := by decide +kernel

theorem test_badop : reply (.badop 0 0xFF) 0 live = [0x5A, 0x04] := by decide +kernel

theorem test_ident_is_answered_while_starting :
    reply (.ident 3) 3 (clearing 0) = [0x5A, 0x01, 0xC4, 0x41, 0x18, 0x01, 0x03] := by decide +kernel

theorem test_status_reports_descriptors :
    (reply (.status 0) 0 busy).getD 15 0 = 2 ∧ (reply (.status 0) 0 busy).length = 28 := by decide +kernel

/-! ## Membership -/

theorem test_join_from_offline :
    reply (.join 0 16) 0 fresh = [0x5A, 0x01, 0x00] ∧ (after (.join 0 16) fresh).members[0] = present := by
  decide +kernel

/-- R40, R86: at a rejoin the message past its redelivery limit is rejected, and nobody but its source is told. -/
theorem test_rejoin_rejects_past_the_limit :
    (after (.join 1 20) busy).descs[1] = .free ∧ (after (.join 1 20) busy).notices[0] = [.rejected 1 .standard 2] ∧
      (after (.join 1 20) busy).notices[2] = [] := by decide +kernel

/-- R40, R87, R172: REJECTED, then the apply, whose limit the class behind meets. -/
theorem test_rejoin_meets_the_limit_of_an_apply :
    (let t := after (.join 1 16) (watching { paired with table := scant } 3 3)
     t.notices[0] = [.rejected 1 .express 1, .configApplied 1] ∧
      t.notices[3] = [.configApplied 1, .credit .express 96] ∧ (t.queues[1]).standard = [1]) := by decide +kernel

theorem test_leave_with_nothing_held : (after (.leave 3) busy).notices[1] = [.peerLeft 3] := by decide +kernel

/-- R167, R168, R170, R134: the last unconsented member leaves. -/
theorem test_leave_commits :
    (let t := after (.leave 0) { busy with voting := some { round with required := #v[true, false, false, false] } }
     t.notices[3] = [.proposalClosed none 7 .committed, .configApplied 1, .peerLeft 0] ∧
      t.notices[1] = [.configApplied 1, .peerLeft 0] ∧ t.notices[0] = []) := by decide +kernel

theorem test_renew : ((after (.renew 0) (live.setMember 0 ⟨.active, 40, 1, 0⟩)).members[0]).leaseLeft = 40 := by
  decide +kernel

theorem test_drain : ((after (.drainCompletion 2) (inState live 2 .closing)).members[2]).state = .offline := by
  decide +kernel

/-! ## Posting and delivery -/

/-- Section 1.4.1: agent 1 with 90 common cells of 150 posts 100 bytes in STANDARD. -/
def pressed : State :=
  { live with used := ⟨150, #v[10, 90, 40, 10], #v[.all 0, ⟨0, 14, 0⟩, .all 0, .all 0]⟩ }

theorem test_headroom_example :
    pressed.creditLevel 1 .standard = 6 ∧ (after (.postHeader 1 0 1 0 100) pressed).creditLevel 1 .standard = 2 := by
  decide +kernel

theorem test_headroom_example_held :
    ({ pressed with slot := some ⟨{ Table.default with
        reserved := #v[.all 16, ⟨16, 8, 16⟩, .all 16, .all 16], cap := #v[96, 80, 96, 96] }, 1⟩ }).creditLevel 1
      .standard = 0 := by decide +kernel

theorem test_payload_byte_lands : memRead (after (.postStagingByte 2 0x7E) busy).mem 64 = 0x7E := by decide +kernel

theorem test_last_check_byte_admits :
    reply (.postLastCheckByte 2 0xB1) 2 lastByte = [0x5A, 0x01, 0x00, 0x01, 0x00] := by decide +kernel

theorem test_last_check_byte_refuses :
    ((after (.postLastCheckByte 2 0xB0) lastByte).frames[2]).last = some ⟨0x20, .badcheck, none⟩ := by decide +kernel

/-- Section 10.6: the twelve bytes ahead of the payload. -/
theorem test_fetch_any :
    (reply (.fetch 1 3) 1 busy).take 13 =
      [0x5A, 0x01, 0x00, 0x00, 0x00, 0x01, 0x00, 0x20, 0x00, 0x01, 0x00, 0x00, 0x41] := by decide +kernel

theorem test_fetch_repeats : (reply (.fetch 1 1) 1 busy).getD 9 0 = 0x05 := by decide +kernel

theorem test_ack_offers_delivered :
    (after (.ack 1 1 2) busy).notices[0] = [.delivered 1 .standard 2] ∧ (after (.ack 1 1 2) busy).inUse[0] = 1 := by
  decide +kernel

/-- R42 steps 4 to 6, R83, R93: DELIVERED, PEER_LEFT, CONFIG_APPLIED, CREDIT. -/
theorem test_release_tells_in_order :
    (let s := { inState solo 1 .closing with table := scant, slot := some ⟨narrow, 4⟩, inUse := #v[2, 0, 1, 0] }
     let t := after (.ack 1 1 2) (watching s 3 3)
     t.notices[0] = [.delivered 1 .standard 2, .peerLeft 1, .configApplied 1] ∧
      t.notices[3] = [.peerLeft 1, .configApplied 1, .credit .express 96]) := by decide +kernel

theorem test_nack_past_the_limit : reply (.nack 1 1 2) 1 busy = [0x5A, 0x01, 0x01, 0x04] := by decide +kernel

theorem test_recall_takes_a_queued_message :
    reply (.recallMessage 0 1 0 1) 0 busy = [0x5A, 0x01] := by
  decide +kernel

theorem test_recall_of_a_message_in_hand :
    reply (.recallMessage 0 1 1 2) 0 busy = [0x5A, 0x12] := by
  decide +kernel

/-! ## Credit, notices, consent -/

/-- Section 1.8.3. -/
theorem test_watch_stays_armed :
    reply (.watch 1 1 4) 1 (pressed.setFrame 1 asking) = [0x5A, 0x01, 0x00, 0x06] ∧
      ((after (.watch 1 1 8) pressed).watches[1]).standard = some 8 := by decide +kernel

theorem test_watch_fires :
    (after (.watchFire 1 .bulk) { live with watches := live.watches.set 1 ⟨none, none, some 8⟩ }).notices[1] =
      [.credit .bulk 96] := by decide +kernel

theorem test_notices_reads_one_record :
    reply (.notices 0 16) 0 (live.place 0 .rejoined) = [0x5A, 0x01, 0x01, 0x0C, 0xFF, 0x00, 0x00, 0x00, 0x00] := by
  decide +kernel

/-- Section 8.6: an offer folded in while OVERRUN goes out stays behind as OVERRUN(1). -/
theorem test_overrun_stays :
    (after (.noticeRecordRemoval 0) ((framed ((live.place 0 (.overrun 5)).setLatch 0 (some ⟨5, 1⟩)) 0
      (replying 0x31 [0] 1)))).notices[0] = [.overrun 1] := by decide +kernel

theorem test_overrun_is_latched :
    (after (.overrunLatch 0) (framed (live.place 0 (.overrun 5)) 0
      (replying 0x31 ([0x5A, 0x01, 0x01] ++ List.replicate 6 0) 1))).latches[0] = some ⟨5, 0⟩ := by decide +kernel

/-- R150, R151: a record removed by its command brings the OVERRUN record, whose count is latched with its first bit. -/
theorem test_overrun_is_latched_after_a_removal :
    (let s := framed ((live.place 0 .rejoined).place 0 (.overrun 5)) 0
       (replying codeNotices (Notice.rejoined.record ++ (Notice.overrun 5).record) 2)
     let u := after (.noticeRecordRemoval 0) s
     let v := u.clockPeriod (some (0, true)) false
     u.latches[0] = none ∧ v.latches[0] = some ⟨5, 0⟩ ∧ (v.frames[0]).out = (Notice.overrun 5).record ∧
      (v.frames[0]).bitPos = 1) := by decide +kernel

theorem test_summary : reply (.summary 1) 1 busy = [0x5A, 0x01, 0x01, 0x01, 0x00, 0x00, 0x02, 0x00] := by
  decide +kernel

theorem test_readcfg_ends_in_slot_and_number : (reply (.readcfg 0 0) 0 live).drop 40 = [0, 0, 0, 0] := by
  decide +kernel

theorem test_propose_alone_commits :
    reply (.propose 0 Table.default.image) 0 (inState (inState (inState live 1 .offline) 2 .offline) 3 .offline) =
      [0x5A, 0x01, 0x01, 0x02, 0x00] := by decide +kernel

theorem test_consent_commits : (after (.consent 1 7) { busy with voting := some round }).epoch = 1 := by
  decide +kernel

theorem test_veto : reply (.veto 3 7) 3 { busy with voting := some round } = [0x5A, 0x01, 0x05] := by decide +kernel

theorem test_apply :
    (after .applyHeld { busy with slot := some ⟨tight, 1⟩ }).epoch = 0 ∧
      (after .applyHeld { live with slot := some ⟨tight, 1⟩ }).table = tight := by decide +kernel

/-! ## Time -/

theorem test_age_tick :
    (after .ageTick live).ticks = 1 ∧ ((after .ageTick live).members[0]).leaseLeft = 15 := by decide +kernel

theorem test_expiry_at_the_lifetime :
    (after .expiryPass { busy with ticks := 50, passDue := some Table.default.lifetime }).descs[0] = .free := by
  decide +kernel

theorem test_no_expiry_below_the_lifetime :
    (after .expiryPass { busy with ticks := 49, passDue := some Table.default.lifetime }).descs[0] =
      .queued queuedLetter ⟨1, 0⟩ := by decide +kernel

theorem test_lapse :
    (after .proposalLapse { live with voting := some { round with window := 0 } }).notices[3] =
      [.proposalClosed none 7 .lapsed] := by decide +kernel

theorem test_scrub_returns_credit :
    ((after .scrubCompletion busy).used.reserved[0]).express = 0 ∧ (after .scrubCompletion busy).engine = .idle := by
  decide +kernel

/-- R107: the default table makes a tick of 8,000 periods; here the last of them. -/
theorem test_last_period_makes_a_tick :
    (({ live with prescaleCount := 15, periodCount := 249, postscaleCount := 1 }).clockPeriod none true).ticks = 1 := by
  decide +kernel

/-- R111, the apply taken first: the tick that was about to complete does not occur. -/
theorem test_apply_ahead_of_a_tick :
    (let s := ({ live with
       slot := some ⟨tight, 1⟩, prescaleCount := 15, periodCount := 249, postscaleCount := 1 }).clockPeriod none false
     s.tickDue = true ∧ (after .applyHeld s).tickDue = false ∧ (after .applyHeld s).ticks = 0) := by decide +kernel

/-- The state after some bits on SDI of port `p`. -/
def clocked (p : Agent) (bits : List Bool) (s : State) : State :=
  bits.foldl (fun t b => t.clockPeriod (some (p, b)) false) s

/-- R178, R179: 0x21 shifted in, most significant bit first, is the opcode in progress; one byte more is a FETCH. -/
theorem test_request_bits :
    (let s := clocked 1 [false, false, true, false, false, false, false, true] live
     (s.frames[1]).bytePos = 1 ∧ (s.frames[1]).opcode = some 0x21 ∧ s.pending = [] ∧
      (clocked 1 [false, false, false, false, false, false, true, true] s).pending = [.fetch 1 3]) := by decide +kernel

/-- R184: of the byte 0xFF with three bits gone the other five become 0. -/
theorem test_partly_shifted_byte_is_zero_filled :
    (let s := (framed live 1 { replying codeFetch [0xFF, 0xFF] 0 with phase := .response, bitPos := 3 }).setMember 1
       ⟨.active, 16, 0, 0⟩
     (after (.fencing 1) s).sdo 1 = some 0xE0) := by decide +kernel

/-! ## The laws of `busy` -/

/-- The descriptors of `busy`, one by one. -/
theorem busy_desc (d : DescId) : busy.descs[d] =
    if d = 0 then .queued queuedLetter ⟨1, 0⟩ else if d = 1 then .inHand handLetter ⟨2, 0⟩
    else if d = 2 then .staging stagedLetter else .free := by
  have h (n : Nat) (hn : n < 128) : (n = d.val) = (d = ⟨n, hn⟩) :=
    propext ⟨fun e => Fin.ext e.symm, fun e => by rw [e]⟩
  simp only [busy, live, fresh, State.reset, State.inReset, Fin.getElem_fin, Vector.getElem_set,
    Vector.getElem_replicate, h 0 (by decide), h 1 (by decide), h 2 (by decide)]
  by_cases h0 : d = 0
  · subst h0; rfl
  by_cases h1 : d = 1
  · subst h1; rfl
  by_cases h2 : d = 2
  · subst h2; rfl
  exact ((if_neg h2).trans ((if_neg h1).trans (if_neg h0))).trans
    ((if_neg h0).trans ((if_neg h1).trans (if_neg h2))).symm

theorem busy_place : PlaceLaw busy := by
  refine ⟨fun a k => ?_, fun a k d => ?_, fun a k d => ?_, fun p d => ?_⟩
  · cases k <;> revert a <;> decide
  · simp only [State.queuedFor, busy_desc]
    cases k <;> revert a d <;> decide +kernel
  · simp only [State.inHandFor, busy_desc]
    cases k <;> revert a d <;> decide +kernel
  · simp only [State.stagedOn, busy_desc]
    revert p d; decide +kernel

theorem busy_tag : TagLaw busy := by
  have h (d : DescId) : busy.admitted d =
      if d = 0 then some (queuedLetter, ⟨1, 0⟩) else if d = 1 then some (handLetter, ⟨2, 0⟩) else none := by
    unfold State.admitted
    rw [busy_desc]
    split_ifs <;> rfl
  refine ⟨by decide +kernel, fun d m adm e => ?_, fun d d' m m' adm adm' e e' _ ht => ?_⟩
  · rw [h] at e
    split at e
    · cases e; decide
    · split at e
      · cases e; decide
      · cases e
  · rw [h] at e e'
    split at e <;> split at e'
    · simp_all
    · split at e'
      · cases e; cases e'; exact absurd ht (by decide)
      · cases e'
    · split at e
      · cases e; cases e'; exact absurd ht (by decide)
      · cases e
    · split at e
      · split at e'
        · simp_all
        · cases e'
      · cases e

theorem busy_message (d : DescId) : busy.message d =
    if d = 0 then some queuedLetter else if d = 1 then some handLetter else if d = 2 then some stagedLetter
    else none := by
  unfold State.message
  rw [busy_desc]
  split_ifs <;> rfl

theorem busy_bound (c : CellId) : busy.cellMap[c] =
    if c = 0 then .bound (.common 0) 0 0 else if c = 1 then .bound (.reserved 0 .standard) 1 0
    else if c = 2 then .bound (.common 2) 2 0 else if c = 3 then .scrub (.reserved 0 .express)
    else if c = 4 then .bound (.common 2) 2 1 else .free := by
  have h (n : Nat) (hn : n < 384) : (n = c.val) = (c = ⟨n, hn⟩) :=
    propext ⟨fun e => Fin.ext e.symm, fun e => by rw [e]⟩
  simp only [busy, live, fresh, Fin.getElem_fin, Vector.getElem_set, Vector.getElem_replicate, h 0 (by decide),
    h 1 (by decide), h 2 (by decide), h 3 (by decide), h 4 (by decide)]
  by_cases h0 : c = 0
  · subst h0; rfl
  by_cases h1 : c = 1
  · subst h1; rfl
  by_cases h2 : c = 2
  · subst h2; rfl
  by_cases h3 : c = 3
  · subst h3; rfl
  by_cases h4 : c = 4
  · subst h4; rfl
  exact ((if_neg h3).trans ((if_neg h2).trans ((if_neg h1).trans ((if_neg h4).trans (if_neg h0))))).trans
    ((if_neg h0).trans ((if_neg h1).trans ((if_neg h2).trans ((if_neg h3).trans (if_neg h4))))).symm

theorem busy_mem_freeList (c : CellId) : c ∈ busy.freeList ↔ 5 ≤ c.val := by
  have e : busy.freeList = (List.finRange 384).drop 5 := rfl
  rw [e, List.mem_drop_iff_getElem]
  simp only [List.getElem_finRange, Fin.ext_iff, List.length_finRange]
  constructor
  · rintro ⟨i, hi, e⟩
    simp at e
    omega
  · intro h
    exact ⟨c.val - 5, by omega, by simp; omega⟩

theorem busy_cells : CellLaw busy := by
  refine ⟨(List.nodup_finRange 384).sublist (List.drop_sublist ..), by decide, fun c => ?_, fun c => ?_,
    fun c ch d pos => ?_, fun c => ?_⟩
  · rw [busy_bound, busy_mem_freeList]
    have h (n : Nat) (hn : n < 384) : c = ⟨n, hn⟩ ↔ c.val = n := Fin.ext_iff
    have h0 : c = 0 ↔ c.val = 0 := Fin.ext_iff
    have h1 : c = 1 ↔ c.val = 1 := Fin.ext_iff
    have h2 : c = 2 ↔ c.val = 2 := Fin.ext_iff
    have h3 : c = 3 ↔ c.val = 3 := Fin.ext_iff
    have h4 : c = 4 ↔ c.val = 4 := Fin.ext_iff
    simp only [h0, h1, h2, h3, h4]
    split_ifs <;> simp <;> omega
  · rw [busy_bound]
    have hq : c ∈ busy.scrubQueue ↔ c = 3 := List.mem_singleton
    rw [hq]
    split_ifs <;> simp_all
  · have hd : ∀ m, busy.message d = some m → ∀ i : Fin m.cells.length,
        busy.cellMap[m.cells[i]] = .bound m.charge d i.val := by
      intro m e
      rw [busy_message] at e
      split_ifs at e <;> cases e <;> subst d <;> decide +kernel
    constructor
    · intro e
      rw [busy_bound] at e
      split_ifs at e <;> cases e <;> subst c <;> exact ⟨_, busy_message _, by decide, by decide⟩
    · rintro ⟨m, hm, rfl, hc⟩
      obtain ⟨hl, rfl⟩ := List.getElem?_eq_some_iff.mp hc
      exact hd m hm ⟨pos, hl⟩
  · constructor
    · rw [busy_bound]
      intro e
      split_ifs at e
    · rintro ⟨p, e, _⟩
      cases e

theorem busy_charged (ch : Charge) : busy.charged ch =
    if ch = .common 2 then 2
    else if ch = .common 0 ∨ ch = .reserved 0 .standard ∨ ch = .reserved 0 .express then 1 else 0 := by
  unfold State.charged
  simp only [busy_bound]
  have h : ∀ l : List CellId, (∀ c ∈ l, 5 ≤ c.val) → l.countP (fun c => decide (CellRecord.charge
      (if c = 0 then .bound (.common 0) 0 0 else if c = 1 then .bound (.reserved 0 .standard) 1 0
      else if c = 2 then .bound (.common 2) 2 0 else if c = 3 then .scrub (.reserved 0 .express)
      else if c = 4 then .bound (.common 2) 2 1 else .free) = some ch)) = 0 := by
    intro l hl
    rw [List.countP_eq_zero]
    intro c hc
    have := hl c hc
    have h0 : c ≠ 0 := fun e => by subst e; exact absurd this (by decide)
    have h1 : c ≠ 1 := fun e => by subst e; exact absurd this (by decide)
    have h2 : c ≠ 2 := fun e => by subst e; exact absurd this (by decide)
    have h3 : c ≠ 3 := fun e => by subst e; exact absurd this (by decide)
    have h4 : c ≠ 4 := fun e => by subst e; exact absurd this (by decide)
    simp [h0, h1, h2, h3, h4, CellRecord.charge]
  have e : List.finRange 384 = [0, 1, 2, 3, 4] ++ busy.freeList := by decide +kernel
  rw [e, List.countP_append, h _ (fun c hc => (busy_mem_freeList c).mp hc)]
  simp only [List.countP_cons, List.countP_nil]
  clear h e
  cases ch with
  | common a => revert a; decide
  | reserved a k => cases k <;> revert a <;> decide

theorem busy_credit : CreditLaw busy := by
  refine ⟨fun a => ?_, fun a k => ?_, rfl⟩
  · rw [busy_charged]; revert a; decide
  · rw [busy_charged]; cases k <;> revert a <;> decide

theorem busy_messages : MessageLaw busy := by
  intro d m e
  rw [busy_message] at e
  split at e
  · cases e; decide
  · split at e
    · cases e; decide
    · split at e
      · cases e; decide
      · cases e

theorem busy_inUse : InUseLaw busy := by
  intro a
  simp only [busy_message]
  revert a
  decide

theorem busy_part : PartLaw busy :=
  ⟨rfl, busy_place, busy_inUse, by unfold NothingForAbsent; decide +kernel, busy_cells, busy_credit, busy_messages,
    by unfold LimitLaw; decide +kernel, by decide +kernel, (fun h e => by cases e), (fun v e => by cases e)⟩

theorem busy_memory : MemoryLaw busy := rfl

theorem busy_free : FreeCellsLaw busy := by
  intro c j hc hj
  have h5 := (busy_mem_freeList c).mp ((busy_cells.2.2.1 c).mp hc)
  have ha : cellAddr c j = 32 * c.val + j := rfl
  have e : busy.mem = [(0, 0x41), (128, 0x42)] := rfl
  rw [e]
  unfold memRead memRead memRead
  rw [if_neg (by omega), if_neg (by omega)]

theorem busy_notices : NoticeLaw busy ∧ AbsenceLaw busy := by
  refine ⟨fun a => ?_, fun a => ?_⟩
  · revert a; unfold noticeShape; decide +kernel
  · revert a; decide +kernel

theorem lone_desc (d : DescId) : lone.descs[d] = if d = 0 then .queued queuedLetter ⟨1, 0⟩ else .free := by
  have h (n : Nat) (hn : n < 128) : (n = d.val) = (d = ⟨n, hn⟩) :=
    propext ⟨fun e => Fin.ext e.symm, fun e => by rw [e]⟩
  simp only [lone, live, fresh, State.reset, State.inReset, Fin.getElem_fin, Vector.getElem_set,
    Vector.getElem_replicate, h 0 (by decide)]
  rfl

theorem lone_place : PlaceLaw lone := by
  refine ⟨fun a k => ?_, fun a k d => ?_, fun a k d => ?_, fun p d => ?_⟩
  · cases k <;> revert a <;> decide
  · simp only [State.queuedFor, lone_desc]
    cases k <;> revert a d <;> decide +kernel
  · simp only [State.inHandFor, lone_desc]
    cases k <;> revert a d <;> decide +kernel
  · simp only [State.stagedOn, lone_desc]
    revert p d; decide +kernel

theorem solo_desc (d : DescId) : solo.descs[d] = if d = 0 then .inHand handLetter ⟨2, 0⟩ else .free := by
  have h (n : Nat) (hn : n < 128) : (n = d.val) = (d = ⟨n, hn⟩) :=
    propext ⟨fun e => Fin.ext e.symm, fun e => by rw [e]⟩
  simp only [solo, live, fresh, State.reset, State.inReset, Fin.getElem_fin, Vector.getElem_set,
    Vector.getElem_replicate, h 0 (by decide)]
  rfl

theorem solo_place : PlaceLaw solo := by
  refine ⟨fun a k => ?_, fun a k d => ?_, fun a k d => ?_, fun p d => ?_⟩
  · cases k <;> revert a <;> decide
  · simp only [State.queuedFor, solo_desc]
    cases k <;> revert a d <;> decide +kernel
  · simp only [State.inHandFor, solo_desc]
    cases k <;> revert a d <;> decide +kernel
  · simp only [State.stagedOn, solo_desc]
    revert p d; decide +kernel

theorem paired_desc (d : DescId) : paired.descs[d] = if d = 1 then .inHand handLetter ⟨2, 0⟩
    else if d = 0 then .inHand (letter 0 .express 32 [0] (.common 0) 3) ⟨1, 0⟩ else .free := by
  have h (n : Nat) (hn : n < 128) : (n = d.val) = (d = ⟨n, hn⟩) :=
    propext ⟨fun e => Fin.ext e.symm, fun e => by rw [e]⟩
  simp only [paired, live, fresh, State.reset, State.inReset, Fin.getElem_fin, Vector.getElem_set,
    Vector.getElem_replicate, h 0 (by decide), h 1 (by decide)]
  rfl

theorem paired_place : PlaceLaw paired := by
  refine ⟨fun a k => ?_, fun a k d => ?_, fun a k d => ?_, fun p d => ?_⟩
  · cases k <;> revert a <;> decide
  · simp only [State.queuedFor, paired_desc]
    cases k <;> revert a d <;> decide +kernel
  · simp only [State.inHandFor, paired_desc]
    cases k <;> revert a d <;> decide +kernel
  · simp only [State.stagedOn, paired_desc]
    revert p d; decide +kernel

/-- The places of the messages are read from four fields. -/
theorem place_of_same {s t : State} (h : PlaceLaw s) (hd : t.descs = s.descs) (hq : t.queues = s.queues)
    (hh : t.hands = s.hands) (hs : t.stagings = s.stagings) : PlaceLaw t := by
  unfold PlaceLaw State.queuedFor State.inHandFor State.stagedOn at *
  rw [hd, hq, hh, hs]
  exact h

theorem lone_tag : TagLaw lone := by
  have h (d : DescId) m adm (e : lone.admitted d = some (m, adm)) : d = 0 ∧ adm.tag = 1 := by
    unfold State.admitted at e
    rw [lone_desc] at e
    split_ifs at e with hd
    cases e
    exact ⟨hd, rfl⟩
  refine ⟨by decide, fun d m adm e => ?_, fun d d' m m' adm adm' e e' _ _ => (h d m adm e).1.trans (h d' m' adm' e').1.symm⟩
  rw [(h d m adm e).2]
  decide

/-- The tags of the messages are read from two fields. -/
theorem tag_of_same {s t : State} (h : TagLaw s) (hd : t.descs = s.descs) (hn : t.nextTag = s.nextTag) : TagLaw t := by
  unfold TagLaw State.admitted at *
  rw [hd, hn]
  exact h

theorem busy_joined (a : Agent) : busy.joined a := by revert a; decide

theorem held_law (x : Table) (h : busy.fits x = false) : HeldLaw (holding x) := fun _ e => by cases e; exact h

/-- No watch armed and no table held; and one watch one above its level with a table that does not fit. -/
theorem busy_watches :
    (HeldLaw busy ∧ WatchLaw busy) ∧ HeldLaw (holding tight) ∧ WatchLaw (watching (holding tight) 1 97) := by
  refine ⟨⟨fun h e => (by cases e), fun a k n e => ?_⟩, held_law _ (by decide +kernel), fun a k n e => ?_⟩
  · have h : ∀ a : Agent, busy.watches[a] = .all none := by decide
    rw [h] at e
    cases k <;> cases e
  · have h : ∀ (a : Agent) (k : MsgClass), ((watching (holding tight) 1 97).watches[a]).get k =
        if a = 1 ∧ k = .express then some 97 else none := by
      intro a k
      cases k <;> revert a <;> decide
    rw [h] at e
    split_ifs at e with hc
    obtain ⟨rfl, rfl⟩ := hc
    cases e
    decide +kernel

/-! ## Hypotheses that can be met: the step, reset and framing -/

/-- RSTN low; a tick due; a tick that completes, one that does not at each stage; the last period of a clear; and an apply
while a tick is due. -/
theorem witness_idle_step :
    (busy.pending = [] ∧ busy.quiet ∧ busy.rstnLow = false ∧ busy.postscaleCount < busy.table.postscale) ∧
      (State.reset.pending = [] ∧ State.reset.quiet ∧ State.reset.rstnLow = true) ∧
      (let s := { live with postscaleCount := 2 }
       s.pending = [] ∧ s.quiet ∧ s.rstnLow = false ∧ s.table.postscale ≤ s.postscaleCount) ∧
      (let s := { live with prescaleCount := 15, periodCount := 249, postscaleCount := 1 }
       s.pending = [] ∧ s.quiet ∧ s.postscaleCount < s.table.postscale ∧ s.table.prescale ≤ s.prescaleCount + 1 ∧
        s.table.period ≤ s.periodCount + 1 ∧ s.table.postscale ≤ s.postscaleCount + 1) ∧
      (let s := { live with prescaleCount := 14 }
       ¬s.table.prescale ≤ s.prescaleCount + 1) ∧
      (let s := { live with prescaleCount := 15, periodCount := 248 }
       s.table.prescale ≤ s.prescaleCount + 1 ∧ ¬s.table.period ≤ s.periodCount + 1) ∧
      (let s := { live with prescaleCount := 15, periodCount := 249, postscaleCount := 0 }
       s.table.period ≤ s.periodCount + 1 ∧ ¬s.table.postscale ≤ s.postscaleCount + 1) ∧
      ({ busy with clearLeft := 1 }).clearLeft ≤ 1 ∧
      (let s := { live with postscaleCount := 2, slot := some ⟨tight, 1⟩ }
       s.pending = [] ∧ s.quiet ∧ s.slot = some ⟨tight, 1⟩ ∧ s.fits tight = true ∧ 0 < tight.postscale) := by
  decide +kernel

/-- A byte of `lastByte` still to come on port 2, and a readout of an OVERRUN record on port 0 from its end, from the end
of the record ahead of it, past an abort, and from its own first bit. -/
theorem witness_sck :
    (busy.quiet ∧ busy.rstnLow = false ∧ (framed busy 3 (.quiet false)).frames[3] = .quiet false ∧
        (busy.frames[0]).csnLow = true ∧ (busy.frames[0]).phase = .request ∧ (busy.frames[0]).bitPos < 7) ∧
      (let s := framed busy 0 { asking with bitPos := 7, received := [0x21] }
       s.quiet ∧ (s.frames[0]).phase = .request ∧ 7 ≤ (s.frames[0]).bitPos ∧ s.stagings[0] = none ∧
        decodeRequest 0 [0x21, 0x03] = some (.fetch 0 3)) ∧
      (let s := framed lastByte 2 { asking with bytePos := 40, opcode := some codePost, bitPos := 7 }
       s.quiet ∧ s.rstnLow = false ∧ (s.frames[2]).phase = .request ∧ 7 ≤ (s.frames[2]).bitPos ∧
        s.stagings[2] = some { stagedContext with
          payloadReceived := 33, checkReceived := 1, checkRegister := 0x29B1, checkHigh := some 0x29 } ∧
        s.descs[(2 : DescId)] = .staging stagedLetter) ∧
      (let s := framed (live.place 0 (.overrun 5)) 0 { replying codeNotices [0x01] 1 with phase := .response, bitPos := 7 }
       s.quiet ∧ (s.frames[0]).phase = .response ∧ 7 ≤ (s.frames[0]).bitPos ∧ (s.frames[0]).skipping = false ∧
        0 < (s.frames[0]).recordsLeft ∧ (s.frames[0]).out.tail.length ≤ 6 * ((s.frames[0]).recordsLeft - 1)) ∧
      (let s := framed ((live.place 0 .rejoined).place 0 (.overrun 5)) 0
         { replying codeNotices (0x00 :: (Notice.overrun 5).record) 2 with phase := .response, bitPos := 7 }
       s.quiet ∧ 0 < (s.frames[0]).recordsLeft ∧ (s.frames[0]).out.tail.length ≤ 6 * ((s.frames[0]).recordsLeft - 1) ∧
        (s.frames[0]).skipping = false ∧ ((s.clockPeriod (some (0, true)) false).latches[0]) = some ⟨5, 0⟩) ∧
      (let s := framed live 0 { replying codePost [0x5A, 0x0A] 0 with bitPos := 7, skipping := true }
       s.quiet ∧ (s.frames[0]).csnLow = true ∧ (s.frames[0]).phase = .turnaround ∧ 7 ≤ (s.frames[0]).bitPos ∧
        (s.frames[0]).skipping = true ∧ (s.frames[0]).recordsLeft = 0) ∧
      (let s := framed (live.place 0 (.overrun 5)) 0 (replying codeNotices (Notice.overrun 5).record 1)
       s.quiet ∧ s.rstnLow = false ∧ (s.frames[0]).csnLow = true ∧ (s.frames[0]).phase = .turnaround ∧
        (s.frames[0]).recordsLeft = 1 ∧ (s.frames[0]).out.length = 6 ∧ (s.frames[0]).bitPos = 0 ∧ s.latches[0] = none ∧
        s.notices[0] = .overrun 5 :: []) := by
  refine ⟨by decide +kernel, by decide +kernel, ?_, by decide +kernel, by decide +kernel, by decide +kernel,
    by decide +kernel⟩
  exact ⟨by decide +kernel, rfl, rfl, by decide, rfl, busy_desc 2⟩

/-- No consumer due, one, and three. -/
theorem witness_due_consumers :
    (let c : Instr := .ageTick
     c ≠ .deviceReset ∧ c ≠ .expiryPass ∧ (∀ a, c ≠ .fencing a) ∧ c ≠ .proposalLapse) ∧ busy.quiet ∧
      (busy.setMember 1 ⟨.active, 16, 0, 0⟩).dueEvents = [.fence 1] ∧
      ({ busy with passDue := some Table.default.lifetime }).dueEvents = [.pass] ∧
      ({ busy with voting := some { round with window := 0 } }).dueEvents = [.lapse] ∧
      ({ busy.setMember 1 ⟨.active, 16, 0, 0⟩ with
         passDue := some Table.default.lifetime, voting := some { round with window := 0 } }).dueEvents =
        [.pass, .fence 1, .lapse] := by decide +kernel

theorem witness_startup_clear :
    (State.reset.quiet ∧ State.reset.rstnLow = true) ∧
      (∀ p ∈ ([0, 382, 383] : List CellId),
        (clearing p).quiet ∧ (clearing p).rstnLow = false ∧ (clearing p).engine = .startUp p) ∧
      (clearing 0).freeList = [] := by decide +kernel

theorem witness_starting_requests :
    (clearing 383).receiving 2 ∧ (clearing 383).starting = true ∧
      ∀ c ∈ ([.badop 2 0xFF, .join 2 16, .watch 2 0 1] : List Instr), ∃ code args,
        requestBytes c = some (2, code :: args) ∧ c.wellFormed = true ∧ c ≠ .ident 2 := by
  refine ⟨by decide +kernel, by decide, ?_⟩
  intro c hc
  rcases List.mem_cons.mp hc with rfl | hc
  · exact ⟨_, _, rfl, by decide, by decide⟩
  · rcases List.mem_cons.mp hc with rfl | hc
    · exact ⟨_, _, rfl, rfl, by decide⟩
    · rcases List.mem_cons.mp hc with rfl | hc
      · exact ⟨_, _, rfl, rfl, by decide⟩
      · cases hc

theorem witness_caller_state :
    requestBytes (.summary 0) = some (0, [0x32]) ∧ (Instr.summary 0).wellFormed = true ∧
      isTransactionCode 0x32 = true ∧ (0x32 : Byte) ≠ codeIdent ∧ (0x32 : Byte) ≠ codeStatus ∧
      (0x32 : Byte) ≠ codeJoin ∧ (fresh.ready 0 ∧ fresh.portIs 0 .offline) ∧
      ((inState live 0 .fenced).ready 0 ∧ (inState live 0 .fenced).portIs 0 .fenced) ∧
      ((inState live 0 .closing).ready 0 ∧ (inState live 0 .closing).portIs 0 .closing) ∧
      requestBytes (.veto 0 1) = some (0, [codeVeto, 1]) ∧
      live.ready 3 ∧ (0x00 : Byte) ∉ transactionCodes ∧ (0xFF : Byte) ∉ transactionCodes := by decide +kernel

theorem witness_csn_fall :
    (live.quiet ∧ (live.frames[3]).csnLow = true) ∧
      (let s := framed live 3 (.quiet false)
       s.quiet ∧ (s.frames[3]).csnLow = false ∧ s.rstnLow = false ∧ (s.frames[3]).phase = .idle) ∧
      (State.reset.quiet ∧ (State.reset.frames[3]).csnLow = false ∧ State.reset.rstnLow = true) := by decide +kernel

/-- Both cases of the latch; the latched count and the offers since pass 255 together. -/
theorem witness_csn_rise :
    (busy.quiet ∧ busy.rstnLow = false ∧ (busy.frames[0]).csnLow = true ∧ busy.stagings[0] = none ∧
        busy.latches[0] = none) ∧
      (let s := (busy.setNotices 0 [.rejoined, .overrun 254]).setLatch 0 (some ⟨254, 2⟩)
       s.quiet ∧ s.latches[0] = some ⟨254, 2⟩ ∧ s.notices[0] = [.rejoined] ++ [.overrun 254]) := by decide +kernel

/-- No table held; one that applies, with a watch that fires; and one that stays HELD. -/
theorem witness_csn_rise_of_a_staging :
    (busy.quiet ∧ busy.rstnLow = false ∧ (busy.frames[2]).csnLow = true ∧ busy.stagings[2] = some stagedContext ∧
        busy.descs[stagedContext.desc] = .staging stagedLetter ∧ busy.slot = none ∧ busy.latches[2] = none) ∧
      (let s := { watching (holding narrow) 3 3 with table := scant, inUse := #v[1, 0, 2, 0] }
       s.quiet ∧ s.stagings[2] = some stagedContext ∧ s.fits narrow = false ∧
        s.appliesTo (after (.csnRise 2) s) = true ∧ s.credits (after (.csnRise 2) s) 3 = [.credit .express 96]) ∧
      (let s := watching (holding tight) 3 97
       s.quiet ∧ s.stagings[2] = some stagedContext ∧ s.appliesTo (after (.csnRise 2) s) = false) := by
  decide +kernel

theorem witness_ident : (clearing 0).receiving 3 ∧ busy.receiving 0 := by decide +kernel

theorem witness_status :
    ((clearing 0).receiving 0 ∧ (clearing 0).starting = true) ∧ (busy.receiving 0 ∧ busy.starting = false) ∧
      (busy.frames[0]).last = none ∧ busy.voting = none ∧
      (let s := framed { busy with voting := some round } 1 { asking with last := some ⟨0x20, .ok, some 1⟩ }
       s.receiving 1 ∧ s.starting = false ∧ (s.frames[1]).last = some ⟨0x20, .ok, some 1⟩ ∧ s.voting = some round) := by
  decide +kernel

/-! ## Hypotheses that can be met: membership -/

theorem witness_renew :
    ((clearing 0).receiving 1 ∧ (clearing 0).starting = true) ∧
      (fresh.receiving 1 ∧ fresh.starting = false ∧ fresh.portIs 1 .offline) ∧
      ((inState fresh 1 .fenced).receiving 1 ∧ (inState fresh 1 .fenced).portIs 1 .fenced) ∧
      (busy.receiving 1 ∧ busy.starting = false ∧ busy.joined 1) := by decide +kernel

theorem witness_join :
    fresh.ready 0 ∧ fresh.portIs 0 .offline ∧ (inState fresh 0 .fenced).ready 0 ∧
      (inState fresh 0 .fenced).portIs 0 .fenced ∧ (15 : Half).toNat < 16 ∧ 4095 < (4096 : Half).toNat ∧
      (16 ≤ (16 : Half).toNat ∧ (16 : Half).toNat ≤ 4095) ∧ 16 ≤ (4095 : Half).toNat ∧ (4095 : Half).toNat ≤ 4095 := by
  decide +kernel

/-- A message in hand past the limit; one at the limit; a round in which the agent is required; held tables whose limit
lies above and below; two messages in hand, of which the rejection of the first applies a table that spares the second; and held
tables of which a rejection applies one and leaves the other HELD. -/
theorem witness_rejoin :
    (busy.ready 1 ∧ busy.joined 1 ∧ PlaceLaw busy ∧ busy.voting = none ∧ busy.slot = none ∧
        (busy.hands[1]).express = none ∧ (busy.hands[1]).standard = some 1 ∧
        busy.descs[(1 : DescId)] = .inHand handLetter ⟨2, 0⟩ ∧
        busy.table.redelivery.get .standard < handLetter.redeliveries + 1 ∧ busy.engine ≠ .idle) ∧
      (let s := { busy with table := { Table.default with redelivery := .all 4 }, voting := some round }
       s.ready 1 ∧ PlaceLaw s ∧ s.voting = some round ∧
        handLetter.redeliveries + 1 ≤ s.table.redelivery.get .standard) ∧
      (let h : HeldTable := ⟨{ tight with redelivery := .all 4 }, 1⟩
       let s := { busy with table := { Table.default with redelivery := .all 5 }, slot := some h }
       s.ready 1 ∧ PlaceLaw s ∧ s.slot = some h ∧
        handLetter.redeliveries + 1 ≤ min (s.table.redelivery.get .standard) (h.table.redelivery.get .standard)) ∧
      (let h : HeldTable := ⟨{ tight with redelivery := .all 2 }, 1⟩
       let s := { busy with slot := some h }
       s.ready 1 ∧ PlaceLaw s ∧ s.slot = some h ∧
        max (s.table.redelivery.get .standard) (h.table.redelivery.get .standard) < handLetter.redeliveries + 1) ∧
      (paired.ready 1 ∧ paired.joined 1 ∧ PlaceLaw paired ∧ paired.slot ≠ none ∧ (paired.hands[1]).express = some 0 ∧
        (paired.hands[1]).standard = some 1 ∧ paired.descs[(1 : DescId)] = .inHand handLetter ⟨2, 0⟩ ∧
        paired.table.redelivery.standard < handLetter.redeliveries + 1 ∧
        handLetter.redeliveries + 1 ≤ (after (.join 1 16) paired).table.redelivery.standard) ∧
      (∀ x ∈ [narrow, tight], (holding x).ready 1 ∧ (holding x).joined 1 ∧ PlaceLaw (holding x) ∧ HeldLaw (holding x)) ∧
      (holding narrow).appliesTo (after (.join 1 16) (holding narrow)) = true ∧
      (holding tight).appliesTo (after (.join 1 16) (holding tight)) = false := by
  refine ⟨⟨by decide +kernel, by decide +kernel, busy_place, rfl, rfl, rfl, rfl, busy_desc 1, by decide, by decide⟩,
    ⟨by decide +kernel, busy_place, rfl, by decide⟩, ⟨by decide +kernel, busy_place, rfl, by decide⟩,
    ⟨by decide +kernel, busy_place, rfl, by decide⟩,
    ⟨by decide +kernel, by decide, paired_place, by decide, rfl, rfl, paired_desc 1, by decide, by decide +kernel⟩,
    fun x hx => ⟨?_, busy_joined 1, busy_place, held_law x ?_⟩,
    by decide +kernel, by decide +kernel⟩
  · exact (by decide +kernel : busy.ready 1)
  · simp only [List.mem_cons, List.not_mem_nil, or_false] at hx
    rcases hx with rfl | rfl <;> decide +kernel

/-- No round. Then an ACTIVE leaver that is the proposer of an OPEN round, going OFFLINE and going CLOSING; one whose removal
commits a table that fits, with a watch that fires, and one that does not fit; and one whose removal leaves the round OPEN. -/
theorem witness_leave :
    (busy.ready 3 ∧ busy.joined 3 ∧ busy.portIs 3 .active ∧ busy.holdsNothing 3 = true ∧ busy.voting = none) ∧
      (busy.ready 1 ∧ busy.joined 1 ∧ busy.portIs 1 .active ∧ busy.holdsNothing 1 = false) ∧
      (let s := inState { busy with voting := some round } 1 .closing
       s.ready 1 ∧ s.joined 1 ∧ s.portIs 1 .closing ∧ s.voting = some round) ∧
      (let s := { busy with voting := some round }
       s.ready 3 ∧ s.portIs 3 .active ∧ s.holdsNothing 3 = true ∧ round.proposer = 3 ∧ s.commitsAt 3 = none ∧
        s.withdrawnTo 3 1 = [.proposalClosed none 7 .withdrawn]) ∧
      (let s := { busy with voting := some { round with proposer := 1, required := #v[false, false, true, true] } }
       s.ready 1 ∧ s.portIs 1 .active ∧ s.holdsNothing 1 = false ∧ s.commitsAt 1 = none ∧
        s.withdrawnTo 1 2 = [.proposalClosed none 7 .withdrawn] ∧ s.withdrawnTo 1 0 = []) ∧
      (let v := { round with required := #v[true, true, false, false], consented := #v[false, true, false, false] }
       let s := watching { busy with voting := some v, table := scant } 3 3
       s.ready 0 ∧ s.portIs 0 .active ∧ s.holdsNothing 0 = true ∧ s.commitsAt 0 = some (v.without 0) ∧
        (after (.leave 0) s).fits v.table = true ∧ s.credits (after (.leave 0) s) 3 = [.credit .express 96]) ∧
      (let v := { round with table := tight }
       let s := watching { busy with voting := some v } 3 97
       s.ready 1 ∧ s.portIs 1 .active ∧ s.holdsNothing 1 = false ∧ s.commitsAt 1 = some (v.without 1) ∧
        (after (.leave 1) s).fits tight = false ∧ s.credits (after (.leave 1) s) 3 = []) ∧
      (let s := { busy with voting := some { round with required := #v[true, true, false, false] } }
       s.ready 1 ∧ s.ready 0 ∧ s.commitsAt 1 = none ∧ s.commitsAt 0 = none ∧ s.withdrawnTo 1 0 = []) := by
  refine ⟨by decide +kernel, by decide +kernel, by decide +kernel, by decide +kernel, by decide +kernel, by decide +kernel,
    by decide +kernel, by decide +kernel⟩

theorem witness_drain :
    (let s := inState busy 0 .closing
     s.quiet ∧ s.portIs 0 .closing ∧ s.holdsNothing 0 = true) ∧
      (let s := framed (inState busy 0 .closing) 0 (replying codeNotices [0x5A, 0x01, 0x00] 0)
       s.quiet ∧ (s.frames[0]).opcode = some codeNotices ∧ (s.frames[0]).phase = .turnaround ∧
        (s.frames[0]).bitPos = 0) ∧
      (let s := framed (inState busy 0 .closing) 0
         { replying codeNotices [0x01] 0 with phase := .response, bitPos := 7 }
       s.quiet ∧ 0 < (s.frames[0]).bitPos ∧ (s.frames[0]).skipping = false ∧ (s.frames[0]).out = 0x01 :: []) ∧
      (busy.quiet ∧ ¬busy.portIs 0 .closing) ∧
      (let s := inState busy 1 .closing
       s.quiet ∧ s.holdsNothing 1 = false) := by decide +kernel

/-! ## Hypotheses that can be met: posting -/

/-- One header for each refusal, at the first value refused. -/
theorem witness_header_refusals :
    (busy.ready 0 ∧ busy.portIs 0 .active) ∧ ((4 : Byte).getLsbD 2 = true ∧ 2 < (3 : Byte).toNat) ∧
      (3 < (4 : Byte).toNat ∧ (0 : Byte).toNat = (0 : Agent).val) ∧
      (classCode .express = 0 ∧ (1 : Agent).val = (1 : Byte).toNat ∧ (1 : Agent) ≠ 0 ∧ (0 : Half).toNat = 0 ∧
        maxLength .express < (33 : Half).toNat ∧ (32 : Half).toNat ≤ maxLength .express) ∧
      ((inState busy 1 .offline).ready 0 ∧ (inState busy 1 .offline).portIs 1 .offline) ∧
      ((inState busy 1 .fenced).ready 0 ∧ (inState busy 1 .fenced).portIs 1 .fenced) ∧
      ((inState busy 1 .closing).ready 0 ∧ (inState busy 1 .closing).portIs 1 .closing) ∧
      (let s := { busy with table := { Table.default with descLimit := #v[2, 32, 32, 32] } }
       s.ready 0 ∧ s.table.descLimit[0] ≤ s.inUse[0] ∧ s.portIs 1 .active) ∧
      (let s := { busy with slot := some ⟨{ Table.default with descLimit := #v[2, 32, 32, 32] }, 1⟩ }
       s.ready 0 ∧ ∃ h, s.slot = some h ∧ h.table.descLimit[0] ≤ s.inUse[0]) ∧
      (let s := { busy with table := { Table.default with cap := #v[1, 96, 96, 96], reserved :=
          #v[.all 1, .all 16, .all 16, .all 16] } }
       s.ready 0 ∧ s.portIs 0 .active ∧ s.portIs 1 .active ∧ s.descs[(3 : DescId)] = .free ∧
        ¬s.table.descLimit[0] ≤ s.inUse[0] ∧ s.slot = none ∧ s.commonHeadroom 0 < cellsFor 1 ∧
        s.reservedHeadroom 0 .standard < cellsFor 1) := by
  refine ⟨by decide +kernel, by decide, by decide, by decide, by decide +kernel, by decide +kernel, by decide +kernel,
    by decide +kernel, ⟨by decide +kernel, _, rfl, by decide⟩, by decide +kernel⟩

/-- Both buckets; the common headroom just enough and just too small; a watch one above the level the header leaves, and one
at it. -/
theorem witness_header_accepted :
    (busy.ready 0 ∧ busy.portIs 0 .active ∧ (1 : Agent) ≠ 0 ∧ busy.portIs 1 .active ∧ busy.freeList.Nodup) ∧
      (∀ i : Nat, 2 ≤ i → i ≤ 7 → (3 : Byte).getLsbD i = false) ∧
      (0 < (256 : Half).toNat ∧ (256 : Half).toNat ≤ maxLength .bulk) ∧
      (busy.descs[(3 : DescId)] = .free ∧ ∀ y : DescId, y < 3 → busy.descs[y] ≠ .free) ∧
      (busy.inUse[0] < busy.table.descLimit[0] ∧ busy.slot = none) ∧ cellsFor 256 ≤ busy.commonHeadroom 0 ∧
      (let s := { busy with table := { Table.default with cap := #v[9, 96, 96, 96] } }
       s.ready 0 ∧ cellsFor 256 ≤ s.commonHeadroom 0) ∧
      (let s := { busy with table := { Table.default with cap := #v[8, 96, 96, 96] } }
       s.ready 0 ∧ s.commonHeadroom 0 < cellsFor 256 ∧ cellsFor 256 ≤ s.reservedHeadroom 0 .bulk) ∧
      (let t := after (.postHeader 0 1 2 3 256) (watching busy 0 88)
       (t.watches[0]).express = some 88 ∧
        ((watching busy 0 87).credits (after (.postHeader 0 1 2 3 256) (watching busy 0 87))) 0 =
          [.credit .express 87]) := by
  refine ⟨⟨by decide +kernel, by decide, by decide, by decide, busy_cells.1⟩, ?_, by decide, ?_, by decide, by decide,
    by decide +kernel, by decide +kernel, by decide +kernel⟩
  · intro i h2 h7
    have : ∀ i : Fin 8, 2 ≤ i.val → (3 : Byte).getLsbD i.val = false := by decide
    exact this ⟨i, by omega⟩ h2
  · simp only [busy_desc]
    decide

/-- The three kinds of staged byte, each at its last value. -/
theorem witness_staged_bytes :
    (busy.quiet ∧ busy.rstnLow = false ∧ busy.stagings[2] = some stagedContext ∧
        busy.descs[stagedContext.desc] = .staging stagedLetter ∧ MemoryLaw busy) ∧
      (let c := { stagedContext with corrToCome := 1 }
       (busy.setStaging 2 (some c)).stagings[2] = some c ∧ c.corrToCome = 1) ∧
      (let c := { stagedContext with payloadReceived := 32 }
       (busy.setStaging 2 (some c)).stagings[2] = some c ∧ c.payloadReceived < stagedLetter.length ∧
        stagedLetter.cells[c.payloadReceived / 32]? = some 4) ∧
      (let c := { stagedContext with payloadReceived := 33 }
       (busy.setStaging 2 (some c)).stagings[2] = some c ∧ stagedLetter.length ≤ c.payloadReceived ∧
        c.checkReceived = 0) :=
  ⟨⟨by decide +kernel, rfl, rfl, busy_desc 2, busy_memory⟩, by decide, by decide, by decide⟩

/-- Admitted, and refused for both reasons; refused with a held table that applies and with one that stays HELD. -/
theorem witness_last_check_byte :
    ∃ c m, (lastByte.quiet ∧ lastByte.rstnLow = false ∧ lastByte.stagings[2] = some c ∧
        lastByte.descs[c.desc] = .staging m ∧ c.corrToCome = 0 ∧ m.length ≤ c.payloadReceived ∧ c.checkReceived = 1 ∧
        c.checkHigh = some 0x29) ∧
      (half 0x29 0xB1 = c.checkRegister ∧ lastByte.portIs m.dest .active) ∧ half 0x29 0xB0 ≠ c.checkRegister ∧
      ((inState lastByte 1 .closing).stagings[2] = some c ∧ ¬(inState lastByte 1 .closing).portIs m.dest .active) ∧
      (let s := { watching lastByte 3 3 with slot := some ⟨narrow, 4⟩, table := scant, inUse := #v[1, 0, 2, 0] }
       s.quiet ∧ s.stagings[2] = some c ∧ s.fits narrow = false ∧
        s.appliesTo (after (.postLastCheckByte 2 0xB0) s) = true ∧
        s.credits (after (.postLastCheckByte 2 0xB0) s) 3 = [.credit .express 96]) ∧
      (let s := { lastByte with slot := some ⟨tight, 4⟩ }
       s.quiet ∧ s.stagings[2] = some c ∧ s.appliesTo (after (.postLastCheckByte 2 0xB0) s) = false) :=
  ⟨_, stagedLetter, ⟨by decide +kernel, rfl, rfl, busy_desc 2, rfl, by decide, rfl, rfl⟩, by decide, by decide,
    ⟨rfl, by decide⟩, by decide +kernel, by decide +kernel⟩

theorem witness_staged_payload :
    (busy.quiet ∧ busy.rstnLow = false ∧ PartLaw busy ∧ MemoryLaw busy ∧ busy.stagings[2] = some stagedContext ∧
      busy.descs[stagedContext.desc] = .staging stagedLetter ∧ stagedContext.corrToCome = 0 ∧
      stagedContext.payloadReceived = 0 ∧ (List.replicate 33 (0x7E : Byte)).length = stagedLetter.length) :=
  ⟨by decide +kernel, rfl, busy_part, busy_memory, rfl, busy_desc 2, rfl, rfl, rfl⟩

/-! ## Hypotheses that can be met: delivery -/

/-- The first refused selector; nothing anywhere; a repeat; the head of a queue; nothing in the class. -/
theorem witness_fetch :
    (busy.ready 1 ∧ busy.joined 1 ∧ PlaceLaw busy) ∧ 3 < (4 : Byte).toNat ∧
      (busy.ready 0 ∧ busy.joined 0 ∧ ∀ k, (busy.hands[0]).get k = none ∧ (busy.queues[0]).get k = []) ∧
      (selects busy 1 1 .standard ∧ (busy.hands[1]).standard = some 1 ∧
        busy.descs[(1 : DescId)] = .inHand handLetter ⟨2, 0⟩) ∧
      (selects busy 1 3 .express ∧ (busy.hands[1]).express = none ∧ (busy.queues[1]).express = 0 :: [] ∧
        busy.descs[(0 : DescId)] = .queued queuedLetter ⟨1, 0⟩) ∧
      (selects busy 1 2 .bulk ∧ (busy.hands[1]).bulk = none ∧ (busy.queues[1]).bulk = []) := by
  refine ⟨⟨by decide +kernel, by decide +kernel, busy_place⟩, by decide,
    ⟨by decide +kernel, by decide +kernel, fun k => by cases k <;> exact ⟨rfl, rfl⟩⟩,
    ⟨Or.inl rfl, rfl, busy_desc 1⟩, ⟨Or.inr ⟨rfl, Or.inr (by decide), fun j => ?_⟩, rfl, rfl, busy_desc 0⟩,
    Or.inl rfl, rfl, rfl⟩
  cases j <;> exact fun h => absurd h (by decide)

theorem busy_ready_1 : busy.ready 1 := by decide +kernel

/-- ACK and NACK: the first refused class; another tag; the tag in hand; the limit passed, and just met; a held table that
applies and one that stays HELD; a CLOSING caller that holds nothing more, and one that does. -/
theorem witness_ack_nack :
    (busy.ready 1 ∧ busy.joined 1 ∧ PlaceLaw busy) ∧ 2 < (3 : Byte).toNat ∧ classCode .standard = 1 ∧
      (busy.hands[1]).express = none ∧ (busy.hands[1]).standard = some 1 ∧
      busy.descs[(1 : DescId)] = .inHand handLetter ⟨2, 0⟩ ∧ (3 : Half) ≠ 2 ∧ busy.slot = none ∧
      busy.table.redelivery.get .standard < handLetter.redeliveries + 1 ∧
      (let s := { busy with table := { Table.default with redelivery := .all 4 } }
       s.ready 1 ∧ PlaceLaw s ∧ handLetter.redeliveries + 1 ≤ s.table.redelivery.get .standard) ∧
      (∀ x ∈ [narrow, tight], (holding x).ready 1 ∧ (holding x).joined 1 ∧ PlaceLaw (holding x)) ∧
      ((holding narrow).fits narrow = false ∧ (holding narrow).appliesTo (after (.ack 1 1 2) (holding narrow)) = true ∧
        (holding tight).appliesTo (after (.ack 1 1 2) (holding tight)) = false ∧
        (holding narrow).appliesTo (after (.nack 1 1 2) (holding narrow)) = true ∧
        (holding tight).appliesTo (after (.nack 1 1 2) (holding tight)) = false) ∧
      (let s := inState { solo with table := scant, slot := some ⟨narrow, 4⟩, inUse := #v[2, 0, 1, 0] } 1 .closing
       s.ready 1 ∧ s.joined 1 ∧ PlaceLaw s ∧ (s.hands[1]).standard = some 0 ∧
        s.descs[(0 : DescId)] = .inHand handLetter ⟨2, 0⟩ ∧ s.leaverAt (after (.ack 1 1 2) s) 1 = some 1 ∧
        s.leaverAt (after (.nack 1 1 2) s) 1 = some 1 ∧ s.appliesTo (after (.nack 1 1 2) s) = true) ∧
      (let s := inState busy 1 .closing
       s.ready 1 ∧ s.joined 1 ∧ PlaceLaw s ∧ s.leaverAt (after (.ack 1 1 2) s) 1 = none) := by
  refine ⟨⟨by decide +kernel, by decide +kernel, busy_place⟩, by decide, rfl, rfl, rfl, busy_desc 1, by decide, rfl,
    by decide, ⟨by decide +kernel, busy_place, by decide⟩, fun x _ => ⟨busy_ready_1, busy_joined 1, busy_place⟩,
    by decide +kernel, ⟨by decide +kernel, by decide +kernel, place_of_same solo_place rfl rfl rfl rfl, rfl, solo_desc 0,
      by decide +kernel, by decide +kernel, by decide +kernel⟩, by decide +kernel, by decide +kernel, busy_place,
    by decide +kernel⟩

theorem busy_ready_0 : busy.ready 0 := by decide +kernel

/-- A queued message, one in hand, and a tag that no message of the caller carries; a held table that applies and one that
stays HELD; a CLOSING destination that holds nothing more, in the middle of a NOTICES response. -/
theorem witness_recall :
    (busy.ready 0 ∧ busy.joined 0 ∧ PlaceLaw busy ∧ TagLaw busy) ∧ 2 < (3 : Byte).toNat ∧ 3 < (4 : Byte).toNat ∧
      (0 : Byte).toNat = (0 : Agent).val ∧
      (busy.descs[(0 : DescId)] = .queued queuedLetter ⟨1, 0⟩ ∧ queuedLetter.source = 0 ∧ queuedLetter.dest ≠ 0 ∧
        queuedLetter.dest.val = (1 : Byte).toNat ∧ classCode queuedLetter.cls = 0) ∧
      (busy.descs[(1 : DescId)] = .inHand handLetter ⟨2, 0⟩ ∧ handLetter.source = 0 ∧ handLetter.dest = 1 ∧
        ∀ (x : DescId) m adm, busy.descs[x] = .queued m adm → m.source = 0 → m.dest = 1 → m.cls = .standard →
          adm.tag ≠ 2) ∧
      (∀ (x : DescId) m adm, busy.descs[x] = .queued m adm → m.source = 0 → m.dest = 1 → m.cls = .express →
          adm.tag ≠ 9) ∧
      (∀ (x : DescId) m adm, busy.descs[x] = .inHand m adm → m.source = 0 → m.dest = 1 → m.cls = .express →
          adm.tag ≠ 9) ∧
      busy.slot = none ∧
      (∀ x ∈ [narrow, tight], (holding x).ready 0 ∧ (holding x).joined 0 ∧ PlaceLaw (holding x) ∧ TagLaw (holding x)) ∧
      ((holding narrow).appliesTo (after (.recallMessage 0 1 0 1) (holding narrow)) = true ∧
        (holding tight).appliesTo (after (.recallMessage 0 1 0 1) (holding tight)) = false) ∧
      (let s := framed { lone with members := #v[present, ⟨.closing, 16, 16, 0⟩, present, present] } 1
         { replying codeNotices [0x01] 0 with phase := .response, bitPos := 7 }
       s.ready 0 ∧ s.joined 0 ∧ PlaceLaw s ∧ TagLaw s ∧ s.descs[(0 : DescId)] = .queued queuedLetter ⟨1, 0⟩ ∧
        s.leaverAt (after (.recallMessage 0 1 0 1) s) 1 = some 1 ∧ (s.frames[1]).opcode = some 0x31 ∧
        (s.frames[1]).phase = .response) := by
  refine ⟨⟨by decide +kernel, by decide +kernel, busy_place, busy_tag⟩, by decide, by decide, rfl,
    ⟨busy_desc 0, rfl, by decide, rfl, rfl⟩, ⟨busy_desc 1, rfl, rfl, ?_⟩, ?_, ?_, rfl,
    fun x _ => ⟨busy_ready_0, busy_joined 0, busy_place, tag_of_same busy_tag rfl rfl⟩, by decide +kernel,
    by decide +kernel, by decide +kernel,
    place_of_same lone_place rfl rfl rfl rfl, tag_of_same lone_tag rfl rfl, lone_desc 0, by decide +kernel, rfl, rfl⟩
  · intro x m adm e
    rw [busy_desc] at e
    split_ifs at e
    cases e
    decide
  · intro x m adm e
    rw [busy_desc] at e
    split_ifs at e
    cases e
    decide
  · intro x m adm e
    rw [busy_desc] at e
    split_ifs at e
    cases e
    decide

/-! ## Hypotheses that can be met: credit and notices -/

/-- No table held, and one with a smaller pool, cap and size. -/
theorem witness_headroom :
    pressed.slot = none ∧
      (let h : HeldTable := ⟨{ Table.default with
        reserved := #v[.all 16, ⟨16, 8, 16⟩, .all 16, .all 16], cap := #v[96, 80, 96, 96] }, 1⟩
       ({ pressed with slot := some h }).slot = some h) := by decide +kernel

theorem witness_watch :
    ((clearing 0).receiving 1 ∧ (clearing 0).starting = true) ∧
      (fresh.receiving 1 ∧ fresh.starting = false ∧ fresh.portIs 1 .offline) ∧
      ((inState live 1 .fenced).receiving 1 ∧ (inState live 1 .fenced).portIs 1 .fenced) ∧
      (live.receiving 1 ∧ live.starting = false ∧ live.joined 1) ∧ 2 < (3 : Byte).toNat ∧ 8 < (9 : Byte).toNat ∧
      (8 : Byte).toNat ≤ 8 ∧ classCode .bulk = 2 ∧ (8 : Byte).toNat ≤ live.creditLevel 1 .bulk ∧
      (pressed.receiving 1 ∧ pressed.creditLevel 1 .standard < (7 : Byte).toNat ∧
        (6 : Byte).toNat ≤ pressed.creditLevel 1 .standard) := by decide +kernel

theorem witness_watch_fire :
    (live.quiet ∧ (live.watches[1]).standard = none) ∧
      (let s := { pressed with watches := pressed.watches.set 1 ⟨none, some 6, none⟩ }
       s.quiet ∧ (s.watches[1]).standard = some 6 ∧ 6 ≤ s.creditLevel 1 .standard) ∧
      (let s := { pressed with watches := pressed.watches.set 1 ⟨none, some 7, none⟩ }
       s.quiet ∧ (s.watches[1]).standard = some 7 ∧ s.creditLevel 1 .standard < 7) := by decide +kernel

/-- The four tests of R144, at 14 and at 15 records. -/
theorem witness_offer :
    fresh.portIs 0 .offline ∧ (inState fresh 0 .fenced).portIs 0 .fenced ∧ live.joined 0 ∧
      (let s := live.setNotices 0 [.rejoined, .overrun 255]
       s.joined 0 ∧ s.notices[0] = [.rejoined] ++ [.overrun 255] ∧ s.latches[0] = none ∧
        (s.setLatch 0 (some ⟨255, 0⟩)).latches[0] = some ⟨255, 0⟩) ∧
      (let q := List.replicate 14 Notice.rejoined
       let s := live.setNotices 0 q
       s.joined 0 ∧ (s.notices[0]).length < 15 ∧ endsInOverrun q = false) ∧
      (let q := List.replicate 15 Notice.rejoined
       let s := live.setNotices 0 q
       s.joined 0 ∧ 15 ≤ (s.notices[0]).length ∧ endsInOverrun q = false) := by decide +kernel

theorem witness_notices :
    live.ready 0 ∧ live.joined 0 ∧ 16 < (17 : Byte).toNat ∧ (16 : Byte) ≠ 0 ∧ (16 : Byte).toNat ≤ 16 ∧
      (1 : Byte).toNat ≤ 16 := by decide +kernel

/-- A record removed without a latch, with one and nothing since, and with one and an offer since; the latch ahead of the
OVERRUN record, at its first bit, past its first bit and past its first byte. -/
theorem witness_readout :
    (live.quiet ∧ live.answering 0 = false) ∧
      (let s := framed (live.place 0 .rejoined) 0 (replying codeNotices [0x00] 1)
       s.quiet ∧ s.answering 0 = true ∧ (s.frames[0]).recordsLeft = 0 + 1 ∧ s.latches[0] = none) ∧
      (let s := framed ((live.place 0 (.overrun 5)).setLatch 0 (some ⟨5, 0⟩)) 0 (replying codeNotices [0x00] 1)
       s.quiet ∧ s.answering 0 = true ∧ s.latches[0] = some ⟨5, 0⟩) ∧
      (let s := framed ((live.place 0 (.overrun 5)).setLatch 0 (some ⟨5, 1⟩)) 0 (replying codeNotices [0x00] 1)
       s.quiet ∧ s.answering 0 = true ∧ s.latches[0] = some ⟨5, 1⟩ ∧ s.notices[0] = [.overrun 5]) ∧
      (let s := framed (live.place 0 (.overrun 5)) 0 (replying codeNotices (0x01 :: List.replicate 6 0) 1)
       s.quiet ∧ s.answering 0 = true ∧ (s.frames[0]).recordsLeft = 1 ∧ s.latches[0] = none ∧
        s.notices[0] = .overrun 5 :: [] ∧ 6 < (s.frames[0]).out.length) ∧
      (let s := framed (live.place 0 (.overrun 5)) 0 (replying codeNotices (List.replicate 6 0) 1)
       s.quiet ∧ s.answering 0 = true ∧ (s.frames[0]).recordsLeft = 1 ∧ s.latches[0] = none ∧
        s.notices[0] = .overrun 5 :: [] ∧ (s.frames[0]).out.length = 6 ∧ (s.frames[0]).bitPos = 0) ∧
      (let s := framed (live.place 0 (.overrun 5)) 0 { replying codeNotices (List.replicate 6 0) 1 with bitPos := 1 }
       s.quiet ∧ (s.frames[0]).out.length = 6 ∧ (s.frames[0]).bitPos ≠ 0) ∧
      ((framed live 0 (replying codeNotices (List.replicate 5 0) 1)).frames[0]).out.length < 6 := by decide +kernel

/-- JOIN from FENCED, a rejoin, SUMMARY, a fencing, and SDO with RSTN low, in REQUEST, in a response, past its end and after
an abort in the middle of a byte. -/
theorem witness_pins :
    ((inState live 0 .fenced).ready 0 ∧ ¬(inState live 0 .fenced).portIs 0 .offline ∧ 16 ≤ (16 : Half).toNat ∧
        (16 : Half).toNat ≤ 4095) ∧
      (busy.ready 1 ∧ busy.joined 1 ∧ busy.notices[1] = []) ∧
      (let s := busy.setMember 1 ⟨.closing, 16, 0, 0⟩
       s.joined 1 ∧ (s.members[1]).leaseLeft = 0) ∧
      (State.reset.rstnLow = true ∧ (State.reset.frames[0]).csnLow = false) ∧
      (busy.rstnLow = false ∧ (busy.frames[1]).csnLow = true ∧ (busy.frames[1]).phase = .request) ∧
      (let s := framed live 1 (replying codeSummary [0x5A, 0x01] 0)
       (s.frames[1]).phase = .turnaround ∧ (s.frames[1]).out = 0x5A :: [0x01]) ∧
      ((framed live 1 (replying codeSummary [] 0)).frames[1]).out = [] ∧
      (let s := framed live 1 { replying codePost [0x5A, 0x0A] 0 with bitPos := 3, skipping := true }
       (s.frames[1]).phase = .turnaround ∧ (s.frames[1]).skipping = true ∧ s.sdo 1 = some 0x00) := by decide +kernel

/-- R178: SDO is at high impedance while RSTN is low with CSN low. -/
theorem test_sdo_in_reset : (after .deviceReset busy).sdo 0 = none ∧ ((after .deviceReset busy).frames[0]).csnLow = true := by
  decide +kernel

/-- R156: the table of events. -/
theorem test_attention :
    (after (.join 0 16) (inState live 0 .fenced)).attentionLow 0 = true ∧ busy.attentionLow 1 = true ∧
      (after (.summary 1) busy).attentionLow 1 = false ∧ (after (.join 0 16) fresh).attentionLow 0 = false := by
  decide +kernel

theorem witness_summary : busy.ready 1 ∧ busy.joined 1 := by decide +kernel

/-! ## Hypotheses that can be met: the table and consent -/

theorem witness_readcfg :
    (live.ready 0 ∧ live.portIs 0 .active ∧ live.slot = none) ∧
      (let s := { busy with slot := some ⟨tight, 9⟩ }
       s.ready 0 ∧ s.portIs 0 .active ∧ s.slot = some ⟨tight, 9⟩) ∧ 1 < (2 : Byte).toNat := by decide +kernel

/-- An invalid image, a busy engine, a round that opens, and one that commits at once, fitting and not; a watch that its
commit fires. -/
theorem witness_propose :
    (live.ready 0 ∧ live.portIs 0 .active ∧ (List.replicate 38 (0 : Byte)).length = 38 ∧
        (tableOfImage (List.replicate 38 0)).valid = false) ∧
      (tight.image.length = 38 ∧ (tableOfImage tight.image).valid = true) ∧
      ({ Table.default with reserved := #v[.all 64, .all 53, .all 0, .all 0], window := 10 }).valid = true ∧
      ({ Table.default with reserved := #v[.all 64, ⟨54, 54, 53⟩, .all 0, .all 0] }).valid = false ∧
      ({ Table.default with window := 9 }).valid = false ∧
      (let s := { busy with voting := some round }
       s.ready 0 ∧ s.portIs 0 .active ∧ s.voting ≠ none) ∧
      (busy.ready 0 ∧ busy.voting = none ∧ (1 : Agent) ≠ 0 ∧ (busy.members[1]).state = .active) ∧
      (let s := inState (inState (inState busy 1 .closing) 2 .closing) 3 .closing
       s.ready 0 ∧ s.portIs 0 .active ∧ s.voting = none ∧
        (∀ b : Agent, (b ≠ 0 && (s.members[b]).state = .active) = false) ∧ s.fits (tableOfImage tight.image) = false ∧
        s.fits (tableOfImage Table.default.image) = true) ∧
      (let s := watching { inState (inState (inState busy 1 .closing) 2 .closing) 3 .closing with table := scant } 3 3
       s.ready 0 ∧ s.portIs 0 .active ∧ s.voting = none ∧
        s.credits (after (.propose 0 Table.default.image) s) 3 = [.credit .express 96]) := by decide +kernel

/-- A stale number; an agent not required; a first and a second consent; one that completes the set, fitting and not, with a
watch that fires and one that does not. -/
theorem witness_consent :
    (live.ready 0 ∧ live.portIs 0 .active ∧ live.voting = none) ∧
      (let s := { busy with voting := some round }
       s.ready 1 ∧ s.portIs 1 .active ∧ s.voting = some round ∧ round.number = 7 ∧ round.required[0] = false ∧
        s.ready 0 ∧ round.required[1] = true ∧ round.consented[1] = false ∧
        round.consented.set 1 true = round.required ∧ s.fits round.table = true) ∧
      (let v := { round with table := tight, required := #v[true, true, false, false] }
       let s := { busy with voting := some v }
       s.ready 1 ∧ s.voting = some v ∧ v.consented.set 1 true ≠ v.required ∧ s.fits v.table = false) ∧
      (let v := { round with consented := #v[false, true, false, false] }
       let s := { busy with voting := some v }
       s.ready 1 ∧ s.voting = some v ∧ v.required[1] = true ∧ v.consented[1] = true) ∧
      (∀ a : Agent, busy.watches[a] = .all none) ∧
      (let s := watching { busy with voting := some round, table := scant } 3 3
       s.ready 1 ∧ s.portIs 1 .active ∧ s.voting = some round ∧ s.fits round.table = true ∧
        s.credits (after (.consent 1 7) s) 3 = [.credit .express 96]) ∧
      (let v := { round with table := tight }
       let s := watching { busy with voting := some v } 3 97
       s.ready 1 ∧ s.voting = some v ∧ v.consented.set 1 true = v.required ∧ s.fits v.table = false ∧
        s.credits (after (.consent 1 7) s) 3 = []) := by decide +kernel

theorem witness_veto :
    (live.ready 0 ∧ live.portIs 0 .active ∧ live.voting = none) ∧
      (let s := { busy with voting := some round }
       s.ready 1 ∧ s.ready 3 ∧ s.ready 0 ∧ s.portIs 1 .active ∧ s.portIs 3 .active ∧ s.portIs 0 .active ∧
        s.voting = some round ∧ round.number = 7 ∧ round.required[1] = true ∧ round.required[3] = false ∧
        round.proposer = 3 ∧ round.required[0] = false ∧ round.proposer ≠ 0) := by decide +kernel

/-- The held table fits at exactly the counts it meets, and not one below; a watch that the apply fires, and one that it does
not. -/
theorem witness_held_table :
    (busy.quiet ∧ busy.slot = none) ∧
      (let h : HeldTable := ⟨{ Table.default with cap := #v[1, 96, 2, 96], descLimit := #v[2, 32, 1, 32] }, 4⟩
       let s := { busy with slot := some h }
       s.quiet ∧ s.slot = some h ∧ s.fits h.table = true ∧ ∀ a : Agent, s.watches[a] = .all none) ∧
      (let s := { watching (holding .default) 3 3 with table := scant }
       s.quiet ∧ s.fits .default = true ∧ s.creditLevel 3 .express < 3 ∧
        s.credits (after .applyHeld s) 3 = [.credit .express 96]) ∧
      (let s := watching (holding .default) 3 97
       s.quiet ∧ s.fits .default = true ∧ s.credits (after .applyHeld s) 3 = []) ∧
      (let s := { busy with slot := some ⟨tight, 4⟩ }
       s.quiet ∧ s.slot = some ⟨tight, 4⟩ ∧ s.fits tight = false) := by decide +kernel

theorem witness_lapse :
    live.voting = none ∧ ({ live with voting := some round }).voting = some round ∧ round.window ≠ 0 ∧
      ({ round with window := 0 }).window = 0 := by decide +kernel

/-! ## Hypotheses that can be met: time -/

theorem witness_age_tick :
    (State.reset.quiet ∧ State.reset.rstnLow = true) ∧ (busy.quiet ∧ busy.rstnLow = false ∧ busy.joined 1) ∧
      (fresh.quiet ∧ ¬fresh.joined 1 ∧ fresh.voting = none) ∧
      (let s := { busy with voting := some { round with window := 1 }, ticks := 0xFFFFFFFF }
       s.quiet ∧ s.rstnLow = false ∧ s.voting = some { round with window := 1 }) := by decide +kernel

/-- The message at its lifetime, the only one that expires, and one tick younger. -/
theorem witness_expiry :
    (PlaceLaw busy ∧ busy.passDue = none) ∧
      (let s := { busy with ticks := 50, passDue := some Table.default.lifetime }
       PlaceLaw s ∧ s.passDue = some Table.default.lifetime ∧
        s.descs[(0 : DescId)] = .queued queuedLetter ⟨1, 0⟩ ∧
        Table.default.lifetime.get .express ≤ (s.ticks - 0).toNat ∧ s.slot = none ∧
        (∀ (e : DescId) m' adm', s.descs[e] = .queued m' adm' → e = 0) ∧
        (after .expiryPass s).members = s.members) ∧
      (let s := { busy with ticks := 49, passDue := some Table.default.lifetime }
       ¬Table.default.lifetime.get .express ≤ (s.ticks - 0).toNat) := by
  refine ⟨⟨busy_place, rfl⟩, ⟨busy_place, rfl, busy_desc 0, by decide, rfl, fun e m' adm' h => ?_, by decide +kernel⟩,
    by decide⟩
  rw [show busy.descs[e] = _ from busy_desc e] at h
  split_ifs at h
  assumption

/-- An agent with messages destined to it, one with a staging, one with a lease left, an absent one, one that holds
nothing, and one with a single message destined to it. -/
theorem witness_fencing :
    (PlaceLaw busy ∧ (busy.members[1]).leaseLeft ≠ 0 ∧ ¬(inState busy 1 .fenced).joined 1) ∧
      (let s := busy.setMember 1 ⟨.active, 16, 0, 0⟩
       PlaceLaw s ∧ s.joined 1 ∧ (s.members[1]).leaseLeft = 0 ∧ s.stagings[1] = none ∧
        (s.frames[1]).phase = .request ∧ s.admitted 0 = some (queuedLetter, ⟨1, 0⟩) ∧ queuedLetter.dest = 1) ∧
      (let s := busy.setMember 2 ⟨.active, 16, 0, 0⟩
       PlaceLaw s ∧ s.joined 2 ∧ (s.members[2]).leaseLeft = 0 ∧ s.stagings[2] = some stagedContext ∧
        s.descs[(2 : DescId)] = .staging stagedLetter ∧ stagedLetter.source = 2) ∧
      (let s := framed (busy.setMember 3 ⟨.closing, 16, 0, 0⟩) 3 (replying codeFetch [0x5A, 0x02] 0)
       PlaceLaw s ∧ s.joined 3 ∧ (s.members[3]).leaseLeft = 0 ∧ s.stagings[3] = none ∧
        (s.frames[3]).phase = .turnaround ∧ s.slot = none ∧ s.voting = none ∧ s.holdsNothing 3 = true ∧
        (s.frames[3]).bitPos = 0) ∧
      (let s := framed (busy.setMember 3 ⟨.closing, 16, 0, 0⟩) 3
         { replying codeFetch [0x02] 0 with phase := .response, bitPos := 1 }
       PlaceLaw s ∧ (s.frames[3]).phase = .response ∧ 0 < (s.frames[3]).bitPos ∧ (s.frames[3]).skipping = false ∧
        (s.frames[3]).out = 0x02 :: []) ∧
      (PlaceLaw lone ∧ lone.joined 1 ∧ (lone.members[1]).leaseLeft = 0 ∧ lone.slot = none ∧ lone.voting = none ∧
        lone.stagings[1] = none ∧ lone.admitted 0 = some (queuedLetter, ⟨1, 0⟩) ∧ queuedLetter.dest = 1 ∧
        queuedLetter.source ≠ 1 ∧
        ∀ e m' adm', lone.admitted e = some (m', adm') → m'.dest = 1 → e = 0) := by
  refine ⟨⟨busy_place, by decide, by decide⟩,
    ⟨busy_place, by decide, rfl, rfl, rfl, by decide +kernel, rfl⟩,
    ⟨busy_place, by decide, rfl, rfl, busy_desc 2, rfl⟩,
    ⟨busy_place, by decide, rfl, rfl, rfl, rfl, rfl, by decide +kernel, rfl⟩,
    ⟨busy_place, by decide +kernel⟩,
    lone_place, by decide, rfl, rfl, rfl, rfl, by decide +kernel, rfl, by decide, fun e m' adm' h _ => ?_⟩
  unfold State.admitted at h
  rw [lone_desc] at h
  by_cases he : e = 0
  · exact he
  · rw [if_neg he] at h
    cases h

/-- R96: a release with the engine IDLE and nothing waiting; two messages that expire in one pass; a CLOSING agent whose last
message the pass releases, with a held table that applies; and a held table that does not. -/
theorem witness_expiry_order :
    (let s := { lone with ticks := 50, passDue := some Table.default.lifetime }
     PlaceLaw s ∧ s.engine = .idle ∧ s.scrubQueue = [] ∧ queuedLetter.cells = 0 :: [] ∧ s.slot = none ∧
      (after .expiryPass s).engine = .clearing 0 ∧ (after .expiryPass s).clearLeft = 32) ∧
      (let s := { lone with
         ticks := 50, passDue := some Table.default.lifetime
         descs := lone.descs.set 1 (.queued { queuedLetter with source := 2, cells := [1] } ⟨9, 0⟩)
         queues := #v[.all [], ⟨[1, 0], [], []⟩, .all [], .all []] }
       (after .expiryPass s).scrubQueue = [1, 0] ∧ (after .expiryPass s).notices[2] = [.expired 1 .express 9] ∧
        (after .expiryPass s).members = s.members) ∧
      (let s := { lone with
         ticks := 50, passDue := some Table.default.lifetime, members := #v[present, ⟨.closing, 16, 16, 0⟩, present, present]
         inUse := #v[2, 0, 0, 0], slot := some ⟨narrow, 4⟩ }
       PlaceLaw s ∧ HeldLaw s ∧ s.leaverAt (after .expiryPass s) 1 = some 1 ∧
        s.descs[(0 : DescId)] = .queued queuedLetter ⟨1, 0⟩ ∧ queuedLetter.dest = 1 ∧
        s.appliesTo (after .expiryPass s) = true) ∧
      (let s := { holding tight with ticks := 50, passDue := some Table.default.lifetime }
       PlaceLaw s ∧ HeldLaw s ∧ s.appliesTo (after .expiryPass s) = false ∧
        s.leaverAt (after .expiryPass s) 1 = none) := by
  refine ⟨⟨place_of_same lone_place rfl rfl rfl rfl, by decide +kernel⟩, by decide +kernel,
    ⟨place_of_same lone_place rfl rfl rfl rfl, fun h e => ?_, by decide +kernel, lone_desc 0, rfl, by decide +kernel⟩,
    busy_place, fun h e => ?_, by decide +kernel, by decide +kernel⟩
  · cases e; decide +kernel
  · cases e; decide +kernel

/-- The fenced agent as proposer of an OPEN round; as its last unconsented member, with a table that fits and one that does
not; as one of two members; and held tables that the releases apply, with and without a commit, and leave HELD. -/
theorem witness_fencing_in_a_round :
    (let s := { lone with voting := some { round with proposer := 1, required := #v[true, false, false, false] } }
     PlaceLaw s ∧ s.slot = none ∧ s.commitsAt 1 = none ∧ s.withdrawnTo 1 0 = [.proposalClosed none 7 .withdrawn]) ∧
      (let s := watching { lone with voting := some round, table := scant } 3 3
       PlaceLaw s ∧ s.slot = none ∧ s.commitsAt 1 = some (round.without 1) ∧
        (after (.fencing 1) s).fits round.table = true ∧
        (after (.fencing 1) s).notices[3] =
          [.proposalClosed none 7 .committed, .configApplied 1, .credit .express 96, .peerFenced 1]) ∧
      (let v := { round with table := { Table.default with descLimit := #v[32, 32, 0, 32] } }
       let s := { lone with voting := some v, inUse := #v[1, 0, 1, 0] }
       PlaceLaw s ∧ s.slot = none ∧ s.commitsAt 1 = some (v.without 1) ∧
        (after (.fencing 1) s).fits v.table = false) ∧
      (let s := { lone with voting := some { round with required := #v[true, true, false, false] } }
       PlaceLaw s ∧ s.commitsAt 1 = none ∧ s.withdrawnTo 1 0 = []) ∧
      (let s := (holding narrow).setMember 1 ⟨.active, 16, 0, 0⟩
       PlaceLaw s ∧ s.joined 1 ∧ HeldLaw s ∧ s.commitsAt 1 = none ∧ s.appliesTo (after (.fencing 1) s) = true) ∧
      (let s := (holding tight).setMember 1 ⟨.active, 16, 0, 0⟩
       PlaceLaw s ∧ s.joined 1 ∧ HeldLaw s ∧ s.commitsAt 1 = none ∧ s.appliesTo (after (.fencing 1) s) = false) ∧
      (let s := { (holding narrow).setMember 1 ⟨.active, 16, 0, 0⟩ with voting := some round }
       PlaceLaw s ∧ s.joined 1 ∧ s.commitsAt 1 = some (round.without 1) ∧
        (after (.fencing 1) s).table = .default ∧ (after (.fencing 1) s).epoch = 2) := by
  have hl : ∀ s : State, s.descs = lone.descs → s.queues = lone.queues → s.hands = lone.hands →
      s.stagings = lone.stagings → PlaceLaw s := fun s h1 h2 h3 h4 => place_of_same lone_place h1 h2 h3 h4
  refine ⟨⟨hl _ rfl rfl rfl rfl, by decide +kernel⟩, ⟨hl _ rfl rfl rfl rfl, by decide +kernel⟩,
    ⟨hl _ rfl rfl rfl rfl, by decide +kernel⟩, ⟨hl _ rfl rfl rfl rfl, by decide +kernel⟩,
    ⟨busy_place, by decide, fun h e => ?_, by decide +kernel⟩, ⟨busy_place, by decide, fun h e => ?_, by decide +kernel⟩,
    busy_place, by decide +kernel⟩
  · cases e; decide +kernel
  · cases e; decide +kernel

/-- The notices and the discard count of R138 and R41. -/
theorem test_fencing_tells :
    (after (.fencing 1) lone).notices[0] = [.discarded 1 .express 1, .peerFenced 1] ∧
      (after (.fencing 1) (busy.setMember 1 ⟨.active, 16, 0, 0⟩)).members[1] = ⟨.fenced, 16, 0, 2⟩ := by decide +kernel

/-- Both kinds of charge; a queue that empties and one that does not; a watch at the level the scrub returns to and one above
it; a held table that fits then, with a watch that its apply fires, and one that does not. -/
theorem witness_scrub :
    (live.quiet ∧ ∀ c, live.engine ≠ .clearing c) ∧
      (busy.quiet ∧ busy.engine = .clearing 3 ∧ busy.scrubQueue = 3 :: [] ∧
        busy.cellMap[(3 : CellId)] = .scrub (.reserved 0 .express) ∧ busy.slot = none ∧
        ∀ a : Agent, busy.watches[a] = .all none) ∧
      (let s := (busy.setCell 3 (.scrub (.common 0))).setCell 4 (.scrub (.common 2))
       let s1 := { s with scrubQueue := [3, 4] }
       s1.quiet ∧ s1.engine = .clearing 3 ∧ s1.scrubQueue = 3 :: [4] ∧ s1.cellMap[(3 : CellId)] = .scrub (.common 0)) ∧
      (let s := watching { busy with table := { Table.default with cap := #v[1, 96, 96, 96] } } 0 16
       s.quiet ∧ s.engine = .clearing 3 ∧ s.creditLevel 0 .express < 16 ∧
        s.credits (after .scrubCompletion s) 0 = [.credit .express 16]) ∧
      (let s := watching { busy with table := { Table.default with cap := #v[1, 96, 96, 96] } } 0 17
       s.credits (after .scrubCompletion s) 0 = []) ∧
      (let x := { Table.default with reserved := #v[⟨0, 16, 16⟩, .all 16, .all 16, .all 16] }
       let s := watching { holding x with table := scant } 3 3
       s.quiet ∧ s.fits x = false ∧ s.appliesTo (after .scrubCompletion s) = true ∧
        s.credits (after .scrubCompletion s) 3 = [.credit .express 96]) ∧
      (holding tight).appliesTo (after .scrubCompletion (holding tight)) = false := by
  refine ⟨⟨by decide +kernel, fun c e => by cases e⟩, ⟨by decide +kernel, rfl, rfl, busy_bound 3, rfl, by decide⟩,
    by decide +kernel, by decide +kernel, by decide +kernel, by decide +kernel, by decide +kernel⟩

theorem witness_only_ticks :
    exec (.ident 0) busy = .next (after (.ident 0) busy) ∧ Instr.ident 0 ≠ .ageTick ∧ Instr.ident 0 ≠ .deviceReset ∧
      Instr.ident 0 ≠ .renew 0 := ⟨rfl, by decide, by decide, by decide⟩

/-! ## Hypotheses that can be met: wire formats and laws -/

theorem witness_requests :
    requestBytes (.recallMessage 3 1 2 0xFFFF) = some (3, [0x24, 1, 2, 0xFF, 0xFF]) ∧
      (Instr.recallMessage 3 1 2 0xFFFF).wellFormed = true := by decide

theorem witness_image : tight.valid = true ∧ tight.image.length = 38 ∧ (tableOfImage tight.image).valid = true := by
  decide +kernel

/-- Every law holds of `busy`, which holds messages in three places and a cell being scrubbed, and a step answers; the last two
hold with a table held and a watch armed. -/
theorem witness_laws :
    busy.safe ∧
      step { busy with pending := [.scrubCompletion] } = .next (after .scrubCompletion { busy with pending := [] }) ∧
      (let s := { watching (holding tight) 1 97 with pending := [.scrubCompletion] }
       HeldLaw s ∧ WatchLaw s ∧ step s = .next (after .scrubCompletion { s with pending := [] })) :=
  ⟨⟨busy_part, busy_memory, (fun v e => by cases e), busy_notices.1, busy_notices.2, busy_tag, busy_free,
    busy_watches.1⟩, rfl, busy_watches.2.1, busy_watches.2.2, rfl⟩

/-- R37: the messages of `busy` in the order of their admission, and one that a step admits behind them. -/
theorem witness_admission_order :
    AdmissionOrder busy [0, 1] ∧ PlaceLaw busy ∧
      (let s := { lastByte with pending := [.postLastCheckByte 2 0xB1] }
       AdmissionOrder s [0, 1] ∧ PlaceLaw s ∧ s.descs[(2 : DescId)] = .staging stagedLetter ∧
        step s = .next (after (.postLastCheckByte 2 0xB1) { s with pending := [] })) := by
  have h : AdmissionOrder busy [0, 1] := by
    refine ⟨by decide, fun d => ?_, fun a k => ?_⟩
    · unfold State.admitted
      rw [busy_desc]
      split_ifs <;> simp_all
    · cases k <;> revert a <;> decide +kernel
  have hp : PlaceLaw { lastByte with pending := [.postLastCheckByte 2 0xB1] } := by
    refine ⟨busy_place.1, busy_place.2.1, busy_place.2.2.1, fun p d => (?_ : _ ↔ busy.stagedOn d p = true)⟩
    rw [← busy_place.2.2.2 p d]
    have : ∀ p : Agent, (lastByte.stagings[p]).map StagingContext.desc = (busy.stagings[p]).map StagingContext.desc := by
      decide +kernel
    rw [← this p]
  exact ⟨h, busy_place, h, hp, busy_desc 2, rfl⟩

/-- An OPEN round, a held table and a queue of 16 records beside them. -/
theorem witness_open_round :
    (let s := { busy with voting := some round, slot := some ⟨tight, 1⟩ }
     TableLaw s ∧ RoundLaw s) ∧
      (let s := busy.setNotices 0 (List.replicate 15 .rejoined ++ [.overrun 1])
       NoticeLaw s ∧ AbsenceLaw s) := by
  refine ⟨⟨⟨by decide +kernel, fun h e => ?_, fun v e => ?_⟩, fun v e => ?_⟩, fun a => ?_, fun a => ?_⟩
  · cases e; decide +kernel
  · cases e; decide +kernel
  · cases e; decide +kernel
  · revert a; unfold noticeShape; decide +kernel
  · revert a; decide +kernel

end Sys2Proof.Tests
end

/-! WATCH answers by the table of R19. The watch it names is set by `State.setWatchTo`, whose three outcomes
(DISARMED, ARMED, fired at once) have an equation each; the refusals are the common frame's and `State.watchBy`'s. -/

namespace Sys2Proof.Machine

/-! ## The caller of a WATCH (R122) -/

theorem State.refuseOutsider_offline (s : State) (p : Agent) (h : s.portIs p .offline) :
    s.refuseOutsider p = some .notJoined := by
  unfold State.refuseOutsider
  rw [h]

theorem State.refuseOutsider_fenced (s : State) (p : Agent) (h : s.portIs p .fenced) :
    s.refuseOutsider p = some .fenced := by
  unfold State.refuseOutsider
  rw [h]

theorem exec_watch_of_quiet (s : State) (p : Agent) (cls threshold : Byte) (h : s.quiet) :
    exec (.watch p cls threshold) s = .next (s.answerWatch p cls threshold) := by
  show execWatch p cls threshold s = _
  unfold execWatch
  rw [State.settle_of_quiet s h]

theorem State.answerWatch_joined (s : State) (p : Agent) (cls threshold : Byte) (ho : s.requestOpen p = true)
    (hs : s.starting = false) (hj : s.joined p) : s.answerWatch p cls threshold = s.watchBy p cls threshold := by
  unfold State.answerWatch
  rw [State.refuseOutsider_joined s p hj, State.transact_body s p _ _ _ ho hs]

/-! ## The arguments of a WATCH (R19) -/

theorem State.watchBy_badarg (s : State) (p : Agent) (cls threshold : Byte) (h : 2 < cls.toNat ∨ 8 < threshold.toNat) :
    s.watchBy p cls threshold = s.respond p codeWatch 3 .badarg [] none := by
  unfold State.watchBy
  cases hc : classOfCode cls with
  | none => rfl
  | some k =>
    have hcls : ¬ 2 < cls.toNat := fun e => by simp [(classOfCode_eq_none cls).mpr e] at hc
    exact if_pos (h.resolve_left hcls)

theorem State.watchBy_code (s : State) (p : Agent) (k : MsgClass) (threshold : Byte) (h : threshold.toNat ≤ 8) :
    s.watchBy p (classCode k) threshold =
      (s.setWatchTo p k threshold.toNat).respond p codeWatch 3 .ok (bytes16Of (s.creditLevel p k)) none := by
  unfold State.watchBy
  rw [classOfCode_code]
  exact if_neg (Nat.not_lt.mpr h)

/-! ## The watch set (R19, R20) -/

theorem State.setWatch_get (s : State) (p a : Agent) (k j : MsgClass) (w : Option Nat) :
    ((s.setWatch p k w).watches[a]).get j = if a = p ∧ j = k then w else (s.watches[a]).get j := by
  unfold State.setWatch
  by_cases ha : a = p
  · subst ha
    simp only [vec_get_set, if_true, PerClass.get_set, true_and, eq_comm]
  · simp only [vec_get_set_ne _ _ _ _ (Ne.symm ha), ha, false_and, if_false]

theorem State.setWatch_get_self (s : State) (p : Agent) (k : MsgClass) (w : Option Nat) :
    ((s.setWatch p k w).watches[p]).get k = w :=
  (State.setWatch_get s p p k k w).trans (if_pos ⟨rfl, rfl⟩)

theorem State.setWatch_get_other (s : State) (p a : Agent) (k j : MsgClass) (w : Option Nat) (h : a ≠ p ∨ j ≠ k) :
    ((s.setWatch p k w).watches[a]).get j = (s.watches[a]).get j :=
  (State.setWatch_get s p a k j w).trans (if_neg (not_and_or.mpr h))

/-- An offer reads and writes no watch. -/
theorem State.offer_setWatch (s : State) (p a : Agent) (k : MsgClass) (w : Option Nat) (n : Notice) :
    (s.setWatch p k w).offer a n = (s.offer a n).setWatch p k w := by
  have hi : (s.setWatch p k w).isMember a = s.isMember a := rfl
  unfold State.offer State.foldOffer
  rw [hi, State.setWatch_notices, State.setWatch_latches]
  split_ifs
  · cases s.latches[a] <;> rfl
  all_goals rfl

theorem State.setWatchTo_zero (s : State) (p : Agent) (k : MsgClass) : s.setWatchTo p k 0 = s.setWatch p k none := rfl

/-- R20: a watch armed above the credit level stays ARMED. -/
theorem State.setWatchTo_above (s : State) (p : Agent) (k : MsgClass) (n : Nat) (hn : n ≠ 0) (h : s.creditLevel p k < n) :
    s.setWatchTo p k n = s.setWatch p k (some n) := by
  unfold State.setWatchTo State.testWatch
  rw [if_neg hn, State.setWatch_get_self]
  exact if_neg (Nat.not_le.mpr h)

/-- R20: a watch armed at or below the credit level fires at once. -/
theorem State.setWatchTo_reached (s : State) (p : Agent) (k : MsgClass) (n : Nat) (hn : n ≠ 0)
    (h : n ≤ s.creditLevel p k) :
    s.setWatchTo p k n =
      ((s.offer p (.credit k (s.creditLevel p k))).setWatch p k (some n)).setWatch p k none := by
  unfold State.setWatchTo State.testWatch
  rw [if_neg hn, State.setWatch_get_self, ← State.offer_setWatch s p p k (some n)]
  exact if_pos h

/-- R19: WATCH touches no watch but the one it names. -/
theorem State.setWatchTo_get_other (s : State) (p a : Agent) (k j : MsgClass) (n : Nat) (h : a ≠ p ∨ j ≠ k) :
    ((s.setWatchTo p k n).watches[a]).get j = (s.watches[a]).get j := by
  by_cases hn : n = 0
  · rw [hn, State.setWatchTo_zero, State.setWatch_get_other s p a k j _ h]
  · by_cases hl : n ≤ s.creditLevel p k
    · rw [State.setWatchTo_reached s p k n hn hl, State.setWatch_get_other _ p a k j _ h,
        State.setWatch_get_other _ p a k j _ h]
      simp [-Fin.getElem_fin]
    · rw [State.setWatchTo_above s p k n hn (Nat.not_le.mp hl), State.setWatch_get_other s p a k j _ h]

/-! ## The table of R19 -/

/-- Settles O32: the start-up clear, the caller and the arguments refuse in turn; past them the answer is OK with the
level, and the watch is as the equation of `State.setWatchTo` for its threshold leaves it. -/
theorem watchAnswersByItsTable : Obligations.WatchAnswersByItsTable := by
  intro s p cls threshold ⟨hq, ho⟩
  refine ⟨s.answerWatch p cls threshold, exec_watch_of_quiet s p cls threshold hq, fun hs => ?starting,
    fun hs hp => ?offline, fun hs hp => ?fenced, fun hs hj hbad => ?badarg, fun hs hj h8 k hk => ?accepted⟩
  case starting =>
    unfold State.answerWatch
    rw [State.transact_starting s p _ _ _ _ ho hs]
    exact ⟨respondOnly_answers s s p _ _ _ _ rfl, rfl⟩
  case offline =>
    unfold State.answerWatch
    rw [State.refuseOutsider_offline s p hp, State.transact_refused s p _ _ _ _ ho hs]
    exact ⟨respond_answers s s p _ _ _ _ _ rfl, rfl⟩
  case fenced =>
    unfold State.answerWatch
    rw [State.refuseOutsider_fenced s p hp, State.transact_refused s p _ _ _ _ ho hs]
    exact ⟨respond_answers s s p _ _ _ _ _ rfl, rfl⟩
  case badarg =>
    rw [State.answerWatch_joined s p cls threshold ho hs hj, State.watchBy_badarg s p cls threshold hbad]
    exact ⟨respond_answers s s p _ _ _ _ _ rfl, rfl⟩
  case accepted =>
    subst hk
    have hne (h : threshold ≠ 0) : threshold.toNat ≠ 0 := fun e => h (BitVec.eq_of_toNat_eq e)
    have hframe := State.answerWatch_frame s p (classCode k) threshold
    rw [State.answerWatch_joined s p _ threshold ho hs hj, State.watchBy_code s p k threshold h8] at hframe ⊢
    refine ⟨respond_answers s _ p _ _ _ _ _ (by simp), fun a j h => State.setWatchTo_get_other s p a k j _ h,
      fun h0 => ?disarmed, fun h0 hl => ?armed, fun h0 hl => ?fired, hframe⟩
    case disarmed =>
      subst h0
      exact ⟨State.setWatch_get_self s p k none, rfl, rfl⟩
    case armed =>
      rw [State.setWatchTo_above s p k _ (hne h0) hl]
      exact ⟨State.setWatch_get_self s p k _, rfl, rfl⟩
    case fired =>
      rw [State.setWatchTo_reached s p k _ (hne h0) hl]
      exact ⟨State.setWatch_get_self _ p k none, offer_told s _ p _ (by simp) (by simp)⟩

end Sys2Proof.Machine

/-! IDENT, STATUS and the enumerated codes. The meaning of the two transactions is their equation in a state that
receives a request; what STATUS reports is read off its 26 bytes, laid out with the last-result record's fields in
their places. -/

namespace Sys2Proof.Machine

/-! ## IDENT (R186) -/

theorem exec_ident_of_quiet (s : State) (p : Agent) (h : s.quiet) : exec (.ident p) s = .next (s.answerIdent p) := by
  show execIdent p s = _
  unfold execIdent
  rw [State.settle_of_quiet s h]

/-- R186: neither the start-up clear nor the port state stands in the way of IDENT. -/
theorem State.answerIdent_open (s : State) (p : Agent) (h : s.requestOpen p = true) :
    s.answerIdent p = s.respondOnly p codeIdent 1 .ok (identBytes p) := if_pos h

theorem identBytes_eq (p : Agent) : identBytes p = [0xC4, 0x41, 0x18, 0x01, BitVec.ofNat 8 p.val] := rfl

/-- Settles O12: an open request is answered with the bytes of `identBytes`, and a response alone is the effect. -/
theorem identNamesThePart : Obligations.IdentNamesThePart := by
  intro s p ⟨hq, ho⟩
  refine ⟨s.answerIdent p, exec_ident_of_quiet s p hq, ?_⟩
  rw [State.answerIdent_open s p ho, ← identBytes_eq]
  exact ⟨respondOnly_answers s s p _ _ _ _ rfl, rfl⟩

/-! ## STATUS (R187) -/

theorem exec_status_of_quiet (s : State) (p : Agent) (h : s.quiet) : exec (.status p) s = .next (s.answerStatus p) := by
  show execStatus p s = _
  unfold execStatus
  rw [State.settle_of_quiet s h]

theorem State.answerStatus_starting (s : State) (p : Agent) (h : s.requestOpen p = true) (hs : s.starting = true) :
    s.answerStatus p = s.respondOnly p codeStatus 1 .starting [] :=
  State.transact_starting s p _ _ _ _ h hs

theorem State.answerStatus_started (s : State) (p : Agent) (h : s.requestOpen p = true) (hs : s.starting = false) :
    s.answerStatus p = s.respondOnly p codeStatus 1 .ok (s.statusBytes p) :=
  State.transact_body s p _ _ _ h hs

/-- A field is read off a response at the offset where its two bytes begin. -/
theorem half_getD_of_drop {data rest : List Byte} {i : Nat} {h : Half} (e : data.drop i = bytes16 h ++ rest) :
    half (data.getD i 0) (data.getD (i + 1) 0) = h := by
  have byteAt (j : Nat) : data.getD (i + j) 0 = (bytes16 h ++ rest).getD j 0 := by
    rw [← e, List.getD_eq_getElem?_getD, List.getD_eq_getElem?_getD, List.getElem?_drop]
  rw [← Nat.add_zero i, byteAt 0, Nat.add_zero, byteAt 1]
  exact half_bytes h

/-- R190: an empty last-result record is sent as the record of zeros is. -/
theorem lastResultBytes_eq (o : Option LastResult) :
    lastResultBytes o =
      [o.elim 0 (·.opcode), o.elim 0 (·.result.code)] ++ bytes16 (o.elim 0 (·.tag.getD 0)) := by
  cases o with
  | none => rfl
  | some l => rfl

/-- The response data of STATUS with the fields of the last-result record in their places (R187, R190). -/
theorem State.statusBytes_eq (s : State) (p : Agent) :
    s.statusBytes p =
      (s.members[p]).state.code :: (bytes16Of (s.members[p]).leasePeriod ++ (bytes16Of (s.members[p]).leaseLeft ++
        (bytes16Of (s.members[p]).discards ++ (bytes16Of (s.creditLevel p .express) ++
        (bytes16Of (s.creditLevel p .standard) ++ (bytes16Of (s.creditLevel p .bulk) ++ (byteOf s.inUse[p] ::
        (s.frames[p]).last.elim 0 (·.opcode) :: (s.frames[p]).last.elim 0 (·.result.code) ::
        (bytes16 ((s.frames[p]).last.elim 0 (·.tag.getD 0)) ++ (bytes16 s.epoch ++
        (votingCode s.voting :: s.reportedProposal :: s.standingBits p :: slotCode s.slot ::
        bytes16 (s.ticks.extractLsb' 0 16))))))))))) := by
  unfold State.statusBytes
  rw [lastResultBytes_eq]
  simp only [List.append_assoc, List.cons_append, List.nil_append]

/-- Bits required and consented as the sum of their weights (R190). -/
theorem State.standingBits_open (s : State) (p : Agent) (v : Proposal) (h : s.voting = some v) :
    s.standingBits p = BitVec.ofNat 8 ((if v.required[p] then 1 else 0) + (if v.consented[p] then 2 else 0)) := by
  have hflags : ∀ x y : Bool, ((if x then 1 else 0) ||| (if y then 2 else 0) : Byte) =
      BitVec.ofNat 8 ((if x then 1 else 0) + (if y then 2 else 0)) := by decide
  unfold State.standingBits
  rw [h]
  exact hflags _ _

theorem slotCode_eq (o : Option HeldTable) : slotCode o = if o = none then 0 else 1 := by cases o <;> rfl

/-- Settles O13: the response is an answer that keeps the last-result record; each field of its data is the field's two
bytes at its offset. -/
theorem statusReportsTheCallersStanding : Obligations.StatusReportsTheCallersStanding := by
  intro s p ⟨hq, ho⟩
  have hexec := exec_status_of_quiet s p hq
  refine ⟨fun hs => ?starting, fun hs => ?started⟩
  case starting =>
    rw [State.answerStatus_starting s p ho hs] at hexec
    exact ⟨_, hexec, respondOnly_answers s s p _ _ _ _ rfl, rfl⟩
  case started =>
    rw [State.answerStatus_started s p ho hs] at hexec
    refine ⟨_, s.statusBytes p, hexec, respondOnly_answers s s p _ _ _ _ rfl, rfl, ?data⟩
    rw [State.statusBytes_eq]
    have field := @half_getD_of_drop
    refine ⟨rfl, rfl, field rfl, field rfl, field rfl, field rfl, field rfl, field rfl, rfl,
      fun hl => ?noResult, fun l hl => ?lastResult, field rfl, fun hv => ?idle, fun v hv => ?opened,
      slotCode_eq _, field rfl⟩
    case noResult =>
      rw [hl]
      exact ⟨rfl, rfl, field rfl⟩
    case lastResult =>
      rw [hl]
      exact ⟨rfl, rfl, field rfl⟩
    case idle =>
      unfold State.reportedProposal State.standingBits
      rw [hv]
      exact ⟨rfl, rfl, rfl⟩
    case opened =>
      rw [State.standingBits_open s p v hv]
      unfold State.reportedProposal
      rw [hv]
      exact ⟨rfl, rfl, rfl⟩

/-! ## The enumerated fields (R189) -/

/-- A set of classes is sent as the sum of its classes' weights. -/
theorem classSetCode_eq (x y z : Bool) :
    classSetCode ⟨x, y, z⟩ = BitVec.ofNat 8 ((if x then 1 else 0) + (if y then 2 else 0) + (if z then 4 else 0)) := by
  revert x y z
  decide

/-- Settles O52: each table is the model's own, read entry by entry; the set of classes is its sum of weights. -/
theorem enumeratedFieldsHaveTheirCodes : Obligations.EnumeratedFieldsHaveTheirCodes :=
  ⟨fun _ => rfl, rfl, classSetCode_eq, rfl, fun _ _ => ⟨rfl, rfl⟩, rfl, rfl, rfl, fun _ => ⟨rfl, rfl⟩, rfl⟩

end Sys2Proof.Machine

/-! What one step can do to the blocks, said once: a step is a run of moves, each of them one operation of the model with
the condition under which the part makes it, of departures of an agent, and of at most one admission. A law holds after
every step when it survives each of these. -/

namespace Sys2Proof.Machine

/-! ## Moves, departures and admissions -/

/-- The fields that the laws read are as before: what differs is framing, clocks, latches, numbers and the queue of
commands. -/
structure SameBlocks (s t : State) : Prop where
  mem : t.mem = s.mem
  cellMap : t.cellMap = s.cellMap
  freeList : t.freeList = s.freeList
  scrubQueue : t.scrubQueue = s.scrubQueue
  engine : t.engine = s.engine
  used : t.used = s.used
  watches : t.watches = s.watches
  descs : t.descs = s.descs
  inUse : t.inUse = s.inUse
  nextTag : t.nextTag = s.nextTag
  queues : t.queues = s.queues
  hands : t.hands = s.hands
  stagings : t.stagings = s.stagings
  members : t.members = s.members
  notices : t.notices = s.notices
  snapshots : t.snapshots = s.snapshots
  table : t.table = s.table
  slot : t.slot = s.slot
  voting : t.voting = s.voting

/-- One operation of the part, after which each block is consistent again, with what the part has tested before it. -/
inductive Move (s : State) : State → Prop where
  | framed {t : State} (h : SameBlocks s t) : Move s t
  | offered (a : Agent) (n : Notice) : Move s (s.offer a n)
  | noticesSet (a : Agent) (q : List Notice) (hshape : noticeShape s.notices[a] → noticeShape q)
      (hmember : s.isMember a = true ∨ (s.notices[a] = [] → q = [])) : Move s (s.setNotices a q)
  | snapshotSet (a : Agent) (x : ClassSet) (h : s.isMember a = true ∨ x = .all false) : Move s (s.setSnapshot a x)
  | disarmed (a : Agent) : Move s (s.disarm a)
  | watchSet (a : Agent) (k : MsgClass) (n : Nat) (h : s.isMember a = true) : Move s (s.setWatchTo a k n)
  | watchTested (a : Agent) (k : MsgClass) : Move s (s.testWatch a k)
  | memberKept (a : Agent) (m : Member) (hstate : m.state = (s.members[a]).state)
      (hlease : s.isMember a = true ∨ ((s.members[a]).leaseLeft = 0 → m.leaseLeft = 0)) : Move s (s.setMember a m)
  | activated (a : Agent) (m : Member) (h : m.state = .active) : Move s (s.setMember a m)
  | resumed (a : Agent) (m : Member) (n : Notice) (h : m.state = .active) (habsent : s.isMember a = false) :
      Move s ((s.setMember a m).place a n)
  | fitTest : Move s s.runFitTest
  | drainTested (a : Agent) : Move s (s.drainTest a)
  | releasedAll (ds : List DescId) (path : RemovalPath) (h : PlaceLaw s → ∀ d ∈ ds, ∀ m, s.descs[d] ≠ .staging m) :
      Move s (s.releaseAll ds path)
  | stagingEnded (p : Agent) (c : StagingContext) (h : s.stagings[p] = some c) :
      Move s ((s.release c.desc .unadmitted).setStaging p none)
  | returned (a : Agent) (k : MsgClass) (d : DescId) (m : Message) (adm : Admission)
      (h : s.handMessage a k = some (d, m, adm)) : Move s (s.returnToQueue d m adm)
  | takenIntoHand (a : Agent) (k : MsgClass) (d : DescId) (m : Message) (adm : Admission) (rest : List DescId)
      (hhand : s.handMessage a k = none) (hhead : s.queueHead a k = some (d, m, adm, rest))
      (hmember : s.isMember a = true) : Move s (s.takeIntoHand a k d m adm rest)
  | headerStaged (p : Agent) (dest cls flags : Byte) (len : Nat) (d : DescId) (m : Message)
      (hopen : s.requestOpen p = true) (hstarting : s.starting = false)
      (hjudged : s.judgeHeader p dest cls flags len = .accepted d m) : Move s (s.stage p d m flags)
  | corrByteTaken (p : Agent) (c : StagingContext) (m : Message) (b : Byte) (h : s.loadedStaging p = some (c, m)) :
      Move s (s.takeCorrByte p c m b)
  | payloadByteTaken (p : Agent) (c : StagingContext) (m : Message) (b : Byte) (h : s.loadedStaging p = some (c, m)) :
      Move s (s.takePayloadByte p c m b)
  | checkHighTaken (p : Agent) (c : StagingContext) (m : Message) (b : Byte) (h : s.loadedStaging p = some (c, m)) :
      Move s (s.takeCheckHigh p c b)
  | scrubbed (c : CellId) (h : s.engine = .clearing c) : Move s (s.returnCell c).fitThenWatches.nextScrub
  | startUpCleared (p : CellId) (h : s.engine = .startUp p) : Move s (s.finishStartUp p)
  | proposed (p : Agent) (x : Table) (hactive : s.portIs p .active) (hvalid : x.valid = true) :
      Move s { s with
        voting := some (s.newProposal p x), lastProposal := s.nextProposal
        nextProposal := proposalAfter s.nextProposal }
  | votingChanged (v v' : Proposal) (h : s.voting = some v) (hproposer : v'.proposer = v.proposer)
      (htable : v'.table = v.table) (hrequired : ∀ a : Agent, v'.required[a] = true → v.required[a] = true)
      (hconsented : (∀ a : Agent, v.consented[a] = true → v.required[a] = true) →
        ∀ a : Agent, v'.consented[a] = true → v'.required[a] = true) : Move s { s with voting := some v' }
  | roundEnded (v : Proposal) (o : RoundOutcome) (vetoer : Option Agent) (h : s.voting = some v) :
      Move s (s.endRound v o vetoer)
  | reset (csnLow : Agent → Bool) (pending : List Instr) (choices : Nat) : Move s (.inReset csnLow pending choices)

/-- Moves one after another. -/
abbrev Moves : State → State → Prop := Relation.ReflTransGen Move

/-- From `s` to `t` agent `a` has left ACTIVE and CLOSING: its port state changed first, moves brought the other blocks
behind it, and nothing of it is left (R136, R138, R142, R167). -/
structure Departs (a : Agent) (s t : State) : Prop where
  moves : ∃ m, Moves (s.setMember a m) t
  absent : t.isMember a = false
  notices : t.notices[a] = []
  watches : t.watches[a] = .all none
  snapshot : t.snapshots[a] = .all false
  lease : (t.members[a]).leaseLeft = 0
  others : ∀ b : Agent, b ≠ a → s.portIs b .active → t.portIs b .active
  round : leftRound s t a
  empty : PlaceLaw s → t.holdsNothing a = true

/-- A move, or an agent leaving ACTIVE. -/
inductive Event (s : State) : State → Prop where
  | move {t : State} (h : Move s t) : Event s t
  | closed (a : Agent) (h : s.portIs a .active) :
      Event s ((s.setMember a { s.members[a] with state := .closing }).leaveRound a)
  | departed (a : Agent) {t : State} (h : Departs a s t) : Event s t

/-- Events one after another. -/
abbrev Events : State → State → Prop := Relation.ReflTransGen Event

/-- From `s` to `t` the staging loaded on a port has been admitted to an ACTIVE destination (R63). -/
inductive Admits (s : State) : State → Prop where
  | mk (p : Agent) (c : StagingContext) (m : Message) (hloaded : s.loadedStaging p = some (c, m))
      (hactive : s.portIs m.dest .active) :
      Admits s ((s.admitMessage c.desc m (s.assignTag m.source)).setStaging p none)

/-! ## Building moves -/

theorem moves_single {s t : State} (h : Move s t) : Moves s t := .single h

theorem events_of_moves {s t : State} (h : Moves s t) : Events s t := h.lift id (fun _ _ => .move)

theorem moves_of_blocks {s t : State} (h : SameBlocks s t) : Moves s t := moves_single (.framed h)

theorem sameBlocks_setFrame (s : State) (p : Agent) (f : Framing) : SameBlocks s (s.setFrame p f) := by
  constructor <;> rfl

theorem sameBlocks_setLatch (s : State) (a : Agent) (l : Option OverrunLatch) : SameBlocks s (s.setLatch a l) := by
  constructor <;> rfl

theorem moves_respondOnly (s : State) (p : Agent) (code : Byte) (len : Nat) (r : Result) (data : List Byte) :
    Moves s (s.respondOnly p code len r data) := moves_of_blocks (sameBlocks_setFrame s p _)

theorem moves_record (s : State) (p : Agent) (code : Byte) (r : Result) (tag : Option Half) :
    Moves s (s.record p code r tag) := moves_of_blocks (sameBlocks_setFrame s p _)

theorem moves_respond (s : State) (p : Agent) (code : Byte) (len : Nat) (r : Result) (data : List Byte)
    (tag : Option Half) : Moves s (s.respond p code len r data tag) :=
  (moves_respondOnly s p code len r data).trans (moves_record _ p code r tag)

theorem moves_foldl {α : Type} (f : State → α → State) (h : ∀ s x, Moves s (f s x)) (l : List α) (s : State) :
    Moves s (l.foldl f s) := by
  induction l generalizing s with
  | nil => exact .refl
  | cons x rest ih => exact (h s x).trans (ih _)

theorem moves_offerAll (s : State) (l : List Agent) (n : Notice) : Moves s (s.offerAll l n) :=
  moves_foldl _ (fun _ a => .single (.offered a n)) l s

theorem moves_offerPeers (s : State) (a : Agent) (n : Notice) : Moves s (s.offerPeers a n) := moves_offerAll s _ n

theorem moves_release (s : State) (d : DescId) (path : RemovalPath) (h : ∀ m, s.descs[d] ≠ .staging m) :
    Moves s (s.release d path) :=
  moves_single (.releasedAll [d] path (fun _ e he => by rw [List.mem_singleton.mp he]; exact h))

theorem moves_clearNotices (s : State) (a : Agent) : Moves s (s.clearNotices a) := by
  have hempty : noticeShape [] := ⟨by simp, by simp, by simp⟩
  exact (moves_single (.noticesSet a [] (fun _ => hempty) (.inr fun _ => rfl))).trans
    (moves_of_blocks (sameBlocks_setLatch _ a none))

theorem moves_zeroFill (s : State) (a : Agent) : Moves s (s.zeroFill a) := by
  unfold State.zeroFill
  cases (s.frames[a]).phase with
  | idle => exact .refl
  | request => exact .refl
  | turnaround => exact moves_of_blocks (sameBlocks_setFrame s a _)
  | response => exact moves_of_blocks (sameBlocks_setFrame s a _)

theorem moves_zeroFillReadout (s : State) (a : Agent) : Moves s (s.zeroFillReadout a) := by
  unfold State.zeroFillReadout
  split
  · exact moves_zeroFill s a
  · exact .refl

/-! ## The shape of a notice queue -/

/-- A change of the last record that makes no other record an OVERRUN keeps the shape (R144, R151). -/
theorem noticeShape_mapLast (f : Notice → Notice) (hf : ∀ n, (f n).isOverrun = n.isOverrun) (q : List Notice)
    (h : noticeShape q) : noticeShape (mapLast f q) := by
  rcases List.eq_nil_or_concat q with rfl | ⟨r, n, rfl⟩
  · exact h
  · rw [List.concat_eq_append] at h ⊢
    rw [mapLast_append]
    obtain ⟨hlen, hdrop, hfull⟩ := h
    refine ⟨by simpa using hlen, by simpa using hdrop, fun h16 => ?_⟩
    have hlast := hfull (by simpa using h16)
    simpa [endsInOverrun, hf] using hlast

theorem noticeShape_tail (q : List Notice) (h : noticeShape q) : noticeShape q.tail := by
  obtain ⟨hlen, hdrop, -⟩ := h
  refine ⟨by rw [List.length_tail]; omega, fun n hn => ?_, fun h16 => ?_⟩
  · cases q with
    | nil => simp at hn
    | cons a rest =>
      cases rest with
      | nil => simp at hn
      | cons b more => exact hdrop n (List.mem_cons_of_mem _ hn)
  · rw [List.length_tail] at h16
    omega

theorem withOverrunCount_isOverrun (c : Nat) (n : Notice) : (withOverrunCount c n).isOverrun = n.isOverrun := by
  cases n <;> rfl

/-! ## Rounds -/

theorem moves_testConsents (s : State) : Moves s s.testConsents := by
  unfold State.testConsents
  split
  · exact .refl
  · next v hv =>
    split
    · exact moves_single (.roundEnded v .committed none hv)
    · exact .refl

theorem without_required {v : Proposal} {a b : Agent} (h : (v.without a).required[b] = true) :
    v.required[b] = true ∧ b ≠ a := by
  by_cases hb : a = b
  · subst hb
    simp [-Fin.getElem_fin, Proposal.without] at h
  · rw [Proposal.without, vec_get_set_ne _ _ _ _ hb] at h
    exact ⟨h, Ne.symm hb⟩

theorem without_consented {v : Proposal} {a b : Agent} (h : (v.without a).consented[b] = true) :
    v.consented[b] = true ∧ b ≠ a := by
  by_cases hb : a = b
  · subst hb
    simp [-Fin.getElem_fin, Proposal.without] at h
  · rw [Proposal.without, vec_get_set_ne _ _ _ _ hb] at h
    exact ⟨h, Ne.symm hb⟩

theorem moves_leaveRound (s : State) (a : Agent) : Moves s (s.leaveRound a) := by
  unfold State.leaveRound
  split
  · exact .refl
  · next v hv =>
    split_ifs with hp hr
    · exact moves_single (.roundEnded v .withdrawn none hv)
    · have hwithout : Move s { s with voting := some (v.without a) } :=
        .votingChanged v _ hv rfl rfl (fun b hb => (without_required hb).1) (fun hsub b hb => by
          obtain ⟨hc, hne⟩ := without_consented hb
          rw [Proposal.without, vec_get_set_ne _ _ _ _ (Ne.symm hne)]
          exact hsub b hc)
      exact (moves_single hwithout).trans (moves_testConsents _)
    · exact .refl

theorem moves_takeLapse (s : State) : Moves s s.takeLapse := by
  unfold State.takeLapse
  split
  · exact .refl
  · next v hv =>
    split
    · exact moves_single (.roundEnded v .lapsed none hv)
    · exact .refl

/-! ## Departures -/

theorem leftRound_congr {s s' t t' : State} {a : Agent} (h : leftRound s t a) (hs : s'.voting = s.voting)
    (ht : t'.voting = t.voting) : leftRound s' t' a := by
  unfold leftRound at h ⊢
  rw [hs, ht]
  exact h

/-- Offers to an absent agent are dropped (R123). -/
theorem offerEach_nonmember (s : State) (b : Agent) (ns : List Notice) (hb : s.isMember b = false) :
    s.offerEach (ns.map (fun n => (b, n))) = s := by
  induction ns with
  | nil => rfl
  | cons n rest ih =>
    show (s.offer b n).offerEach (rest.map (fun n => (b, n))) = s
    rw [offer_nonmember s b n hb]
    exact ih

theorem toldEach_nonmember {s t : State} {b : Agent} {ns : List Notice} (h : toldEach s t b ns)
    (hb : s.isMember b = false) : t.notices[b] = s.notices[b] := by
  rw [h.1, offerEach_nonmember s b ns hb]

/-- An evaluation arms no watch. -/
theorem evaluated_disarmed {s t : State} {b : Agent} (h : evaluated s t b) (hb : s.watches[b] = .all none) :
    t.watches[b] = .all none :=
  PerClass.ext_get _ _ (fun k => by
    rw [h k, PerClass.get_all]
    unfold State.watchLeft
    rw [hb, PerClass.get_all])

/-- Nothing of the end of a round reaches an absent agent. -/
theorem leaveRound_absent (s : State) (a b : Agent) (hb : s.isMember b = false) (hw : s.watches[b] = .all none) :
    (s.leaveRound a).notices[b] = s.notices[b] ∧ (s.leaveRound a).watches[b] = .all none := by
  have htold := (leaveRound_told s a).2 b
  unfold leaveTold at htold
  split at htold
  · exact ⟨toldEach_nonmember htold.1 hb, htold.2.trans hw⟩
  · exact ⟨toldEach_nonmember htold.1 hb, evaluated_disarmed htold.2 hw⟩

/-- Departing ends with the round told and the peers after it; what is left of the agent before stays as it is. -/
theorem departs_of_left {s u : State} {a : Agent} (n : Notice) (m : Member) (hmoves : Moves (s.setMember a m) u)
    (habsent : u.isMember a = false) (hnotices : u.notices[a] = []) (hwatches : u.watches[a] = .all none)
    (hsnapshot : u.snapshots[a] = .all false) (hlease : (u.members[a]).leaseLeft = 0)
    (hothers : ∀ b : Agent, b ≠ a → s.portIs b .active → u.portIs b .active) (hvoting : u.voting = s.voting)
    (hempty : PlaceLaw s → u.holdsNothing a = true) : Departs a s ((u.leaveRound a).offerPeers a n) := by
  obtain ⟨hn, hw⟩ := leaveRound_absent u a a habsent hwatches
  exact {
    moves := ⟨m, (hmoves.trans (moves_leaveRound u a)).trans (moves_offerPeers _ a n)⟩
    absent := (isMember_congr a (by simp)).trans habsent
    notices := (offerPeers_self _ a n).1.trans (hn.trans hnotices)
    watches := by rw [State.offerPeers_frame]; exact hw
    snapshot := by simpa [-Fin.getElem_fin] using hsnapshot
    lease := by simpa [-Fin.getElem_fin] using hlease
    others := fun b hb hactive => by simpa [-Fin.getElem_fin, State.portIs] using hothers b hb hactive
    round := leftRound_congr (leaveRound_leftRound s u a hvoting) rfl (by simp)
    empty := fun hl => by simpa [-Fin.getElem_fin, State.holdsNothing] using hempty hl }

theorem departs_leaveToOffline (s : State) (a : Agent) (h : s.holdsNothing a = true) :
    Departs a s (s.leaveToOffline a) := by
  obtain ⟨hm, hn, -, hsnap, hw⟩ := goOffline_offline s s a rfl
  refine departs_of_left (.peerLeft a) { s.members[a] with state := .offline, leaseLeft := 0 } ?_ ?_ hn hw hsnap ?_ ?_ ?_ ?_
  · exact (((moves_clearNotices _ a).tail (.snapshotSet a _ (.inr rfl))).trans (moves_zeroFillReadout _ a)).tail (.disarmed a)
  · unfold State.isMember
    rw [hm]
  · rw [hm]
  · intro b hb hactive
    simpa [-Fin.getElem_fin, State.portIs, State.goOffline, vec_get_set_ne _ _ _ _ (Ne.symm hb)] using hactive
  · simp [State.goOffline]
  · intro _
    simpa [-Fin.getElem_fin, State.goOffline, State.holdsNothing] using h

/-! ## Hand slots and queue heads -/

theorem handMessage_inHand {s : State} {a : Agent} {k : MsgClass} {d : DescId} {m : Message} {adm : Admission}
    (h : s.handMessage a k = some (d, m, adm)) : s.descs[d] = .inHand m adm := by
  unfold State.handMessage at h
  split at h
  · cases h
  · next e _ =>
    split at h
    · cases h
    · cases h
    · cases h
    · next he =>
      cases h
      exact he

theorem handMessage_slot {s : State} {a : Agent} {k : MsgClass} {d : DescId} {m : Message} {adm : Admission}
    (h : s.handMessage a k = some (d, m, adm)) : (s.hands[a]).get k = some d := by
  unfold State.handMessage at h
  split at h
  · cases h
  · next e hslot =>
    split at h
    · cases h
    · cases h
    · cases h
    · cases h
      exact hslot

theorem queueHead_spec {s : State} {a : Agent} {k : MsgClass} {d : DescId} {m : Message} {adm : Admission}
    {rest : List DescId} (h : s.queueHead a k = some (d, m, adm, rest)) :
    (s.queues[a]).get k = d :: rest ∧ s.descs[d] = .queued m adm := by
  unfold State.queueHead at h
  split at h
  · cases h
  · next e more hq =>
    split at h
    · cases h
    · cases h
    · next he =>
      cases h
      exact ⟨hq, he⟩
    · cases h

theorem loadedStaging_spec {s : State} {p : Agent} {c : StagingContext} {m : Message}
    (h : s.loadedStaging p = some (c, m)) :
    s.rstnLow = false ∧ s.stagings[p] = some c ∧ s.descs[c.desc] = .staging m := by
  unfold State.loadedStaging at h
  split at h
  · cases h
  · next hr =>
    split at h
    · cases h
    · next c' hc =>
      split at h
      · cases h
      · next he =>
        cases h
        exact ⟨by simpa using hr, hc, he⟩
      · cases h
      · cases h

theorem namedInHand_spec {s : State} {a : Agent} {k : MsgClass} {tag : Half} {d : DescId} {m : Message}
    {adm : Admission} (h : s.namedInHand a k tag = some (d, m, adm)) :
    s.handMessage a k = some (d, m, adm) ∧ adm.tag = tag := by
  unfold State.namedInHand at h
  split at h
  · cases h
  · next d' m' adm' hh =>
    split at h
    · next ht =>
      cases h
      exact ⟨hh, ht⟩
    · cases h

/-! ## The fencing -/

/-- A release changes the membership record of no agent but a CLOSING one (R135). -/
theorem release_member (s : State) (d : DescId) (path : RemovalPath) (b : Agent) (h : ¬ s.portIs b .closing) :
    (s.release d path).members[b] = s.members[b] := by
  have finish (u : State) (m : Message) (adm : Admission) (hu : u.members = s.members) :
      (u.finishRelease d m adm path).members[b] = s.members[b] := by
    obtain ⟨hother, hdest⟩ := finish_drained u d m adm path
    by_cases hb : b = m.dest
    · subst hb
      rw [if_neg (fun hc => h (by simpa only [State.portIs, hu] using hc.1))] at hdest
      rw [hdest.1, hu]
    · rw [(hother b hb).1, hu]
  cases hd : s.descs[d] with
  | free => rw [release_free s d path hd]
  | staging m => rw [release_staging s d m path hd]; simp
  | queued m adm => rw [release_queued s d m adm path hd]; exact finish _ m adm rfl
  | inHand m adm => rw [release_inHand s d m adm path hd]; exact finish _ m adm rfl

theorem releaseAll_member (s : State) (ds : List DescId) (path : RemovalPath) (b : Agent) (h : ¬ s.portIs b .closing) :
    (s.releaseAll ds path).members[b] = s.members[b] := by
  induction ds generalizing s with
  | nil => rfl
  | cons d rest ih =>
    have hd := release_member s d path b h
    exact (ih (s.release d path) (by simpa only [State.portIs, hd] using h)).trans hd

theorem placeLaw_congr {s t : State} (hl : PlaceLaw s) (hd : t.descs = s.descs) (hq : t.queues = s.queues)
    (hh : t.hands = s.hands) (hs : t.stagings = s.stagings) : PlaceLaw t := by
  unfold PlaceLaw State.queuedFor State.inHandFor State.stagedOn at hl ⊢
  rw [hd, hq, hh, hs]
  exact hl

/-- Under the place law a staging context names a STAGING message of its port. -/
theorem PlaceLaw.staging {s : State} (hl : PlaceLaw s) {p : Agent} {c : StagingContext} (h : s.stagings[p] = some c) :
    ∃ m, s.descs[c.desc] = .staging m ∧ m.source = p := by
  have hs := (hl.2.2.2 p c.desc).mp (by rw [h]; rfl)
  unfold State.stagedOn at hs
  split at hs
  · exact absurd hs (by simp)
  · next m hd => exact ⟨m, hd, by simpa using hs⟩
  · exact absurd hs (by simp)
  · exact absurd hs (by simp)

/-- A staging that ends leaves its context and its descriptor together (R57). -/
theorem stagingEnded_place {s : State} (hl : PlaceLaw s) {p : Agent} {c : StagingContext} (path : RemovalPath)
    (h : s.stagings[p] = some c) : PlaceLaw ((s.release c.desc path).setStaging p none) := by
  obtain ⟨m, hd, hm⟩ := hl.staging h
  have hdescs := fun e => release_descs s c.desc e path
  refine ⟨fun a k => ?_, fun a k e => ?_, fun a k e => ?_, fun q e => ?_⟩
  · rw [State.setStaging_queues, release_queues s hl]
    exact (hl.1 a k).filter _
  · rw [State.setStaging_queues, release_queues s hl, List.mem_filter, hl.2.1 a k e]
    unfold State.queuedFor
    rw [State.setStaging_descs, hdescs]
    by_cases he : e = c.desc
    · simp [-Fin.getElem_fin, he]
    · simp [-Fin.getElem_fin, he]
  · rw [State.setStaging_hands, release_hands s hl]
    have hhand := hl.2.2.1 a k e
    unfold State.inHandFor at hhand ⊢
    rw [State.setStaging_descs, hdescs]
    have hno : (s.hands[a]).get k ≠ some c.desc := fun hx => by
      obtain ⟨m', adm, hd', -, -⟩ := hl.hand hx
      rw [hd] at hd'
      cases hd'
    rw [if_neg hno]
    by_cases he : e = c.desc
    · subst he
      simp [-Fin.getElem_fin, hno]
    · rw [if_neg he]
      exact hhand
  · have hstaged := hl.2.2.2 q e
    have hpin := hl.2.2.2 q c.desc
    unfold State.stagedOn at hstaged hpin ⊢
    rw [hd] at hpin
    simp only [decide_eq_true_eq, hm] at hpin
    rw [State.setStaging_descs, hdescs]
    by_cases hq : p = q
    · subst hq
      by_cases he : e = c.desc
      · simp [-Fin.getElem_fin, he]
      · rw [if_neg he, ← hstaged, h]
        simp [-Fin.getElem_fin, Ne.symm he]
    · have hset : ((s.release c.desc path).setStaging p none).stagings[q] = s.stagings[q] := by
        simp [-Fin.getElem_fin, vec_get_set_ne _ _ _ _ hq]
      rw [hset]
      by_cases he : e = c.desc
      · subst he
        simpa [-Fin.getElem_fin] using fun hx => hq (hpin.mp hx)
      · rw [if_neg he]
        exact hstaged

/-- Under the place law the messages a fencing discards are QUEUED or IN_HAND. -/
theorem PlaceLaw.heldFor {s : State} (hl : PlaceLaw s) {a : Agent} {d : DescId} (h : d ∈ s.heldFor a) (m : Message) :
    s.descs[d] ≠ .staging m := by
  intro hd
  unfold State.heldFor at h
  rcases List.mem_append.mp h with h | h
  · obtain ⟨k, -, hk⟩ := List.mem_filterMap.mp h
    obtain ⟨m', adm, e, -⟩ := hl.hand hk
    rw [hd] at e
    cases e
  · obtain ⟨k, -, hk⟩ := List.mem_flatMap.mp h
    obtain ⟨m', adm, e, -⟩ := hl.queue hk
    rw [hd] at e
    cases e

theorem mem_classes (k : MsgClass) : k ∈ classes := by
  cases k <;> decide

theorem mem_heldFor_of_hand {s : State} {a : Agent} {k : MsgClass} {d : DescId} (h : (s.hands[a]).get k = some d) :
    d ∈ s.heldFor a := List.mem_append_left _ (List.mem_filterMap.mpr ⟨k, mem_classes k, h⟩)

theorem mem_heldFor_of_queue {s : State} {a : Agent} {k : MsgClass} {d : DescId} (h : d ∈ (s.queues[a]).get k) :
    d ∈ s.heldFor a := List.mem_append_right _ (List.mem_flatMap.mpr ⟨k, mem_classes k, h⟩)

/-- R41: a discard leaves nothing for its agent. -/
theorem discard_holdsNothing {s : State} (hl : PlaceLaw s) (a : Agent) : (s.discard a).holdsNothing a = true := by
  obtain ⟨-, hqueues, hhands⟩ := releaseAll_place s hl (s.heldFor a) .discarded (fun d hd => hl.heldFor hd)
  unfold State.holdsNothing
  rw [List.all_eq_true]
  intro k _
  have hq : ((s.discard a).queues[a]).get k = [] := by
    rw [State.discard, State.setMember_queues, hqueues, List.filter_eq_nil_iff]
    intro d hd
    simpa using mem_heldFor_of_queue hd
  have hh : ((s.discard a).hands[a]).get k = none := by
    rw [State.discard, State.setMember_hands, hhands, Option.filter_eq_none_iff]
    intro d hd
    simpa using mem_heldFor_of_hand hd
  rw [hq, hh]
  rfl

theorem moves_abortStaging (s : State) (a : Agent) : Moves s (s.abortStaging a) := by
  unfold State.abortStaging
  split
  · exact .refl
  · next c hc =>
    exact ((moves_single (.stagingEnded a c hc)).trans (moves_respond _ a _ _ _ _ _)).trans
      (moves_of_blocks (sameBlocks_setFrame _ a _))

theorem abortStaging_place {s : State} (hl : PlaceLaw s) (a : Agent) : PlaceLaw (s.abortStaging a) := by
  unfold State.abortStaging
  split
  · exact hl
  · next c hc => exact placeLaw_congr (stagingEnded_place hl .unadmitted hc) (by simp) (by simp) (by simp) (by simp)

theorem abortStaging_member (s : State) (a b : Agent) (h : ¬ s.portIs b .closing) :
    (s.abortStaging a).members[b] = s.members[b] := by
  unfold State.abortStaging
  split
  · rfl
  · next c hc => simpa [-Fin.getElem_fin, State.skipRest] using release_member s c.desc .unadmitted b h

theorem moves_discard (s : State) (a : Agent) : Moves s (s.discard a) := by
  unfold State.discard
  refine (moves_single (.releasedAll (s.heldFor a) .discarded (fun hl d hd => hl.heldFor hd))).trans
    (moves_single (.memberKept a _ rfl ?_))
  exact .inr id

theorem discard_state (s : State) (a b : Agent) (h : ¬ s.portIs b .closing) :
    ((s.discard a).members[b]).state = (s.members[b]).state ∧
      ((s.discard a).members[b]).leaseLeft = (s.members[b]).leaseLeft := by
  have hm := releaseAll_member s (s.heldFor a) .discarded b h
  unfold State.discard
  by_cases hb : a = b
  · subst hb
    simp [-Fin.getElem_fin, hm]
  · simp [-Fin.getElem_fin, vec_get_set_ne _ _ _ _ hb, hm]

theorem departs_fence (s : State) (a : Agent) : Departs a s (s.fence a) := by
  set m : Member := { s.members[a] with state := .fenced, leaseLeft := 0 } with hm
  set u := (s.setMember a m).zeroFill a with hu
  set v := (u.abortStaging a).discard a with hv
  set w := ((v.clearNotices a).setSnapshot a (.all false)).disarm a with hw
  have hmembers : u.members = s.members.set a m := by simp [-Fin.getElem_fin, hu]
  have hkeeps (b : Agent) (hb : ¬ u.portIs b .closing) :
      (v.members[b]).state = (u.members[b]).state ∧ (v.members[b]).leaseLeft = (u.members[b]).leaseLeft := by
    have habort := abortStaging_member u a b hb
    have hdiscard := discard_state (u.abortStaging a) a b (by rw [State.portIs, habort]; exact hb)
    rwa [habort] at hdiscard
  have hself : (v.members[a]).state = .fenced ∧ (v.members[a]).leaseLeft = 0 := by
    have := hkeeps a (by rw [State.portIs, hmembers, vec_get_set_same]; simp [hm])
    rwa [hmembers, vec_get_set_same] at this
  have hwmembers : w.members = v.members := by simp [-Fin.getElem_fin, hw, State.clearNotices, State.disarm]
  refine departs_of_left (s := s) (u := w) (.peerFenced a) m ?moves ?absent ?notices ?watches ?snapshot ?lease ?others
    ?voting ?empty
  case moves =>
    exact (((moves_zeroFill _ a).trans ((moves_abortStaging u a).trans (moves_discard _ a))).trans
      ((moves_clearNotices v a).tail (.snapshotSet a _ (.inr rfl)))).tail (.disarmed a)
  case absent =>
    unfold State.isMember
    rw [hwmembers, hself.1]
  case notices => simp [-Fin.getElem_fin, hw, State.clearNotices, State.disarm]
  case watches => simp [-Fin.getElem_fin, hw, State.disarm]
  case snapshot => simp [-Fin.getElem_fin, hw, State.disarm]
  case lease => rw [hwmembers, hself.2]
  case others =>
    intro b hb hactive
    have hub : u.members[b] = s.members[b] := by rw [hmembers, vec_get_set_ne _ _ _ _ (Ne.symm hb)]
    rw [State.portIs, hwmembers, (hkeeps b (by rw [State.portIs, hub, hactive]; simp)).1, hub, hactive]
  case voting =>
    simp [-Fin.getElem_fin, hw, hv, hu, State.clearNotices, State.disarm]
  case empty =>
    intro hl
    have hlu : PlaceLaw u := placeLaw_congr hl (by simp [hu]) (by simp [hu]) (by simp [hu]) (by simp [hu])
    have hheld := discard_holdsNothing (abortStaging_place hlu a) a
    simpa [-Fin.getElem_fin, hw, State.holdsNothing, State.clearNotices, State.disarm] using hheld

/-! ## The consumers of a tick -/

theorem expiredIn_queued {s : State} {life : PerClass Nat} {a : Agent} {k : MsgClass} {d : DescId}
    (h : d ∈ s.expiredIn life a k) :
    d ∈ (s.queues[a]).get k ∧ ∃ m adm, s.descs[d] = .queued m adm ∧ life.get k ≠ 0 ∧ life.get k ≤ s.age adm := by
  unfold State.expiredIn at h
  split at h
  · exact absurd h (List.not_mem_nil)
  · next hlife =>
    obtain ⟨hmem, hold⟩ := List.mem_filter.mp h
    refine ⟨hmem, ?_⟩
    split at hold
    · exact absurd hold (by simp)
    · exact absurd hold (by simp)
    · next m adm hd => exact ⟨m, adm, hd, hlife, by simpa using hold⟩
    · exact absurd hold (by simp)

theorem mem_expiredAll {s : State} {life : PerClass Nat} {d : DescId} :
    d ∈ s.expiredAll life ↔ ∃ a k, d ∈ s.expiredIn life a k := by
  simp [State.expiredAll, List.mem_flatMap, mem_agents, mem_classes]

theorem moves_takePass (s : State) : Moves s s.takePass := by
  unfold State.takePass
  split
  · exact .refl
  · next life _ =>
    have hpass : SameBlocks s { s with passDue := none } := by constructor <;> rfl
    refine (moves_of_blocks hpass).trans (moves_single (.releasedAll _ _ (fun _ d hd m hm => ?_)))
    obtain ⟨a, k, hk⟩ := mem_expiredAll.mp hd
    obtain ⟨-, m', adm, hq, -⟩ := expiredIn_queued hk
    exact absurd (hm.symm.trans hq) (by simp)

theorem events_takeEvent (s : State) (e : TickEvent) : Events s (s.takeEvent e) := by
  cases e with
  | pass => exact events_of_moves (moves_takePass s)
  | fence a =>
    show Events s (s.takeFencing a)
    unfold State.takeFencing
    split
    · exact .single (.departed a (departs_fence s a))
    · exact .refl
  | lapse => exact events_of_moves (moves_takeLapse s)

theorem sameBlocks_choices (s : State) (n : Nat) : SameBlocks s { s with choices := n } := by constructor <;> rfl

theorem events_settleSome (n : Nat) (s : State) : Events s (State.settleSome n s) := by
  induction n generalizing s with
  | zero => exact .refl
  | succ n ih =>
    unfold State.settleSome
    split
    · exact .refl
    · next e _ => exact (events_takeEvent s e).trans (ih _)
    · exact ((events_of_moves (moves_of_blocks (sameBlocks_choices s _))).trans (events_takeEvent _ _)).trans (ih _)

theorem events_settle (s : State) : Events s s.settle := events_settleSome 6 s

/-! ## The commands -/

/-- A transaction changes only the framing, but where its own meaning is taken (R103, R122). -/
theorem events_transact (s : State) (p : Agent) (code : Byte) (len : Nat) (check : Option Result) (body : State)
    (h : s.requestOpen p = true → s.starting = false → check = none → Events s body) :
    Events s (s.transact p code len check body) := by
  unfold State.transact
  split
  · next hopen =>
    split
    · exact events_of_moves (moves_respondOnly s p _ _ _ _)
    · next hs =>
      cases check with
      | none => exact h hopen (by simpa using hs) rfl
      | some r => exact events_of_moves (moves_respond s p _ _ _ _ _)
  · exact .refl

theorem events_respond {s u : State} (h : Events s u) (p : Agent) (code : Byte) (len : Nat) (r : Result)
    (data : List Byte) (tag : Option Half) : Events s (u.respond p code len r data tag) :=
  h.trans (events_of_moves (moves_respond u p code len r data tag))

theorem joined_of_refuseOutsider {s : State} {p : Agent} (h : s.refuseOutsider p = none) : s.joined p := by
  unfold State.refuseOutsider at h
  split at h
  · cases h
  · next hs => exact .inl hs
  · next hs => exact .inr hs
  · cases h

theorem active_of_refuseInactive {s : State} {p : Agent} (h : s.refuseInactive p = none) : s.portIs p .active := by
  unfold State.refuseInactive at h
  split at h
  · cases h
  · next hs => exact hs
  · cases h
  · cases h

theorem moves_raiseCsn (s : State) (p : Agent) : Moves s (s.raiseCsn p) := by
  have hcut : Moves s (s.cutStaging p) := by
    unfold State.cutStaging
    split
    · exact .refl
    · next c hc => exact (moves_single (.stagingEnded p c hc)).trans (moves_record _ p _ _ _)
  have hunlatch (u : State) : Moves u (u.unlatch p) := by
    unfold State.unlatch
    split
    · exact .refl
    · next l _ =>
      refine (moves_single (.noticesSet p _ (noticeShape_mapLast _ (withOverrunCount_isOverrun _) _) (.inr ?_))).trans
        (moves_of_blocks (sameBlocks_setLatch _ p none))
      rintro h
      rw [h]
      rfl
  unfold State.raiseCsn
  split
  · exact .refl
  · split
    · exact moves_of_blocks (sameBlocks_setFrame s p _)
    · exact (hcut.trans (hunlatch _)).trans (moves_of_blocks (sameBlocks_setFrame _ p _))

/-! ### JOIN and LEAVE -/

theorem moves_joinFresh (s : State) (a : Agent) (n : Nat) : Moves s (s.joinFresh a n) :=
  (moves_single (.activated a _ rfl)).trans (moves_offerPeers _ a _)

theorem moves_joinResumed (s : State) (a : Agent) (n : Nat) (h : s.isMember a = false) : Moves s (s.joinResumed a n) := by
  set u := (s.loadLease a n).place a (.resumed (s.members[a]).discards) with hu
  have hplaced : Moves s u := moves_single (.resumed a _ _ rfl h)
  have hzero : Move u (u.setMember a { u.members[a] with discards := 0 }) := .memberKept a _ rfl (.inr id)
  exact (hplaced.tail hzero).trans (moves_offerPeers _ a _)

theorem moves_rejoinReturn (s : State) (a : Agent) : Moves s (s.rejoinReturn a) := by
  refine moves_foldl _ (fun t k => ?_) classes s
  unfold State.rejoinReturnOf
  split
  · exact .refl
  · next d m adm hh =>
    unfold State.returnOrReject
    split
    · exact moves_release t d .rejected (by rw [handMessage_inHand hh]; simp)
    · exact moves_single (.returned a k d m adm hh)

theorem rejoinReturn_isMember (s : State) (a : Agent) (h : s.portIs a .active) : (s.rejoinReturn a).isMember a = true := by
  have hkeep : ((s.rejoinReturn a).members[a]).state = .active := by
    unfold State.rejoinReturn
    generalize classes = l
    induction l generalizing s with
    | nil => exact h
    | cons k rest ih =>
      refine ih (s.rejoinReturnOf a k) ?_
      unfold State.rejoinReturnOf
      split
      · exact h
      · next d m adm _ =>
        unfold State.returnOrReject
        split
        · rw [State.portIs, release_member s d _ a (by rw [State.portIs, h]; simp)]
          exact h
        · simpa [State.portIs] using h
  unfold State.isMember
  rw [hkeep]

theorem noticeShape_rejoined (ns : List Notice) (h : ns.length ≤ 1) : noticeShape ([.rejoined] ++ ns) := by
  obtain rfl | ⟨n, rfl⟩ : ns = [] ∨ ∃ n, ns = [n] := by
    rw [← List.length_eq_one_iff, ← List.length_eq_zero_iff]
    omega
  · exact ⟨by simp, by simp, by simp⟩
  · refine ⟨by simp, fun x hx => ?_, by simp⟩
    simp only [List.singleton_append, List.dropLast_cons_cons, List.dropLast_singleton, List.mem_singleton] at hx
    rw [hx]
    rfl

theorem moves_remindRequired (s : State) (a : Agent) (hm : s.isMember a = true) (hn : s.notices[a] = [.rejoined]) :
    Moves s (s.remindRequired a) := by
  unfold State.remindRequired
  split
  · exact .refl
  · split
    · refine moves_single (.noticesSet a _ (fun _ => ?_) (.inl hm))
      rw [hn]
      exact noticeShape_rejoined [_] (by simp)
    · exact .refl

/-- R127: the notice queue of a member cleared, with REJOINED in it. -/
theorem moves_placeRejoined (s : State) (a : Agent) (hm : s.isMember a = true) :
    Moves s ((s.clearNotices a).place a .rejoined) := by
  refine (moves_clearNotices s a).tail (.noticesSet a _ (fun _ => ?_) (.inl hm))
  have hempty : (s.clearNotices a).notices[a] = [] := by simp [-Fin.getElem_fin, State.clearNotices]
  rw [hempty]
  exact noticeShape_rejoined [] (by simp)

theorem moves_rejoin (s : State) (a : Agent) (n : Nat) : Moves s (s.rejoin a n) := by
  set u := (s.setMember a { s.members[a] with state := .active }).rejoinReturn a with hu
  set v := (((u.clearNotices a).place a .rejoined).setSnapshot a (.all false)).disarm a with hv
  have hmember : u.isMember a = true := rejoinReturn_isMember _ a (by simp [State.portIs])
  have hfirst : Moves s u := (moves_single (.activated a _ rfl)).trans (moves_rejoinReturn _ a)
  have hclear : Moves u v :=
    ((moves_placeRejoined u a hmember).tail (.snapshotSet a _ (.inr rfl))).tail (.disarmed a)
  have hlease : Moves v (v.loadLease a n) := moves_single (.activated a _ rfl)
  refine ((hfirst.trans hclear).trans hlease).trans (moves_remindRequired _ a ?_ ?_)
  · simp [-Fin.getElem_fin, State.isMember, State.loadLease]
  · simp [-Fin.getElem_fin, State.loadLease, hv, State.disarm, State.place, State.clearNotices]

theorem moves_joinBy (s : State) (p : Agent) (n : Nat) : Moves s (s.joinBy p n) := by
  unfold State.joinBy
  split
  · exact moves_joinFresh s p n
  · exact moves_rejoin s p n
  · exact moves_rejoin s p n
  · next h => exact moves_joinResumed s p n (by unfold State.isMember; rw [h])

theorem events_leaveBy (s : State) (p : Agent) (h : s.joined p) : Events s (s.leaveBy p) := by
  unfold State.leaveBy
  split
  · exact events_respond .refl p _ _ _ _ _
  · next hclosing =>
    split
    · next hempty => exact events_respond (.single (.departed p (departs_leaveToOffline s p hempty))) p _ _ _ _ _
    · exact events_respond (.single (.closed p (h.resolve_right hclosing))) p _ _ _ _ _

/-! ### Posting -/

theorem moves_takeStagingByte (s : State) (p : Agent) (b : Byte) : Moves s (s.takeStagingByte p b) := by
  unfold State.takeStagingByte
  split
  · exact .refl
  · next c m h =>
    split_ifs
    · exact moves_single (.corrByteTaken p c m b h)
    · exact moves_single (.payloadByteTaken p c m b h)
    · exact moves_single (.checkHighTaken p c m b h)
    · exact .refl

theorem moves_endStaging (s : State) (p : Agent) (c : StagingContext) (r : Result) (h : s.stagings[p] = some c) :
    Moves s (s.endStaging p c r) := (moves_single (.stagingEnded p c h)).trans (moves_respond _ p _ _ _ _ _)

/-- The last check byte ends a staging or admits it (R63). -/
theorem takeLastCheck_cases (s : State) (p : Agent) (b : Byte) :
    Moves s (s.takeLastCheck p b) ∨ ∃ v, Admits s v ∧ Moves v (s.takeLastCheck p b) := by
  unfold State.takeLastCheck
  split
  · exact .inl .refl
  · next c m h =>
    obtain ⟨-, hc, -⟩ := loadedStaging_spec h
    split_ifs with h1 h2 h3
    · exact .inl .refl
    · exact .inl (moves_endStaging s p c _ hc)
    · exact .inl (moves_endStaging s p c _ hc)
    · exact .inr ⟨_, .mk p c m h (not_not.mp h3), moves_respond _ p _ _ _ _ _⟩

/-! ### Delivery -/

theorem moves_fetchBy (s : State) (p : Agent) (sel : Selector) (h : s.isMember p = true) : Moves s (s.fetchBy p sel) := by
  unfold State.fetchBy
  split
  · exact moves_respond s p _ _ _ _ _
  · next k _ =>
    unfold State.fetchClass
    split
    · exact moves_respond s p _ _ _ _ _
    · next hhand =>
      split
      · exact moves_respond s p _ _ _ _ _
      · next d m adm rest hhead =>
        exact (moves_single (.takenIntoHand p k d m adm rest hhand hhead h)).trans (moves_respond _ p _ _ _ _ _)

theorem moves_ackBy (s : State) (p : Agent) (cls : Byte) (tag : Half) : Moves s (s.ackBy p cls tag) := by
  unfold State.ackBy
  split
  · exact moves_respond s p _ _ _ _ _
  · split
    · exact moves_respond s p _ _ _ _ _
    · next d m adm h =>
      exact (moves_release s d _ (by rw [handMessage_inHand (namedInHand_spec h).1]; simp)).trans
        (moves_respond _ p _ _ _ _ _)

theorem moves_returnOrReject (s : State) (a : Agent) (k : MsgClass) (d : DescId) (m : Message) (adm : Admission)
    (h : s.handMessage a k = some (d, m, adm)) : Moves s (s.returnOrReject d m adm) := by
  unfold State.returnOrReject
  split
  · exact moves_release s d .rejected (by rw [handMessage_inHand h]; simp)
  · exact moves_single (.returned a k d m adm h)

theorem moves_nackBy (s : State) (p : Agent) (cls : Byte) (tag : Half) : Moves s (s.nackBy p cls tag) := by
  unfold State.nackBy
  split
  · exact moves_respond s p _ _ _ _ _
  · split
    · exact moves_respond s p _ _ _ _ _
    · next k _ _ d m adm h =>
      exact (moves_returnOrReject s p k d m adm (namedInHand_spec h).1).trans (moves_respond _ p _ _ _ _ _)

theorem isRecalled_spec {s : State} {p : Agent} {t : Half} {d : DescId} (h : s.isRecalled p t d = true) :
    ∃ m adm, s.descs[d] = .queued m adm ∧ m.source = p ∧ adm.tag = t := by
  unfold State.isRecalled at h
  split at h
  · exact absurd h (by simp)
  · exact absurd h (by simp)
  · next m adm hd =>
    obtain ⟨hm, ht⟩ := by simpa using h
    exact ⟨m, adm, hd, hm, ht⟩
  · exact absurd h (by simp)

theorem moves_recallBy (s : State) (p : Agent) (dest cls : Byte) (t : Half) : Moves s (s.recallBy p dest cls t) := by
  unfold State.recallBy
  split
  · exact moves_respond s p _ _ _ _ _
  · split
    · exact moves_respond s p _ _ _ _ _
    · split
      · exact moves_respond s p _ _ _ _ _
      · unfold State.recallSearch
        split
        · next x hx =>
          obtain ⟨m, adm, hd, -⟩ := isRecalled_spec (List.find?_some hx)
          exact (moves_release s x _ (by rw [hd]; simp)).trans (moves_respond _ p _ _ _ _ _)
        · split
          · exact moves_respond s p _ _ _ _ _
          · exact moves_respond s p _ _ _ _ _

/-! ### Notices, credit and consent -/

theorem moves_removeRecord (s : State) (p : Agent) : Moves s (s.removeRecord p) := by
  have hhead (u : State) : Moves u (u.removeHead p) := by
    have htail : Moves u (u.setNotices p (u.notices[p]).tail) :=
      moves_single (.noticesSet p _ (noticeShape_tail _) (.inr fun h => by rw [h]; rfl))
    have hcount (n : Nat) : Moves u (u.setNotices p (mapLast (withOverrunCount n) u.notices[p])) :=
      moves_single (.noticesSet p _ (noticeShape_mapLast _ (withOverrunCount_isOverrun n) _)
        (.inr fun h => by rw [h]; rfl))
    unfold State.removeHead
    split
    · exact htail
    · split
      · exact htail.trans (moves_of_blocks (sameBlocks_setLatch _ p none))
      · exact (hcount _).trans (moves_of_blocks (sameBlocks_setLatch _ p none))
  unfold State.removeRecord
  dsimp only
  split
  · exact ((moves_of_blocks (sameBlocks_setFrame s p _)).trans (moves_of_blocks (sameBlocks_setFrame _ p _))).trans
      (hhead _)
  · exact .refl

theorem sameBlocks_latchOverrun (s : State) (p : Agent) : SameBlocks s (s.latchOverrun p) := by
  constructor <;> simp

theorem moves_watchBy (s : State) (p : Agent) (cls threshold : Byte) (h : s.isMember p = true) :
    Moves s (s.watchBy p cls threshold) := by
  unfold State.watchBy
  split
  · exact moves_respond s p _ _ _ _ _
  · next k _ =>
    split
    · exact moves_respond s p _ _ _ _ _
    · exact (moves_single (.watchSet p k _ h)).trans (moves_respond _ p _ _ _ _ _)

theorem moves_proposeBy (s : State) (p : Agent) (x : Table) (h : s.portIs p .active) : Moves s (s.proposeBy p x) := by
  unfold State.proposeBy
  split_ifs with h1 h2
  · exact moves_respond s p _ _ _ _ _
  · exact moves_respond s p _ _ _ _ _
  · have hopen : Moves s (s.openProposal p x) :=
      ((moves_single (.proposed p x h (by simpa using h1))).trans (moves_offerAll _ _ _)).trans (moves_testConsents _)
    exact hopen.trans (moves_respond _ p _ _ _ _ _)

theorem namedProposal_spec {s : State} {num : Byte} {v : Proposal} (h : s.namedProposal num = some v) :
    s.voting = some v ∧ v.number = num := by
  unfold State.namedProposal at h
  split at h
  · cases h
  · next w hw =>
    split at h
    · next hn =>
      cases h
      exact ⟨hw, hn⟩
    · cases h

theorem moves_addConsent (s : State) (p : Agent) (v : Proposal) (hv : s.voting = some v) (hr : v.required[p] = true) :
    Moves s (s.addConsent p v) := by
  refine (moves_single (.votingChanged v { v with consented := v.consented.set p true } hv rfl rfl (fun _ => id)
    (fun hsub b hb => ?_))).trans (moves_testConsents _)
  by_cases hpb : p = b
  · exact hpb ▸ hr
  · exact hsub b (by simpa only [vec_get_set_ne _ _ _ _ hpb] using hb)

theorem moves_consentBy (s : State) (p : Agent) (num : Byte) : Moves s (s.consentBy p num) := by
  unfold State.consentBy
  split
  · exact moves_respond s p _ _ _ _ _
  · next v hv =>
    split
    · exact moves_respond s p _ _ _ _ _
    · next hr =>
      refine Relation.ReflTransGen.trans ?_ (moves_respond _ p _ _ _ _ _)
      split
      · exact .refl
      · exact moves_addConsent s p v (namedProposal_spec hv).1 (by simpa using hr)

theorem moves_vetoBy (s : State) (p : Agent) (num : Byte) : Moves s (s.vetoBy p num) := by
  unfold State.vetoBy
  split
  · exact moves_respond s p _ _ _ _ _
  · next v hv =>
    have hend (o : RoundOutcome) : Moves s (s.endRound v o (some p)) :=
      moves_single (.roundEnded v o _ (namedProposal_spec hv).1)
    split_ifs
    · exact (hend _).trans (moves_respond _ p _ _ _ _ _)
    · exact (hend _).trans (moves_respond _ p _ _ _ _ _)
    · exact moves_respond s p _ _ _ _ _

/-! ### Clocks -/

theorem moves_tick (s : State) : Moves s s.tick := by
  set u : State := { s.restartClock with ticks := s.ticks + 1, passDue := some s.table.lifetime } with hu
  have hcounts : SameBlocks s u := by constructor <;> rfl
  have hlease (v : State) (a : Agent) : Moves v (v.setMember a (v.members[a]).lowered) := by
    refine moves_single (.memberKept a _ ?_ ?_)
    · unfold Member.lowered
      split <;> simp_all
    · refine .inr (fun h => ?_)
      unfold Member.lowered
      split <;> simp [-Fin.getElem_fin, h]
  have hwindow (v : State) : Moves v v.lowerWindow := by
    unfold State.lowerWindow
    split
    · exact .refl
    · next w hw => exact moves_single (.votingChanged w _ hw rfl rfl (fun _ => id) id)
  exact ((moves_of_blocks hcounts).trans (moves_foldl _ hlease agents u)).trans (hwindow _)

theorem sameBlocks_countPrescale (s : State) : SameBlocks s s.countPrescale := by constructor <;> simp

theorem sameBlocks_countScrub (s : State) : SameBlocks s s.countScrub := by constructor <;> simp

theorem moves_refclkPeriod (s : State) (first : Bool) : Moves s (s.refclkPeriod first) := by
  have hcount : Moves s s.countPrescale.countScrub :=
    (moves_of_blocks (sameBlocks_countPrescale s)).trans (moves_of_blocks (sameBlocks_countScrub _))
  unfold State.refclkPeriod
  dsimp only
  split
  · exact hcount.trans (moves_tick _)
  · exact hcount

theorem moves_sckPeriod (s : State) (p : Agent) (b : Bool) : Moves s (s.sckPeriod p b) := by
  have hbegin (u : State) : Moves u (u.beginOverrun p) := by
    unfold State.beginOverrun
    split
    · exact moves_of_blocks (sameBlocks_latchOverrun u p)
    · exact .refl
  have hshift (u : State) : Moves u (((u.shiftByte p).endRecord p).beginOverrun p) := by
    have hbyte : SameBlocks u (u.shiftByte p) := by constructor <;> simp
    refine ((moves_of_blocks hbyte).trans ?_).trans (hbegin _)
    unfold State.endRecord
    split
    · exact moves_removeRecord _ p
    · exact .refl
  have hexchange (u : State) : Moves u (u.exchange p b) := by
    unfold State.exchange State.exchangeByte
    dsimp only
    split
    · exact moves_of_blocks (sameBlocks_setFrame u p _)
    · split
      · exact .refl
      · split
        · exact moves_of_blocks (by constructor <;> simp)
        · exact moves_of_blocks (by constructor <;> simp)
      · exact hshift u
      · exact hshift u
  unfold State.sckPeriod
  dsimp only
  split
  · exact .refl
  · exact (hbegin s).trans (hexchange _)

theorem events_idle (s : State) : Events s s.idle := by
  unfold State.idle
  split_ifs
  · exact events_settle s
  · exact .refl
  · exact events_of_moves (moves_tick s)
  · refine events_of_moves ((moves_of_blocks (sameBlocks_choices s (s.choices + 1))).trans ?_)
    unfold State.clockPeriod
    split
    · exact moves_refclkPeriod _ _
    · exact moves_sckPeriod _ _ _

/-! ## One step -/

/-- R63 apart, which admits a message, a command is a run of events. -/
theorem exec_events (c : Instr) (s t : State) (h : exec c s = .next t) (hc : ∀ p b, c ≠ .postLastCheckByte p b) :
    Events s t := by
  have hset := events_settle s
  have hmoves {u : State} (hu : Moves s.settle u) : Events s u := hset.trans (events_of_moves hu)
  have hframe {u : State} (hu : SameBlocks s.settle u) : Events s u := hmoves (moves_of_blocks hu)
  have hmember {p : Agent} (hp : s.settle.refuseOutsider p = none) : s.settle.isMember p = true :=
    joined_isMember _ p (joined_of_refuseOutsider hp)
  cases c <;> cases h
  case deviceReset => exact events_of_moves (moves_single (.reset _ _ _))
  case startupClearStart => exact hframe (by constructor <;> simp)
  case startupClearCompletion =>
    refine hset.trans ?_
    unfold State.completeStartUp
    split
    · next p hp =>
      split
      · exact .refl
      · exact events_of_moves (moves_single (.startUpCleared p hp))
    · exact .refl
    · exact .refl
  case csnFall p => exact hframe (by constructor <;> simp)
  case csnRise p => exact hmoves (moves_raiseCsn _ p)
  case badop p code => exact hframe (by constructor <;> simp)
  case ident p => exact hframe (by constructor <;> simp)
  case status p => exact hframe (by constructor <;> simp)
  case join p period =>
    exact hset.trans (events_transact _ p _ _ _ _ fun _ _ _ =>
      events_respond (events_of_moves (moves_joinBy _ p _)) p _ _ _ _ _)
  case leave p =>
    exact hset.trans (events_transact _ p _ _ _ _ fun _ _ hj => events_leaveBy _ p (joined_of_refuseOutsider hj))
  case renew p =>
    exact hset.trans (events_transact _ p _ _ _ _ fun _ _ hj => events_respond (events_of_moves (moves_single
      (.memberKept p { s.settle.members[p] with leaseLeft := (s.settle.members[p]).leasePeriod } rfl
        (.inl (hmember hj))))) p _ _ _ _ _)
  case postHeader p dest cls flags len =>
    refine hset.trans (events_transact _ p _ _ _ _ fun hopen hs _ => ?_)
    split
    · exact events_respond .refl p _ _ _ _ _
    · next d m hm => exact events_of_moves (moves_single (.headerStaged p dest cls flags len.toNat d m hopen hs hm))
  case postStagingByte p b => exact hmoves (moves_takeStagingByte _ p b)
  case postLastCheckByte p b => exact absurd rfl (hc p b)
  case fetch p sel =>
    refine hset.trans (events_transact _ p _ _ _ _ fun _ _ hj => ?_)
    split
    · exact events_respond .refl p _ _ _ _ _
    · exact events_of_moves (moves_fetchBy _ p _ (hmember hj))
  case ack p cls tag => exact hset.trans (events_transact _ p _ _ _ _ fun _ _ _ => events_of_moves (moves_ackBy _ p _ _))
  case nack p cls tag => exact hset.trans (events_transact _ p _ _ _ _ fun _ _ _ => events_of_moves (moves_nackBy _ p _ _))
  case recallMessage p dest cls tag =>
    exact hset.trans (events_transact _ p _ _ _ _ fun _ _ _ => events_of_moves (moves_recallBy _ p _ _ _))
  case watch p cls threshold =>
    exact hset.trans (events_transact _ p _ _ _ _ fun _ _ hj => events_of_moves (moves_watchBy _ p _ _ (hmember hj)))
  case notices p max => exact hframe (by constructor <;> simp)
  case noticeRecordRemoval p => exact hmoves (moves_removeRecord _ p)
  case overrunLatch p => exact hframe (sameBlocks_latchOverrun _ p)
  case summary p =>
    exact hset.trans (events_transact _ p _ _ _ _ fun _ _ hj =>
      events_respond (events_of_moves (moves_single (.snapshotSet p _ (.inl (hmember hj))))) p _ _ _ _ _)
  case readcfg p sel => exact hframe (by constructor <;> simp)
  case propose p image =>
    refine hset.trans ?_
    unfold State.answerPropose
    split
    · exact events_transact _ p _ _ _ _ fun _ _ hj =>
        events_of_moves (moves_proposeBy _ p _ (active_of_refuseInactive hj))
    · exact .refl
  case consent p num => exact hset.trans (events_transact _ p _ _ _ _ fun _ _ _ => events_of_moves (moves_consentBy _ p _))
  case veto p num => exact hset.trans (events_transact _ p _ _ _ _ fun _ _ _ => events_of_moves (moves_vetoBy _ p _))
  case applyHeld => exact hmoves (moves_single .fitTest)
  case ageTick =>
    split
    · exact hset
    · exact hmoves (moves_tick _)
  case expiryPass => exact events_takeEvent s .pass
  case fencing a => exact events_takeEvent s (.fence a)
  case proposalLapse => exact events_takeEvent s .lapse
  case drainCompletion a => exact hmoves (moves_single (.drainTested a))
  case scrubCompletion =>
    refine hset.trans ?_
    unfold State.completeScrub
    split
    · exact .refl
    · exact .refl
    · next c hc => exact events_of_moves (moves_single (.scrubbed c hc))
  case watchFire a k => exact hmoves (moves_single (.watchTested a k))

/-- What one step does: events, and then perhaps an admission with its response. -/
theorem step_events (s t : State) (h : step s = .next t) :
    Events s t ∨ ∃ rest v, Events s (State.settle { s with pending := rest }) ∧
      Admits (State.settle { s with pending := rest }) v ∧ Moves v t := by
  unfold step at h
  split at h
  · cases h
    exact .inl (events_idle s)
  · next c rest _ =>
    have hpop : SameBlocks s { s with pending := rest } := by constructor <;> rfl
    have hpop' : Events s { s with pending := rest } := events_of_moves (moves_of_blocks hpop)
    by_cases hc : ∀ p b, c ≠ .postLastCheckByte p b
    · exact .inl (hpop'.trans (exec_events c _ t h hc))
    · push Not at hc
      obtain ⟨p, b, rfl⟩ := hc
      cases h
      have hset := hpop'.trans (events_settle { s with pending := rest })
      rcases takeLastCheck_cases (State.settle { s with pending := rest }) p b with hm | ⟨v, ha, hm⟩
      · exact .inl (hset.trans (events_of_moves hm))
      · exact .inr ⟨rest, v, hset, ha, hm⟩

/-- A law that every event and every admission keeps is kept by every step. -/
theorem step_keeps {P : State → Prop} (hevent : ∀ s t, Event s t → P s → P t) (hadmit : ∀ s t, Admits s t → P s → P t)
    {s t : State} (h : step s = .next t) (hs : P s) : P t := by
  have hevents {u v : State} (huv : Events u v) (hu : P u) : P v := by
    induction huv with
    | refl => exact hu
    | tail _ he ih => exact hevent _ _ he ih
  rcases step_events s t h with he | ⟨rest, v, he, ha, hm⟩
  · exact hevents he hs
  · exact hevents (events_of_moves hm) (hadmit _ v ha (hevents he hs))

/-- A law that does not read the membership records is kept by every step when the moves and admissions keep it. -/
theorem step_keeps_of_moves {P : State → Prop} (hmove : ∀ s t, Move s t → P s → P t)
    (hmember : ∀ s a m, P s → P (s.setMember a m)) (hadmit : ∀ s t, Admits s t → P s → P t) {s t : State}
    (h : step s = .next t) (hs : P s) : P t := by
  have hmoves {u v : State} (huv : Moves u v) (hu : P u) : P v := by
    induction huv with
    | refl => exact hu
    | tail _ he ih => exact hmove _ _ he ih
  refine step_keeps (fun u v he hu => ?_) hadmit h hs
  cases he with
  | move hm => exact hmove _ _ hm hu
  | closed a _ => exact hmoves (moves_leaveRound _ a) (hmember u a _ hu)
  | departed a hd =>
    obtain ⟨m, hm⟩ := hd.moves
    exact hmoves hm (hmember u a m hu)

end Sys2Proof.Machine

/-! Counts within the active table, valid tables, the round within the ACTIVE agents, no held table that fits, no ARMED
watch at its level: what each move does to these laws. -/

namespace Sys2Proof.Machine

/-! ## The fit test as a statement (R171) -/

theorem fits_iff (s : State) (x : Table) : s.fits x = true ↔
    (∀ (a : Agent) (k : MsgClass), (s.used.reserved[a]).get k ≤ (x.reserved[a]).get k) ∧
      s.used.commonTotal ≤ x.capacity ∧ (∀ a : Agent, s.used.commonBy[a] ≤ x.cap[a]) ∧
      ∀ a : Agent, s.inUse[a] ≤ x.descLimit[a] := by
  simp [-Fin.getElem_fin, State.fits, mem_agents, mem_classes, and_assoc]

/-- Every count of `t` is at most that of `s`. -/
structure CountsLe (t s : State) : Prop where
  reserved : ∀ (a : Agent) (k : MsgClass), (t.used.reserved[a]).get k ≤ (s.used.reserved[a]).get k
  total : t.used.commonTotal ≤ s.used.commonTotal
  common : ∀ a : Agent, t.used.commonBy[a] ≤ s.used.commonBy[a]
  inUse : ∀ a : Agent, t.inUse[a] ≤ s.inUse[a]

theorem fits_of_countsLe {s t : State} {x : Table} (h : CountsLe t s) (hf : s.fits x = true) : t.fits x = true := by
  obtain ⟨h1, h2, h3, h4⟩ := (fits_iff s x).mp hf
  exact (fits_iff t x).mpr ⟨fun a k => (h.reserved a k).trans (h1 a k), h.total.trans h2,
    fun a => (h.common a).trans (h3 a), fun a => (h.inUse a).trans (h4 a)⟩

theorem UsedCounts.rise_le (u : UsedCounts) (c : Charge) (n : Nat) :
    (∀ (a : Agent) (k : MsgClass), (u.reserved[a]).get k ≤ ((u.rise c n).reserved[a]).get k) ∧
      u.commonTotal ≤ (u.rise c n).commonTotal ∧ ∀ a : Agent, u.commonBy[a] ≤ (u.rise c n).commonBy[a] := by
  cases c with
  | common b =>
    refine ⟨fun a k => le_rfl, Nat.le_add_right _ _, fun a => ?_⟩
    simp only [UsedCounts.rise, vec_get_set]
    split_ifs with h
    · subst h; omega
    · omega
  | reserved b j =>
    refine ⟨fun a k => ?_, le_rfl, fun a => le_rfl⟩
    simp only [UsedCounts.rise, vec_get_set]
    split_ifs with h
    · subst h
      rw [PerClass.get_set]
      split_ifs with h
      · subst h; omega
      · omega
    · omega

theorem UsedCounts.fall_le (u : UsedCounts) (c : Charge) :
    (∀ (a : Agent) (k : MsgClass), ((u.fall c).reserved[a]).get k ≤ (u.reserved[a]).get k) ∧
      (u.fall c).commonTotal ≤ u.commonTotal ∧ ∀ a : Agent, (u.fall c).commonBy[a] ≤ u.commonBy[a] := by
  cases c with
  | common b =>
    refine ⟨fun a k => le_rfl, Nat.sub_le _ _, fun a => ?_⟩
    simp only [UsedCounts.fall, vec_get_set]
    split_ifs with h
    · subst h; omega
    · omega
  | reserved b j =>
    refine ⟨fun a k => ?_, le_rfl, fun a => le_rfl⟩
    simp only [UsedCounts.fall, vec_get_set]
    split_ifs with h
    · subst h
      rw [PerClass.get_set]
      split_ifs with h
      · subst h; omega
      · omega
    · omega

/-! ## What a staging does to the store and the credit unit -/

@[simp] theorem State.stage_used (s : State) (p : Agent) (d : DescId) (m : Message) (flags : Byte) :
    (s.stage p d m flags).used = s.used.rise m.charge (cellsFor m.length) := by simp [State.stage]

@[simp] theorem State.stage_inUse (s : State) (p : Agent) (d : DescId) (m : Message) (flags : Byte) :
    (s.stage p d m flags).inUse = s.inUse.set p (s.inUse[p] + 1) := by simp [State.stage]

@[simp] theorem State.stage_descs (s : State) (p : Agent) (d : DescId) (m : Message) (flags : Byte) :
    (s.stage p d m flags).descs = s.descs.set d (.staging m) := by simp [State.stage]

@[simp] theorem State.stage_freeList (s : State) (p : Agent) (d : DescId) (m : Message) (flags : Byte) :
    (s.stage p d m flags).freeList = s.freeList.drop (cellsFor m.length) := by simp [State.stage]

@[simp] theorem State.stage_cellMap (s : State) (p : Agent) (d : DescId) (m : Message) (flags : Byte) :
    (s.stage p d m flags).cellMap = (s.bindCells m.charge d 0 m.cells).cellMap := by simp [State.stage]

@[simp] theorem State.stage_stagings (s : State) (p : Agent) (d : DescId) (m : Message) (flags : Byte) :
    (s.stage p d m flags).stagings = s.stagings.set p (some (loadedContext d flags)) := by simp [State.stage]

/-- What an accepted header has shown (R52). -/
theorem judgeHeader_accepted {s : State} {p : Agent} {dest cls flags : Byte} {len : Nat} {d : DescId} {m : Message}
    (h : s.judgeHeader p dest cls flags len = .accepted d m) :
    ∃ k e c, e ≠ p ∧ 0 < len ∧ len ≤ maxLength k ∧ s.portIs e .active ∧ s.freeDesc = some d ∧
      s.atDescLimit p = false ∧ s.judgeCredit p k (cellsFor len) = some c ∧ m = s.stagedMessage p e k flags len c := by
  unfold State.judgeHeader at h
  split at h
  · cases h
  · next k _ =>
    split at h
    · cases h
    · split at h
      · cases h
      · next e _ =>
        split_ifs at h with h1 h2
        obtain ⟨hlen, hmax⟩ : len ≠ 0 ∧ len ≤ maxLength k := by simpa using h2
        split at h
        · cases h
        · next hdest =>
          have hactive : s.portIs e .active := by
            unfold State.refuseDest at hdest
            split at hdest
            · cases hdest
            · next ha => exact ha
            · cases hdest
            · cases hdest
          unfold State.judgeRoom at h
          split at h
          · cases h
          · next d' hd =>
            split at h
            · cases h
            · next hlimit =>
              split at h
              · cases h
              · next c hc =>
                cases h
                exact ⟨k, e, c, h1, Nat.pos_of_ne_zero hlen, hmax, hactive, hd, by simpa using hlimit, hc, rfl⟩

/-- The credit judgement charges the common bucket or the reserved one of the class, with room for every cell (R15). -/
theorem judgeCredit_some {s : State} {p : Agent} {k : MsgClass} {n : Nat} {c : Charge} (h : s.judgeCredit p k n = some c) :
    (c = .common p ∧ n ≤ s.commonHeadroom p) ∨ (c = .reserved p k ∧ n ≤ s.reservedHeadroom p k) := by
  unfold State.judgeCredit at h
  split_ifs at h with h1 h2 <;> cases h
  · exact .inl ⟨rfl, h1⟩
  · exact .inr ⟨rfl, h2⟩

theorem commonHeadroom_le (s : State) (a : Agent) : s.commonHeadroom a ≤ headroomCommonUnder s.table s.used a := by
  unfold State.commonHeadroom
  split
  · exact le_rfl
  · exact min_le_left _ _

theorem reservedHeadroom_le (s : State) (a : Agent) (k : MsgClass) :
    s.reservedHeadroom a k ≤ headroomReservedUnder s.table s.used a k := by
  unfold State.reservedHeadroom
  split
  · exact le_rfl
  · exact min_le_left _ _

theorem lt_descLimit_of_atDescLimit {s : State} {p : Agent} (h : s.atDescLimit p = false) :
    s.inUse[p] < s.table.descLimit[p] := by
  unfold State.atDescLimit at h
  simp only [Bool.or_eq_false_iff, decide_eq_false_iff_not, not_le] at h
  exact h.1

/-- R15, R26, R34: an accepted header has room under the active table. -/
theorem fits_rise {s : State} {p : Agent} {k : MsgClass} {n : Nat} {c : Charge} (hf : s.fits s.table = true)
    (hlimit : s.atDescLimit p = false) (hc : s.judgeCredit p k n = some c) :
    ({ s with used := s.used.rise c n, inUse := s.inUse.set p (s.inUse[p] + 1) } : State).fits s.table = true := by
  obtain ⟨h1, h2, h3, h4⟩ := (fits_iff s s.table).mp hf
  have hin := lt_descLimit_of_atDescLimit hlimit
  refine (fits_iff _ _).mpr ⟨?_, ?_, ?_, fun a => ?_⟩
  case refine_4 =>
    show (s.inUse.set p (s.inUse[p] + 1))[a] ≤ _
    rw [vec_get_set]
    split_ifs with ha
    · subst ha; omega
    · exact h4 a
  all_goals rcases judgeCredit_some hc with ⟨rfl, hn⟩ | ⟨rfl, hn⟩
  · exact h1
  · intro a j
    have hroom := hn.trans (reservedHeadroom_le s p k)
    unfold headroomReservedUnder at hroom
    simp only [UsedCounts.rise, vec_get_set]
    split_ifs with ha
    · subst ha
      rw [PerClass.get_set]
      split_ifs with hk
      · subst hk
        have := h1 p k
        omega
      · exact h1 p j
    · exact h1 a j
  · have hroom := hn.trans (commonHeadroom_le s p)
    unfold headroomCommonUnder at hroom
    show s.used.commonTotal + n ≤ _
    omega
  · exact h2
  · intro a
    have hroom := hn.trans (commonHeadroom_le s p)
    unfold headroomCommonUnder at hroom
    simp only [UsedCounts.rise, vec_get_set]
    split_ifs with ha
    · subst ha
      have := h3 p
      omega
    · exact h3 a
  · exact h3

/-! ## Dropping a record and returning a cell lower the counts -/

theorem countsLe_dropRecord (s : State) (d : DescId) (m : Message) : CountsLe (s.dropRecord d m) s := by
  obtain ⟨-, -, -, -, -, -, hin, hother⟩ := dropRecord_dropped s d m
  have hused : (s.dropRecord d m).used = s.used := by simp
  refine ⟨fun a k => by rw [hused], by rw [hused], fun a => by rw [hused], fun a => ?_⟩
  by_cases ha : a = m.source
  · subst ha
    rw [hin]
    omega
  · rw [hother a ha]

theorem countsLe_returnCell (s : State) (c : CellId) : CountsLe (s.returnCell c) s := by
  have hused : (s.returnCell c).used = s.used ∨ ∃ ch, (s.returnCell c).used = s.used.fall ch := by
    unfold State.returnCell
    split
    · exact .inl rfl
    · exact .inl rfl
    · exact .inl rfl
    · next ch _ => exact .inr ⟨ch, rfl⟩
  have hin : (s.returnCell c).inUse = s.inUse := by simp
  rcases hused with hu | ⟨ch, hu⟩
  · exact ⟨fun a k => by rw [hu], by rw [hu], fun a => by rw [hu], fun a => by rw [hin]⟩
  · obtain ⟨h1, h2, h3⟩ := UsedCounts.fall_le s.used ch
    exact ⟨fun a k => by rw [hu]; exact h1 a k, by rw [hu]; exact h2, fun a => by rw [hu]; exact h3 a,
      fun a => by rw [hin]⟩

/-! ## Laws through a release -/

/-- What each part of a release keeps, the release keeps (R42). -/
theorem release_keeps {P : State → Prop} (hqueue : ∀ s a k q, P s → P (s.setQueue a k q))
    (hhand : ∀ s a k h, P s → P (s.setHand a k h)) (hdrop : ∀ s d m, P s → P (s.dropRecord d m))
    (hoffer : ∀ s a n, P s → P (s.offer a n)) (hdrain : ∀ s a, P s → P (s.drainTest a))
    (hfit : ∀ s, P s → P s.runFitTest) {s : State} (d : DescId) (path : RemovalPath) (h : P s) : P (s.release d path) := by
  have hfinish {u : State} (m : Message) (adm : Admission) (hu : P u) : P (u.finishRelease d m adm path) := by
    refine hfit _ (hdrain _ _ ?_)
    unfold State.offerOptional
    split
    · exact hdrop _ _ _ hu
    · exact hoffer _ _ _ (hdrop _ _ _ hu)
  cases hd : s.descs[d] with
  | free => rwa [release_free s d path hd]
  | staging m => rw [release_staging s d m path hd]; exact hfit _ (hdrop _ _ _ h)
  | queued m adm => rw [release_queued s d m adm path hd]; exact hfinish m adm (hqueue _ _ _ _ h)
  | inHand m adm => rw [release_inHand s d m adm path hd]; exact hfinish m adm (hhand _ _ _ _ h)

theorem releaseAll_keeps {P : State → Prop} {path : RemovalPath} (hrelease : ∀ s d, P s → P (s.release d path))
    (ds : List DescId) {s : State} (h : P s) : P (s.releaseAll ds path) := by
  unfold State.releaseAll
  induction ds generalizing s with
  | nil => exact h
  | cons d rest ih => exact ih (hrelease s d h)

/-- An apply that is taken makes active a table that fits (R172). -/
theorem runFitTest_cases (s : State) :
    s.runFitTest = s ∨ ∃ h, s.slot = some h ∧ s.fits h.table = true ∧ s.runFitTest = s.applyTable h.table := by
  unfold State.runFitTest
  split
  · exact .inl rfl
  · next h hs =>
    split
    · next hf => exact .inr ⟨h, hs, hf, rfl⟩
    · exact .inl rfl

theorem fitThenWatches_cases (s : State) :
    s.fitThenWatches = s.evaluateWatches ∨
      ∃ h, s.slot = some h ∧ s.fits h.table = true ∧ s.fitThenWatches = s.applyTable h.table := by
  unfold State.fitThenWatches
  split
  · exact .inl rfl
  · next h hs =>
    split
    · next hf => exact .inr ⟨h, hs, hf, rfl⟩
    · exact .inl rfl

@[simp] theorem applyTable_table (s : State) (x : Table) : (s.applyTable x).table = x := (applyTable_applied s x).1

@[simp] theorem applyTable_slot (s : State) (x : Table) : (s.applyTable x).slot = none := (applyTable_applied s x).2.1

/-- What a round leaves when it ends: the offers of PROPOSAL_CLOSED, and a commit (R168). -/
theorem endRound_keeps {P : State → Prop} {s : State} {v : Proposal} (o : RoundOutcome) (vetoer : Option Agent)
    (hoffer : ∀ s a n, P s → P (s.offer a n)) (hclear : ∀ s, P s → P { s with voting := none })
    (hcommit : ∀ u, P u → u.table = s.table → P (u.commit v.table v.number)) (h : P s) : P (s.endRound v o vetoer) := by
  have htold (l : List Agent) (n : Notice) : P (s.offerAll l n) := by
    unfold State.offerAll
    induction l generalizing s with
    | nil => exact h
    | cons a rest ih => exact ih (fun u hu ht => hcommit u hu (by simpa using ht)) (hoffer s a n h)
  cases o with
  | committed => exact hcommit _ (hclear _ (htold _ _)) (by simp)
  | rejected => exact hclear _ (htold _ _)
  | lapsed => exact hclear _ (htold _ _)
  | withdrawn => exact hclear _ (htold _ _)

/-! ## Counts within the limits of the active table (R26, R34) -/

theorem limitLaw_of_countsLe {s t : State} (h : CountsLe t s) (ht : t.table = s.table) (hl : LimitLaw s) : LimitLaw t := by
  unfold LimitLaw
  rw [ht]
  exact fits_of_countsLe h hl

theorem limitLaw_congr {s t : State} (hu : t.used = s.used) (hi : t.inUse = s.inUse) (ht : t.table = s.table)
    (hl : LimitLaw s) : LimitLaw t := by
  unfold LimitLaw
  rw [fits_congr s t _ hu hi, ht]
  exact hl

theorem limitLaw_applyTable {s : State} {x : Table} (hf : s.fits x = true) : LimitLaw (s.applyTable x) := by
  unfold LimitLaw
  rwa [applyTable_table, fits_congr s _ x (by simp) (by simp)]

theorem limitLaw_runFitTest {s : State} (hl : LimitLaw s) : LimitLaw s.runFitTest := by
  rcases runFitTest_cases s with h | ⟨x, -, hf, h⟩
  · rwa [h]
  · rw [h]
    exact limitLaw_applyTable hf

theorem limitLaw_fitThenWatches {s : State} (hl : LimitLaw s) : LimitLaw s.fitThenWatches := by
  rcases fitThenWatches_cases s with h | ⟨x, -, hf, h⟩
  · rw [h]
    exact limitLaw_congr (by simp) (by simp) (by simp) hl
  · rw [h]
    exact limitLaw_applyTable hf

theorem limitLaw_release {s : State} (d : DescId) (path : RemovalPath) (hl : LimitLaw s) : LimitLaw (s.release d path) :=
  release_keeps (P := LimitLaw) (fun _ _ _ _ => limitLaw_congr rfl rfl rfl) (fun _ _ _ _ => limitLaw_congr rfl rfl rfl)
    (fun u e m => limitLaw_of_countsLe (countsLe_dropRecord u e m) (by simp))
    (fun _ _ _ => limitLaw_congr (by simp) (by simp) (by simp))
    (fun _ _ => limitLaw_congr (by simp) (by simp) (by simp)) (fun _ => limitLaw_runFitTest) d path hl

theorem limitLaw_stage {s : State} {p : Agent} {dest cls flags : Byte} {len : Nat} {d : DescId} {m : Message}
    (hjudged : s.judgeHeader p dest cls flags len = .accepted d m) (hl : LimitLaw s) : LimitLaw (s.stage p d m flags) := by
  obtain ⟨k, e, c, -, -, -, -, -, hlimit, hc, rfl⟩ := judgeHeader_accepted hjudged
  exact limitLaw_congr (by simp [State.stagedMessage]) (by simp) (by simp) (fits_rise hl hlimit hc)

theorem Move.limitLaw {s t : State} (h : Move s t) (hl : LimitLaw s) : LimitLaw t := by
  cases h
  case framed h => exact limitLaw_congr h.used h.inUse h.table hl
  case fitTest => exact limitLaw_runFitTest hl
  case releasedAll ds path _ => exact releaseAll_keeps (P := LimitLaw) (fun _ d => limitLaw_release d path) ds hl
  case stagingEnded p c _ => exact limitLaw_congr rfl rfl rfl (limitLaw_release (s := s) c.desc .unadmitted hl)
  case headerStaged hjudged => exact limitLaw_stage hjudged hl
  case scrubbed c _ =>
    exact limitLaw_congr (by simp) (by simp) (by simp)
      (limitLaw_fitThenWatches (limitLaw_of_countsLe (countsLe_returnCell s c) (by simp) hl))
  case roundEnded v o vetoer _ =>
    exact endRound_keeps (P := LimitLaw) o vetoer (fun _ _ _ => limitLaw_congr (by simp) (by simp) (by simp))
      (fun _ => limitLaw_congr rfl rfl rfl)
      (fun u hu _ => limitLaw_fitThenWatches (limitLaw_congr (s := u) rfl rfl rfl hu)) hl
  case reset => exact (by decide : State.reset.fits Table.default = true)
  all_goals exact limitLaw_congr (by simp) (by simp) (by simp) hl

/-! ## No held table that fits (R172) -/

theorem heldLaw_of_countsLe {s t : State} (h : CountsLe s t) (hs : t.slot = s.slot) (hl : HeldLaw s) : HeldLaw t := by
  intro x hx
  rw [hs] at hx
  by_contra hf
  have := fits_of_countsLe h (by simpa using hf)
  rw [hl x hx] at this
  cases this

theorem heldLaw_congr {s t : State} (hu : t.used = s.used) (hi : t.inUse = s.inUse) (hs : t.slot = s.slot)
    (hl : HeldLaw s) : HeldLaw t :=
  heldLaw_of_countsLe ⟨fun _ _ => by rw [hu], by rw [hu], fun _ => by rw [hu], fun _ => by rw [hi]⟩ hs hl

theorem heldLaw_runFitTest (s : State) : HeldLaw s.runFitTest := heldLaw_of_fitTested (runFitTest_spec s).1

/-- R42 step 6: a release ends with the fit test. -/
theorem heldLaw_release {s : State} (d : DescId) (path : RemovalPath) (hl : HeldLaw s) : HeldLaw (s.release d path) := by
  cases hd : s.descs[d] with
  | free => rwa [release_free s d path hd]
  | staging m => rw [release_staging s d m path hd]; exact heldLaw_runFitTest _
  | queued m adm => rw [release_queued s d m adm path hd]; exact heldLaw_runFitTest _
  | inHand m adm => rw [release_inHand s d m adm path hd]; exact heldLaw_runFitTest _

theorem countsLe_stage (s : State) (p : Agent) (d : DescId) (m : Message) (flags : Byte) :
    CountsLe s (s.stage p d m flags) := by
  obtain ⟨h1, h2, h3⟩ := UsedCounts.rise_le s.used m.charge (cellsFor m.length)
  refine ⟨fun a k => by rw [State.stage_used]; exact h1 a k, by rw [State.stage_used]; exact h2,
    fun a => by rw [State.stage_used]; exact h3 a, fun a => ?_⟩
  rw [State.stage_inUse, vec_get_set]
  split_ifs with ha
  · subst ha; omega
  · exact le_rfl

theorem Move.heldLaw {s t : State} (h : Move s t) (hl : HeldLaw s) : HeldLaw t := by
  cases h
  case framed h => exact heldLaw_congr h.used h.inUse h.slot hl
  case fitTest => exact heldLaw_runFitTest s
  case releasedAll ds path _ => exact releaseAll_keeps (P := HeldLaw) (fun _ d => heldLaw_release d path) ds hl
  case stagingEnded p c _ => exact heldLaw_congr rfl rfl rfl (heldLaw_release (s := s) c.desc .unadmitted hl)
  case headerStaged p _ _ flags _ d m _ _ _ => exact heldLaw_of_countsLe (countsLe_stage s p d m flags) (by simp) hl
  case scrubbed c _ =>
    exact heldLaw_congr (by simp) (by simp) (by simp) (heldLaw_of_fitTested (fitThenWatches_spec (s.returnCell c)).1)
  case roundEnded v o vetoer _ =>
    exact endRound_keeps (P := HeldLaw) o vetoer (fun _ _ _ => heldLaw_congr (by simp) (by simp) (by simp))
      (fun _ => heldLaw_congr rfl rfl rfl) (fun u _ _ => heldLaw_of_committed (commit_told u v).1) hl
  case reset => exact fun x hx => by cases hx
  all_goals exact heldLaw_congr (by simp) (by simp) (by simp) hl

/-! ## No ARMED watch at its level (R21, R22) -/

/-- Watches that are as before or DISARMED, under the levels of before. -/
theorem watchLaw_of_fewer {s t : State}
    (hw : ∀ (a : Agent) (k : MsgClass), (t.watches[a]).get k = (s.watches[a]).get k ∨ (t.watches[a]).get k = none)
    (ht : t.table = s.table) (hs : t.slot = s.slot) (hu : t.used = s.used) (hl : WatchLaw s) : WatchLaw t := by
  intro a k n hn
  rw [creditLevel_congr a k ht hs hu]
  rcases hw a k with h | h
  · exact hl a k n (h ▸ hn)
  · rw [h] at hn
    cases hn

theorem watchLaw_congr {s t : State} (hw : t.watches = s.watches) (ht : t.table = s.table) (hs : t.slot = s.slot)
    (hu : t.used = s.used) (hl : WatchLaw s) : WatchLaw t :=
  watchLaw_of_fewer (fun _ _ => .inl (by rw [hw])) ht hs hu hl

theorem watchLeft_cases (s t : State) (b : Agent) (k : MsgClass) :
    s.watchLeft t b k = (s.watches[b]).get k ∨ s.watchLeft t b k = none := by
  unfold State.watchLeft
  split
  · exact .inr rfl
  · next n h =>
    split
    · exact .inr rfl
    · exact .inl h.symm

theorem watchLaw_testWatch {s : State} (a : Agent) (k : MsgClass) (hl : WatchLaw s) : WatchLaw (s.testWatch a k) := by
  obtain ⟨-, hself, hother⟩ := testWatch_spec s a k
  refine watchLaw_of_fewer (fun b j => ?_) (by simp) (by simp) (by simp) hl
  by_cases hb : b = a
  · subst hb
    rw [hself j]
    split_ifs with hj
    · subst hj
      exact watchLeft_cases s s b j
    · exact .inl rfl
  · exact .inl (by rw [(hother b hb).2.2])

theorem watchLaw_disarmed {s t : State} (a : Agent) (ha : t.watches[a] = .all none)
    (hw : ∀ b : Agent, b ≠ a → t.watches[b] = s.watches[b]) (ht : t.table = s.table) (hs : t.slot = s.slot)
    (hu : t.used = s.used) (hl : WatchLaw s) : WatchLaw t := by
  refine watchLaw_of_fewer (fun b k => ?_) ht hs hu hl
  by_cases hb : b = a
  · subst hb
    exact .inr (by rw [ha, PerClass.get_all])
  · exact .inl (by rw [hw b hb])

theorem watchLaw_drainTest {s : State} (a : Agent) (hl : WatchLaw s) : WatchLaw (s.drainTest a) := by
  by_cases h : s.portIs a .closing ∧ s.holdsNothing a = true
  · have hself := drainTest_told s a a
    rw [if_pos h] at hself
    refine watchLaw_disarmed a (hself.1 rfl).2.2 (fun b hb => ?_) (by simp) (by simp) (by simp) hl
    have hother := drainTest_told s a b
    rw [if_pos h] at hother
    exact (hother.2 hb).2
  · have hkept := drainTest_told s a a
    rw [if_neg h] at hkept
    rwa [hkept]

theorem watchLaw_applyTable (s : State) (x : Table) : WatchLaw (s.applyTable x) :=
  watchLaw_of_evaluated (fun b => (applyTable_told s x b).2)

theorem watchLaw_runFitTest {s : State} (hl : WatchLaw s) : WatchLaw s.runFitTest := by
  rcases runFitTest_cases s with h | ⟨x, -, -, h⟩
  · rwa [h]
  · rw [h]
    exact watchLaw_applyTable s x.table

theorem watchLaw_release {s : State} (d : DescId) (path : RemovalPath) (hl : WatchLaw s) : WatchLaw (s.release d path) :=
  release_keeps (P := WatchLaw) (fun _ _ _ _ => watchLaw_congr rfl rfl rfl rfl)
    (fun _ _ _ _ => watchLaw_congr rfl rfl rfl rfl)
    (fun _ _ _ => watchLaw_congr (by simp) (by simp) (by simp) (by simp))
    (fun _ _ _ => watchLaw_congr (by simp) (by simp) (by simp) (by simp)) (fun _ a => watchLaw_drainTest a)
    (fun _ => watchLaw_runFitTest) d path hl

/-- R19, R20: a watch that stays ARMED at a WATCH has its threshold above the level. -/
theorem watchLaw_setWatchTo {s : State} (p : Agent) (k : MsgClass) (n : Nat) (hl : WatchLaw s) :
    WatchLaw (s.setWatchTo p k n) := by
  intro a j x hx
  rw [creditLevel_congr a j (s := s) (by simp) (by simp) (by simp)]
  by_cases h : a = p ∧ j = k
  · obtain ⟨rfl, rfl⟩ := h
    by_cases h0 : n = 0
    · rw [h0, State.setWatchTo_zero, State.setWatch_get_self] at hx
      cases hx
    · by_cases hlevel : n ≤ s.creditLevel a j
      · rw [State.setWatchTo_reached s a j n h0 hlevel, State.setWatch_get_self] at hx
        cases hx
      · rw [State.setWatchTo_above s a j n h0 (Nat.not_le.mp hlevel), State.setWatch_get_self] at hx
        cases hx
        exact Nat.not_le.mp hlevel
  · rw [State.setWatchTo_get_other s p a k j n (not_and_or.mp h)] at hx
    exact hl a j x hx

theorem watchLaw_stage (s : State) (p : Agent) (d : DescId) (m : Message) (flags : Byte) :
    WatchLaw (s.stage p d m flags) := watchLaw_of_evaluated (fun b => (evaluateWatches_told _ b).2)

theorem reset_watches (csnLow : Agent → Bool) (pending : List Instr) (choices : Nat) (a : Agent) (k : MsgClass) :
    ((State.inReset csnLow pending choices).watches[a]).get k = none := by
  have hnone : ∀ b : Agent, State.reset.watches[b] = .all none := by decide
  show (State.reset.watches[a]).get k = none
  rw [hnone, PerClass.get_all]

theorem Move.watchLaw {s t : State} (h : Move s t) (hl : WatchLaw s) : WatchLaw t := by
  cases h
  case framed h => exact watchLaw_congr h.watches h.table h.slot h.used hl
  case disarmed a =>
    exact watchLaw_disarmed (s := s) a (by simp [-Fin.getElem_fin, State.disarm])
      (fun b hb => by simp [-Fin.getElem_fin, State.disarm, vec_get_set_ne _ _ _ _ (Ne.symm hb)]) rfl rfl rfl hl
  case watchSet a k n _ => exact watchLaw_setWatchTo a k n hl
  case watchTested a k => exact watchLaw_testWatch a k hl
  case drainTested a => exact watchLaw_drainTest a hl
  case fitTest => exact watchLaw_runFitTest hl
  case releasedAll ds path _ => exact releaseAll_keeps (P := WatchLaw) (fun _ d => watchLaw_release d path) ds hl
  case stagingEnded p c _ => exact watchLaw_congr rfl rfl rfl rfl (watchLaw_release (s := s) c.desc .unadmitted hl)
  case headerStaged p _ _ flags _ d m _ _ _ => exact watchLaw_stage s p d m flags
  case scrubbed c _ =>
    exact watchLaw_congr (by simp) (by simp) (by simp) (by simp)
      (watchLaw_of_evaluated (fun b => ((fitThenWatches_spec (s.returnCell c)).2 b).2))
  case roundEnded v o vetoer _ =>
    exact endRound_keeps (P := WatchLaw) o vetoer
      (fun _ _ _ => watchLaw_congr (by simp) (by simp) (by simp) (by simp)) (fun _ => watchLaw_congr rfl rfl rfl rfl)
      (fun u _ _ => watchLaw_of_evaluated (fun b => ((commit_told u v).2 b).2)) hl
  case reset =>
    intro a k n hn
    rw [reset_watches] at hn
    cases hn
  all_goals exact watchLaw_congr (by simp) (by simp) (by simp) (by simp) hl

/-! ## Valid tables (R160) -/

theorem tableLaw_congr {s t : State} (ht : t.table = s.table) (hs : t.slot = s.slot) (hv : t.voting = s.voting)
    (hl : TableLaw s) : TableLaw t := by
  unfold TableLaw
  rw [ht, hs, hv]
  exact hl

theorem tableLaw_applyTable {s : State} {x : Table} (hx : x.valid = true) (hl : TableLaw s) : TableLaw (s.applyTable x) := by
  obtain ⟨-, -, hvoting⟩ := hl
  refine ⟨by rwa [applyTable_table], fun h hh => ?_, by simpa using hvoting⟩
  rw [applyTable_slot] at hh
  cases hh

theorem tableLaw_runFitTest {s : State} (hl : TableLaw s) : TableLaw s.runFitTest := by
  rcases runFitTest_cases s with h | ⟨x, hx, -, h⟩
  · rwa [h]
  · rw [h]
    exact tableLaw_applyTable (hl.2.1 x hx) hl

theorem tableLaw_fitThenWatches {s : State} (hl : TableLaw s) : TableLaw s.fitThenWatches := by
  rcases fitThenWatches_cases s with h | ⟨x, hx, -, h⟩
  · rw [h]
    exact tableLaw_congr (by simp) (by simp) (by simp) hl
  · rw [h]
    exact tableLaw_applyTable (hl.2.1 x hx) hl

theorem tableLaw_release {s : State} (d : DescId) (path : RemovalPath) (hl : TableLaw s) : TableLaw (s.release d path) :=
  release_keeps (P := TableLaw) (fun _ _ _ _ => tableLaw_congr rfl rfl rfl) (fun _ _ _ _ => tableLaw_congr rfl rfl rfl)
    (fun _ _ _ => tableLaw_congr (by simp) (by simp) (by simp))
    (fun _ _ _ => tableLaw_congr (by simp) (by simp) (by simp))
    (fun _ _ => tableLaw_congr (by simp) (by simp) (by simp)) (fun _ => tableLaw_runFitTest) d path hl

theorem tableLaw_commit {u : State} {x : Table} (n : Byte) (hx : x.valid = true) (hl : TableLaw u) :
    TableLaw (u.commit x n) := by
  obtain ⟨htable, -, hvoting⟩ := hl
  exact tableLaw_fitThenWatches ⟨htable, fun h hh => by cases hh; exact hx, hvoting⟩

theorem Move.tableLaw {s t : State} (h : Move s t) (hl : TableLaw s) : TableLaw t := by
  obtain ⟨htable, hslot, hvoting⟩ := id hl
  cases h
  case framed h => exact tableLaw_congr h.table h.slot h.voting hl
  case fitTest => exact tableLaw_runFitTest hl
  case releasedAll ds path _ => exact releaseAll_keeps (P := TableLaw) (fun _ d => tableLaw_release d path) ds hl
  case stagingEnded p c _ => exact tableLaw_congr rfl rfl rfl (tableLaw_release (s := s) c.desc .unadmitted hl)
  case scrubbed c _ =>
    have hcell : TableLaw (s.returnCell c) := tableLaw_congr (by simp) (by simp) (by simp) hl
    exact tableLaw_congr (by simp) (by simp) (by simp) (tableLaw_fitThenWatches hcell)
  case proposed p x _ hvalid => exact ⟨htable, hslot, fun v hv => by cases hv; exact hvalid⟩
  case votingChanged v v' hv _ htab _ _ => exact ⟨htable, hslot, fun w hw => by cases hw; rw [htab]; exact hvoting v hv⟩
  case roundEnded v o vetoer hv =>
    exact endRound_keeps (P := TableLaw) o vetoer (fun _ _ _ => tableLaw_congr (by simp) (by simp) (by simp))
      (fun _ hu => ⟨hu.1, hu.2.1, fun w hw => by cases hw⟩) (fun u hu _ => tableLaw_commit _ (hvoting v hv) hu) hl
  case reset =>
    refine ⟨(by decide : Table.default.valid = true), fun x hx => ?_, fun v hv => ?_⟩
    · cases hx
    · cases hv
  all_goals exact tableLaw_congr (by simp) (by simp) (by simp) hl

/-! ## The round within the ACTIVE agents (R167) -/

theorem roundLaw_of_active {s t : State} (hv : t.voting = s.voting)
    (ha : ∀ b : Agent, s.portIs b .active → t.portIs b .active) (hl : RoundLaw s) : RoundLaw t := by
  intro v h
  obtain ⟨hp, hsets⟩ := hl v (hv ▸ h)
  exact ⟨ha _ hp, fun a => ⟨fun hr => ⟨ha a ((hsets a).1 hr).1, ((hsets a).1 hr).2⟩, (hsets a).2⟩⟩

theorem roundLaw_of_none {t : State} (h : t.voting = none) : RoundLaw t := fun v hv => by
  rw [h] at hv
  cases hv

/-- R167: an agent that leaves ACTIVE leaves the round, or the round ends. -/
theorem roundLaw_of_leftRound {s t : State} {a : Agent} (hr : leftRound s t a)
    (ha : ∀ b : Agent, b ≠ a → s.portIs b .active → t.portIs b .active) (hl : RoundLaw s) : RoundLaw t := by
  intro w hw
  cases hv : s.voting with
  | none =>
    rw [hr.1 hv] at hw
    cases hw
  | some v =>
    obtain ⟨hp, hsets⟩ := hl v hv
    have hleft := hr.2 v hv
    split_ifs at hleft with h1 h2 h3
    · rw [hleft] at hw
      cases hw
    · rw [hleft] at hw
      cases hw
    · rw [hleft] at hw
      cases hw
      refine ⟨ha _ h1 hp, fun b => ⟨fun hb => ?_, fun hb => ?_⟩⟩
      · obtain ⟨hreq, hne⟩ := without_required hb
        exact ⟨ha b hne ((hsets b).1 hreq).1, ((hsets b).1 hreq).2⟩
      · obtain ⟨hcons, hne⟩ := without_consented hb
        rw [vec_get_set_ne _ _ _ _ (Ne.symm hne)]
        exact (hsets b).2 hcons
    · rw [hleft] at hw
      cases hw
      refine ⟨ha _ h1 hp, fun b => ⟨fun hb => ⟨ha b (fun e => h2 (e ▸ hb)) ((hsets b).1 hb).1, ((hsets b).1 hb).2⟩,
        (hsets b).2⟩⟩

theorem setMember_active {s : State} {a : Agent} {m : Member} (hm : s.portIs a .active → m.state = .active) (b : Agent)
    (hb : s.portIs b .active) : (s.setMember a m).portIs b .active := by
  rw [State.portIs, State.setMember_members, vec_get_set]
  split_ifs with h
  · exact hm (h ▸ hb)
  · exact hb

theorem portIs_congr {s t : State} {b : Agent} {x : PortState} (h : t.members = s.members) (hb : s.portIs b x) :
    t.portIs b x := by
  rw [State.portIs, h]
  exact hb

/-- R135: a drain test takes no agent out of ACTIVE. -/
theorem drainTest_active {s : State} (a b : Agent) (hb : s.portIs b .active) : (s.drainTest a).portIs b .active := by
  obtain ⟨hother, hself⟩ := drain_spec s a
  by_cases h : b = a
  · subst h
    rw [if_neg (fun hc => by rw [State.portIs, hc.1] at hb; cases hb)] at hself
    rwa [hself]
  · rw [State.portIs, (hother b h).1]
    exact hb

theorem active_not_closing {s : State} {b : Agent} (hb : s.portIs b .active) : ¬ s.portIs b .closing := fun hc => by
  rw [State.portIs, hb] at hc
  cases hc

/-- R159: a proposal opened names the ACTIVE agents other than its proposer. -/
theorem roundLaw_newProposal {s t : State} {p : Agent} {x : Table} (hp : s.portIs p .active)
    (hm : t.members = s.members) (hv : t.voting = some (s.newProposal p x)) : RoundLaw t := by
  intro v hv'
  rw [hv] at hv'
  cases hv'
  have hreq (a : Agent) : (s.requiredSet p)[a] = s.requiredFor p a := by
    revert a
    simp [Fin.forall_fin_succ, State.requiredSet]
  have hcons (a : Agent) : noAgents[a] = false := by
    revert a
    decide
  refine ⟨portIs_congr hm hp, fun a => ⟨fun ha => ?_, fun ha => ?_⟩⟩
  · have ha' : s.requiredFor p a = true := (hreq a).symm.trans ha
    obtain ⟨hne, hact⟩ := by simpa [-Fin.getElem_fin, State.requiredFor] using ha'
    exact ⟨portIs_congr hm hact, hne⟩
  · have ha' : noAgents[a] = true := ha
    rw [hcons] at ha'
    cases ha'

theorem Move.roundLaw {s t : State} (h : Move s t) (hl : RoundLaw s) : RoundLaw t := by
  cases h
  case framed h => exact roundLaw_of_active h.voting (fun b => portIs_congr h.members) hl
  case memberKept a m hm _ => exact roundLaw_of_active (s := s) rfl (setMember_active (fun ha => hm.trans ha)) hl
  case activated a m hm => exact roundLaw_of_active (s := s) rfl (setMember_active (fun _ => hm)) hl
  case resumed a m n hm _ => exact roundLaw_of_active (s := s) rfl (setMember_active (fun _ => hm)) hl
  case drainTested a => exact roundLaw_of_active (by simp) (drainTest_active a) hl
  case releasedAll ds path _ =>
    refine roundLaw_of_active (by simp) (fun b hb => ?_) hl
    rw [State.portIs, releaseAll_member s ds path b (active_not_closing hb)]
    exact hb
  case stagingEnded p c _ =>
    refine roundLaw_of_active (by simp) (fun b hb => ?_) hl
    rw [State.portIs, State.setStaging_members, release_member s c.desc .unadmitted b (active_not_closing hb)]
    exact hb
  case proposed p x hp _ => exact roundLaw_newProposal hp rfl rfl
  case votingChanged v v' hv hp _ hreq hcons =>
    intro w hw
    cases hw
    obtain ⟨hactive, hsets⟩ := hl v hv
    refine ⟨by rw [hp]; exact hactive, fun a => ⟨fun ha => ?_, hcons (fun b => (hsets b).2) a⟩⟩
    rw [hp]
    exact (hsets a).1 (hreq a ha)
  case roundEnded v o vetoer _ => exact roundLaw_of_none (endRound_voting s v o vetoer)
  case reset => exact roundLaw_of_none rfl
  all_goals exact roundLaw_of_active (by simp) (fun b => portIs_congr (by simp)) hl

theorem Event.roundLaw {s t : State} (h : Event s t) (hl : RoundLaw s) : RoundLaw t := by
  cases h with
  | move h => exact h.roundLaw hl
  | closed a _ =>
    refine roundLaw_of_leftRound (leaveRound_leftRound s _ a rfl) (fun b hb hactive => ?_) hl
    simpa [-Fin.getElem_fin, State.portIs, vec_get_set_ne _ _ _ _ (Ne.symm hb)] using hactive
  | departed a hd => exact roundLaw_of_leftRound hd.round hd.others hl

/-! ## Every step -/

/-- Settles O55: each law survives every move, the departures and an admission, of which a step is made. -/
theorem everyStepKeepsLimitsTablesAndRound : Obligations.EveryStepKeepsLimitsTablesAndRound := by
  intro s t h
  refine ⟨step_keeps_of_moves (fun _ _ => Move.limitLaw) (fun _ _ _ => limitLaw_congr rfl rfl rfl) ?_ h,
    fun htable hround => ⟨step_keeps_of_moves (fun _ _ => Move.tableLaw) (fun _ _ _ => tableLaw_congr rfl rfl rfl) ?_ h
      htable, step_keeps (fun _ _ => Event.roundLaw) ?_ h hround⟩,
    step_keeps_of_moves (fun _ _ => Move.heldLaw) (fun _ _ _ => heldLaw_congr rfl rfl rfl) ?_ h,
    step_keeps_of_moves (fun _ _ => Move.watchLaw) (fun _ _ _ => watchLaw_congr rfl rfl rfl rfl) ?_ h⟩
  · rintro u v ⟨⟩
    exact limitLaw_congr rfl rfl rfl
  · rintro u v ⟨⟩
    exact tableLaw_congr rfl rfl rfl
  · rintro u v ⟨⟩
    exact roundLaw_of_active rfl (fun _ => id)
  · rintro u v ⟨⟩
    exact heldLaw_congr rfl rfl rfl
  · rintro u v ⟨⟩
    exact watchLaw_congr rfl rfl rfl rfl

end Sys2Proof.Machine

/-! The shape of the notice queues, and absent agents without notices, watches, snapshot and lease, agent by agent: what
each move and each departure does to them. -/

namespace Sys2Proof.Machine

/-- R144, R142: the notice queue of agent `b` is in shape, and an absent agent has no notice, watch, snapshot or lease. -/
structure AgentLaw (s : State) (b : Agent) : Prop where
  shape : noticeShape s.notices[b]
  absent : s.isMember b = false →
    s.notices[b] = [] ∧ s.watches[b] = .all none ∧ s.snapshots[b] = .all false ∧ (s.members[b]).leaseLeft = 0

theorem agentLaw_iff (s : State) : (NoticeLaw s ∧ AbsenceLaw s) ↔ ∀ b : Agent, AgentLaw s b :=
  ⟨fun ⟨hn, ha⟩ b => ⟨(hn b).1, ha b⟩,
    fun h => ⟨fun b => ⟨(h b).shape, fun hb => ((h b).absent hb).1⟩, fun b => (h b).absent⟩⟩

theorem isMember_of_member {s t : State} {b : Agent} (h : t.members[b] = s.members[b]) : t.isMember b = s.isMember b := by
  unfold State.isMember
  rw [h]

/-! ## Offers -/

theorem noticeShape_nil : noticeShape [] := ⟨by simp, by simp, by simp⟩

theorem noticeShape_append {q : List Notice} {n : Notice} (h : noticeShape q) (ho : endsInOverrun q = false)
    (hn : q.length < 15 ∨ n.isOverrun = true) : noticeShape (q ++ [n]) := by
  obtain ⟨hlen, hdrop, hfull⟩ := h
  have hlt : q.length < 16 := by
    rcases Nat.lt_or_ge q.length 16 with h16 | h16
    · exact h16
    · rw [hfull (by omega)] at ho
      cases ho
  refine ⟨by simp; omega, fun x hx => ?_, fun h16 => ?_⟩
  · rw [List.dropLast_concat] at hx
    rcases List.eq_nil_or_concat q with rfl | ⟨r, y, rfl⟩
    · cases hx
    · rw [List.concat_eq_append] at hx ho hdrop
      rcases List.mem_append.mp hx with hx | hx
      · exact hdrop x (by rwa [List.dropLast_concat])
      · rw [List.mem_singleton.mp hx]
        simpa [endsInOverrun] using ho
  · have : n.isOverrun = true := hn.resolve_left (by simp at h16; omega)
    simpa [endsInOverrun] using this

theorem bumpOverrun_isOverrun (n : Notice) : (bumpOverrun n).isOverrun = n.isOverrun := by
  cases n <;> rfl

/-- R144: an offer keeps the shape of the queue. -/
theorem offer_shape (s : State) (b : Agent) (n : Notice) (h : noticeShape s.notices[b]) :
    noticeShape (s.offer b n).notices[b] := by
  have hset {q : List Notice} (hq : noticeShape q) : noticeShape (s.setNotices b q).notices[b] := by
    rwa [State.setNotices_notices, vec_get_set_same]
  generalize ht : s.offer b n = t
  unfold State.offer at ht
  split_ifs at ht with hm ho hl
  · unfold State.foldOffer at ht
    split at ht
    · subst ht
      exact hset (noticeShape_mapLast _ bumpOverrun_isOverrun _ h)
    · subst ht
      exact h
  · subst ht
    exact hset (noticeShape_append h (by simpa using ho) (.inl hl))
  · subst ht
    exact hset (noticeShape_append h (by simpa using ho) (.inr rfl))
  · subst ht
    exact h

theorem offerEach_shape (s : State) (b : Agent) (ns : List Notice) (h : noticeShape s.notices[b]) :
    noticeShape (s.offerEach (ns.map (fun n => (b, n)))).notices[b] := by
  induction ns generalizing s with
  | nil => exact h
  | cons n rest ih => exact ih (s.offer b n) (offer_shape s b n h)

/-! ## Changes that keep the law of one agent -/

/-- Agent `b` was offered some notices, and no watch of it was armed. -/
theorem agentLaw_of_told {s t : State} {b : Agent} {ns : List Notice} (ht : toldEach s t b ns)
    (hm : t.members[b] = s.members[b]) (hsnap : t.snapshots[b] = s.snapshots[b])
    (hw : s.watches[b] = .all none → t.watches[b] = .all none) (h : AgentLaw s b) : AgentLaw t b := by
  refine ⟨by rw [ht.1]; exact offerEach_shape s b ns h.shape, fun habs => ?_⟩
  have hb : s.isMember b = false := (isMember_of_member hm).symm.trans habs
  obtain ⟨h1, h2, h3, h4⟩ := h.absent hb
  exact ⟨(toldEach_nonmember ht hb).trans h1, hw h2, hsnap.trans h3, by rw [hm]; exact h4⟩

theorem agentLaw_of_evaluated {s t : State} {b : Agent} {first last : List Notice}
    (ht : toldAndEvaluated s t b first last) (hm : t.members = s.members) (hsnap : t.snapshots = s.snapshots)
    (h : AgentLaw s b) : AgentLaw t b :=
  agentLaw_of_told ht.1 (by rw [hm]) (by rw [hsnap]) (evaluated_disarmed ht.2) h

theorem agentLaw_congr {s t : State} {b : Agent} (hn : t.notices[b] = s.notices[b]) (hw : t.watches[b] = s.watches[b])
    (hsnap : t.snapshots[b] = s.snapshots[b]) (hm : t.members[b] = s.members[b]) (h : AgentLaw s b) : AgentLaw t b := by
  refine ⟨by rw [hn]; exact h.shape, fun habs => ?_⟩
  rw [hn, hw, hsnap, hm]
  exact h.absent ((isMember_of_member hm).symm.trans habs)

theorem agentLaw_of_fields {s t : State} {b : Agent} (hn : t.notices = s.notices) (hw : t.watches = s.watches)
    (hsnap : t.snapshots = s.snapshots) (hm : t.members = s.members) (h : AgentLaw s b) : AgentLaw t b :=
  agentLaw_congr (by rw [hn]) (by rw [hw]) (by rw [hsnap]) (by rw [hm]) h

/-- A member needs only the shape. -/
theorem agentLaw_of_member {t : State} {b : Agent} (hm : t.isMember b = true) (hshape : noticeShape t.notices[b]) :
    AgentLaw t b := ⟨hshape, fun h => absurd (hm.symm.trans h) (by simp)⟩

theorem agentLaw_of_departed {t : State} {b : Agent} (hn : t.notices[b] = []) (hw : t.watches[b] = .all none)
    (hsnap : t.snapshots[b] = .all false) (hlease : (t.members[b]).leaseLeft = 0) : AgentLaw t b :=
  ⟨by rw [hn]; exact noticeShape_nil, fun _ => ⟨hn, hw, hsnap, hlease⟩⟩

/-! ## The shared operations -/

theorem agentLaw_offer {s : State} {b : Agent} (a : Agent) (n : Notice) (h : AgentLaw s b) : AgentLaw (s.offer a n) b := by
  by_cases hb : b = a
  · subst hb
    exact agentLaw_of_told (toldEach_offer s b n) (by simp) (by simp) (fun hw => by simpa using hw) h
  · exact agentLaw_congr (State.offer_notices_ne s a b n hb) (by simp) (by simp) (by simp) h

theorem agentLaw_testWatch {s : State} {b : Agent} (a : Agent) (k : MsgClass) (h : AgentLaw s b) :
    AgentLaw (s.testWatch a k) b := by
  obtain ⟨htold, hself, hother⟩ := testWatch_spec s a k
  by_cases hb : b = a
  · subst hb
    exact agentLaw_of_told htold (by simp) (by simp) (fun hw => (testWatch_absent s b b k hw).1) h
  · obtain ⟨hn, -, hw⟩ := hother b hb
    exact agentLaw_congr hn hw (by simp) (by simp) h

theorem agentLaw_drainTest {s : State} {b : Agent} (a : Agent) (h : AgentLaw s b) : AgentLaw (s.drainTest a) b := by
  obtain ⟨hother, hself⟩ := drain_spec s a
  have htold := drainTest_told s a b
  by_cases hc : s.portIs a .closing ∧ s.holdsNothing a = true
  · rw [if_pos hc] at hself htold
    by_cases hb : b = a
    · subst hb
      obtain ⟨⟨hm, hn, hsnap, hw⟩, -⟩ := hself
      exact agentLaw_of_departed hn hw hsnap (by rw [hm])
    · obtain ⟨htold, hw⟩ := htold.2 hb
      exact agentLaw_of_told htold (hother b hb).1 (hother b hb).2 (fun hx => hw.trans hx) h
  · rw [if_neg hc] at hself
    rwa [hself]

theorem agentLaw_runFitTest {s : State} {b : Agent} (h : AgentLaw s b) : AgentLaw s.runFitTest b := by
  obtain ⟨-, -, hkept, htold⟩ := runFitTest_spec s
  cases ha : s.appliesTo s with
  | false => rwa [hkept ha]
  | true => exact agentLaw_of_evaluated (htold ha b) (by simp) (by simp) h

theorem agentLaw_release {s : State} {b : Agent} (d : DescId) (path : RemovalPath) (h : AgentLaw s b) :
    AgentLaw (s.release d path) b :=
  release_keeps (P := (AgentLaw · b)) (fun _ _ _ _ => agentLaw_of_fields rfl rfl rfl rfl)
    (fun _ _ _ _ => agentLaw_of_fields rfl rfl rfl rfl)
    (fun _ _ _ => agentLaw_of_fields (by simp) (by simp) (by simp) (by simp)) (fun _ a n => agentLaw_offer a n)
    (fun _ a => agentLaw_drainTest a) (fun _ => agentLaw_runFitTest) d path h

theorem agentLaw_setWatchTo {s : State} {b : Agent} (a : Agent) (k : MsgClass) (n : Nat) (hm : s.isMember a = true)
    (h : AgentLaw s b) : AgentLaw (s.setWatchTo a k n) b := by
  have harmed (w : Option Nat) : AgentLaw (s.setWatch a k w) b := by
    by_cases hb : b = a
    · subst hb
      exact agentLaw_of_member hm h.shape
    · exact agentLaw_congr (s := s) rfl
        (by rw [State.setWatch_watches, vec_get_set_ne _ _ _ _ (Ne.symm hb)]) rfl rfl h
  unfold State.setWatchTo
  split
  · exact harmed none
  · exact agentLaw_testWatch a k (harmed _)

/-! ## Moves and departures -/

theorem agentLaw_setMember {s : State} {a b : Agent} {m : Member} (hself : b = a → AgentLaw (s.setMember a m) b)
    (h : AgentLaw s b) : AgentLaw (s.setMember a m) b := by
  by_cases hb : b = a
  · exact hself hb
  · exact agentLaw_congr (s := s) rfl rfl rfl
      (by rw [State.setMember_members, vec_get_set_ne _ _ _ _ (Ne.symm hb)]) h

theorem isMember_setMember_active {s : State} {a : Agent} {m : Member} (h : m.state = .active) :
    (s.setMember a m).isMember a = true := by
  unfold State.isMember
  rw [State.setMember_members, vec_get_set_same, h]

theorem Move.agentLaw {s t : State} {b : Agent} (hmove : Move s t) (h : AgentLaw s b) : AgentLaw t b := by
  cases hmove
  case framed hb => exact agentLaw_of_fields hb.notices hb.watches hb.snapshots hb.members h
  case offered a n => exact agentLaw_offer a n h
  case noticesSet a q hshape hmember =>
    by_cases hb : b = a
    · subst hb
      refine ⟨by simpa [-Fin.getElem_fin] using hshape h.shape, fun habs => ?_⟩
      obtain ⟨h1, h2, h3, h4⟩ := h.absent habs
      have hq := hmember.resolve_left (fun hm => by rw [State.isMember] at habs hm; exact absurd (hm.symm.trans habs) (by simp))
      exact ⟨by simpa [-Fin.getElem_fin] using hq h1, h2, h3, h4⟩
    · exact agentLaw_congr (s := s) (by simp [-Fin.getElem_fin, vec_get_set_ne _ _ _ _ (Ne.symm hb)]) rfl rfl rfl h
  case snapshotSet a x hx =>
    by_cases hb : b = a
    · subst hb
      rcases hx with hm | rfl
      · exact agentLaw_of_member hm h.shape
      · refine ⟨h.shape, fun habs => ?_⟩
        obtain ⟨h1, h2, -, h4⟩ := h.absent habs
        exact ⟨h1, h2, by simp [-Fin.getElem_fin], h4⟩
    · exact agentLaw_congr (s := s) rfl rfl (by simp [-Fin.getElem_fin, vec_get_set_ne _ _ _ _ (Ne.symm hb)]) rfl h
  case disarmed a =>
    by_cases hb : b = a
    · subst hb
      refine ⟨h.shape, fun habs => ?_⟩
      obtain ⟨h1, -, h3, h4⟩ := h.absent habs
      exact ⟨h1, by simp [-Fin.getElem_fin, State.disarm], h3, h4⟩
    · exact agentLaw_congr (s := s) rfl
        (by simp [-Fin.getElem_fin, State.disarm, vec_get_set_ne _ _ _ _ (Ne.symm hb)]) rfl rfl h
  case watchSet a k n hm => exact agentLaw_setWatchTo a k n hm h
  case watchTested a k => exact agentLaw_testWatch a k h
  case memberKept a m hstate hlease =>
    refine agentLaw_setMember (fun hb => ?_) h
    subst hb
    have hsame : (s.setMember b m).isMember b = s.isMember b := by
      unfold State.isMember
      rw [State.setMember_members, vec_get_set_same, hstate]
    refine ⟨h.shape, fun habs => ?_⟩
    rw [hsame] at habs
    obtain ⟨h1, h2, h3, h4⟩ := h.absent habs
    have hzero := hlease.resolve_left (fun hm => absurd (hm.symm.trans habs) (by simp))
    exact ⟨h1, h2, h3, by simpa [-Fin.getElem_fin] using hzero h4⟩
  case activated a m hm =>
    exact agentLaw_setMember (fun hb => hb ▸ agentLaw_of_member (isMember_setMember_active hm) (hb ▸ h.shape)) h
  case resumed a m n hm habsent =>
    by_cases hb : b = a
    · subst hb
      refine agentLaw_of_member (isMember_setMember_active hm) ?_
      have hempty := (h.absent habsent).1
      have hn : ((s.setMember b m).place b n).notices[b] = [n] := by
        simp [-Fin.getElem_fin, State.place, hempty]
      rw [hn]
      exact ⟨by simp, by simp, by simp⟩
    · exact agentLaw_congr (s := s)
        (by simp [-Fin.getElem_fin, State.place, vec_get_set_ne _ _ _ _ (Ne.symm hb)]) rfl rfl
        (by simp [-Fin.getElem_fin, State.place, vec_get_set_ne _ _ _ _ (Ne.symm hb)]) h
  case fitTest => exact agentLaw_runFitTest h
  case drainTested a => exact agentLaw_drainTest a h
  case releasedAll ds path _ => exact releaseAll_keeps (P := (AgentLaw · b)) (fun _ d => agentLaw_release d path) ds h
  case stagingEnded p c _ =>
    have hrelease : AgentLaw (s.release c.desc .unadmitted) b := agentLaw_release c.desc .unadmitted h
    exact agentLaw_of_fields (s := s.release c.desc .unadmitted) rfl rfl rfl rfl hrelease
  case headerStaged p _ _ flags _ d m _ _ _ =>
    exact agentLaw_of_evaluated (evaluateWatches_told _ b) (by simp) (by simp)
      (agentLaw_of_fields (by simp) (by simp) (by simp) (by simp) h)
  case scrubbed c _ =>
    have hcell : AgentLaw (s.returnCell c) b := agentLaw_of_fields (by simp) (by simp) (by simp) (by simp) h
    exact agentLaw_of_fields (by simp) (by simp) (by simp) (by simp)
      (agentLaw_of_evaluated ((fitThenWatches_spec (s.returnCell c)).2 b) (by simp) (by simp) hcell)
  case roundEnded v o vetoer _ =>
    exact endRound_keeps (P := (AgentLaw · b)) o vetoer (fun _ a n => agentLaw_offer a n)
      (fun _ => agentLaw_of_fields rfl rfl rfl rfl)
      (fun u hu _ => agentLaw_of_evaluated ((commit_told u v).2 b) (by simp) (by simp) hu) h
  case reset =>
    have hreset : ∀ b : Agent, State.reset.notices[b] = [] ∧ State.reset.watches[b] = .all none ∧
        State.reset.snapshots[b] = .all false ∧ (State.reset.members[b]).leaseLeft = 0 := by decide
    obtain ⟨h1, h2, h3, h4⟩ := hreset b
    exact agentLaw_of_departed h1 h2 h3 h4
  all_goals exact agentLaw_of_fields (by simp) (by simp) (by simp) (by simp) h

theorem moves_agentLaw {s t : State} {b : Agent} (hmoves : Moves s t) (h : AgentLaw s b) : AgentLaw t b := by
  induction hmoves with
  | refl => exact h
  | tail _ hmove ih => exact hmove.agentLaw ih

theorem Event.agentLaw {s t : State} (he : Event s t) (h : ∀ b, AgentLaw s b) (b : Agent) : AgentLaw t b := by
  have hset (a : Agent) (m : Member) (hb : b ≠ a) : AgentLaw (s.setMember a m) b :=
    agentLaw_setMember (fun hx => absurd hx hb) (h b)
  cases he with
  | move hm => exact hm.agentLaw (h b)
  | closed a ha =>
    refine moves_agentLaw (moves_leaveRound _ a) ?_
    by_cases hb : b = a
    · subst hb
      refine agentLaw_of_member ?_ (h b).shape
      unfold State.isMember
      rw [State.setMember_members, vec_get_set_same]
    · exact hset a _ hb
  | departed a hd =>
    by_cases hb : b = a
    · subst hb
      exact agentLaw_of_departed hd.notices hd.watches hd.snapshot hd.lease
    · obtain ⟨m, hmoves⟩ := hd.moves
      exact moves_agentLaw hmoves (hset a m hb)

/-- Settles O56: the two laws hold agent by agent, through every move, departure and admission. -/
theorem everyStepKeepsNoticesInShape : Obligations.EveryStepKeepsNoticesInShape := by
  intro s t hn ha h
  refine (agentLaw_iff t).mpr ?_
  refine step_keeps (P := fun u => ∀ b, AgentLaw u b) (fun _ _ => Event.agentLaw) ?_ h ((agentLaw_iff s).mp ⟨hn, ha⟩)
  rintro u v ⟨⟩ hu b
  exact agentLaw_of_fields (s := u) rfl rfl rfl rfl (hu b)

end Sys2Proof.Machine

/-! Tags: the first unused value from the counter on (R31), and the tags of one source apart (R32). -/

namespace Sys2Proof.Machine

/-! ## The tag counter (R31) -/

theorem tagAfter_toNat (t : Half) : (tagAfter t).toNat = if t.toNat = 65535 then 1 else t.toNat + 1 := by
  unfold tagAfter
  by_cases h : t = 0xFFFF
  · subst h
    decide
  · have hn : t.toNat ≠ 65535 := fun e => h (BitVec.eq_of_toNat_eq e)
    rw [if_neg h, if_neg hn]
    have := t.isLt
    have hadd : (t + 1).toNat = (t.toNat + 1) % 65536 := BitVec.toNat_add t 1
    omega

/-- The counter advanced `n` times, with at most one wrap. -/
theorem tagAfter_iterate_toNat (n : Nat) (t : Half) (hn : n ≤ 65535) :
    ((tagAfter^[n]) t).toNat = if t.toNat + n ≤ 65535 then t.toNat + n else t.toNat + n - 65535 := by
  induction n with
  | zero =>
    have := t.isLt
    rw [if_pos (by omega)]
    rfl
  | succ n ih =>
    rw [Function.iterate_succ_apply', tagAfter_toNat, ih (by omega)]
    have := t.isLt
    split_ifs <;> omega

theorem tagAfter_iterate_inj {t : Half} {i j : Nat} (hi : i ≤ 128) (hj : j ≤ 128)
    (h : (tagAfter^[i]) t = (tagAfter^[j]) t) : i = j := by
  have h' := congrArg BitVec.toNat h
  rw [tagAfter_iterate_toNat i t (by omega), tagAfter_iterate_toNat j t (by omega)] at h'
  split_ifs at h' <;> omega

theorem tagAfter_ne_zero (t : Half) : tagAfter t ≠ 0 := fun h => by
  have h' := congrArg BitVec.toNat h
  rw [tagAfter_toNat] at h'
  simp at h'
  split_ifs at h'

theorem tagInUse_iff (s : State) (a : Agent) (t : Half) : s.tagInUse a t = true ↔
    ∃ d m adm, s.admitted d = some (m, adm) ∧ m.source = a ∧ adm.tag = t := by
  unfold State.tagInUse State.admitted
  rw [List.any_eq_true]
  refine exists_congr fun d => ?_
  cases s.descs[d] <;> simp

theorem tagFrom_spec (s : State) (a : Agent) (fuel : Nat) (t : Half) :
    ∃ n ≤ fuel, s.tagFrom a fuel t = (tagAfter^[n]) t ∧ (∀ i < n, s.tagInUse a ((tagAfter^[i]) t) = true) ∧
      (n < fuel → s.tagInUse a ((tagAfter^[n]) t) = false) := by
  induction fuel generalizing t with
  | zero => exact ⟨0, le_rfl, rfl, fun i hi => absurd hi (Nat.not_lt_zero i), fun h => absurd h (Nat.lt_irrefl 0)⟩
  | succ fuel ih =>
    unfold State.tagFrom
    by_cases h : s.tagInUse a t = true
    · obtain ⟨n, hn, heq, hused, hfree⟩ := ih (tagAfter t)
      rw [if_pos h]
      refine ⟨n + 1, by omega, heq, fun i hi => ?_, fun hlt => hfree (by omega)⟩
      cases i with
      | zero => exact h
      | succ i => exact hused i (by omega)
    · rw [if_neg h]
      exact ⟨0, by omega, rfl, fun i hi => absurd hi (Nat.not_lt_zero i), fun _ => by simpa using h⟩

/-- There are 128 descriptors, so among 129 values from the counter on one is not in use. -/
theorem exists_unused_tag (s : State) (a : Agent) (t : Half) : ∃ i ≤ 128, s.tagInUse a ((tagAfter^[i]) t) = false := by
  by_contra hall
  have hused (i : Fin 129) : ∃ d m adm, s.admitted d = some (m, adm) ∧ m.source = a ∧ adm.tag = (tagAfter^[i.val]) t := by
    rw [← tagInUse_iff]
    by_contra h
    exact hall ⟨i.val, by omega, by simpa using h⟩
  choose d m adm hd hm ht using hused
  have hinj : Function.Injective d := fun i j hij => by
    have heq : (m i, adm i) = (m j, adm j) := Option.some.inj ((hd i).symm.trans (hij ▸ hd j))
    have htag : (tagAfter^[i.val]) t = (tagAfter^[j.val]) t := by rw [← ht i, ← ht j, (Prod.mk.inj heq).2]
    exact Fin.ext (tagAfter_iterate_inj (by omega) (by omega) htag)
  exact absurd (Fintype.card_le_of_injective d hinj) (by simp)

theorem assignTag_spec (s : State) (a : Agent) :
    ∃ n ≤ 128, s.assignTag a = (tagAfter^[n]) s.nextTag[a] ∧
      (∀ i < n, s.tagInUse a ((tagAfter^[i]) s.nextTag[a]) = true) ∧ s.tagInUse a (s.assignTag a) = false := by
  obtain ⟨n, hn, heq, hused, hfree⟩ := tagFrom_spec s a 129 s.nextTag[a]
  have hlt : n < 129 := by
    by_contra h
    obtain ⟨i, hi, hunused⟩ := exists_unused_tag s a s.nextTag[a]
    rw [hused i (by omega)] at hunused
    cases hunused
  refine ⟨n, by omega, heq, hused, ?_⟩
  rw [State.assignTag, heq]
  exact hfree hlt

/-- Settles O24: the search stops at the first unused value, and one of the first 129 is unused. -/
theorem tagIsTheFirstUnusedValue : Obligations.TagIsTheFirstUnusedValue := by
  intro s a
  obtain ⟨n, hn, heq, hused, hfree⟩ := assignTag_spec s a
  refine ⟨n, hn, heq, fun i hi => (tagInUse_iff s a _).mp (hused i hi), fun d m adm hd hm ht => ?_⟩
  rw [(tagInUse_iff s a _).mpr ⟨d, m, adm, hd, hm, ht⟩] at hfree
  cases hfree

/-! ## Tags of one source apart (R32) -/

/-- Every admitted message of `t` was admitted in `s`, with the same source and admission. -/
theorem tagLaw_of_fewer {s t : State} (hn : t.nextTag = s.nextTag)
    (hd : ∀ d m adm, t.admitted d = some (m, adm) → ∃ m', s.admitted d = some (m', adm) ∧ m'.source = m.source)
    (hl : TagLaw s) : TagLaw t := by
  obtain ⟨hnext, hzero, hapart⟩ := hl
  refine ⟨fun a => by rw [hn]; exact hnext a, fun d m adm h => ?_, fun d d' m m' adm adm' h h' hm ht => ?_⟩
  · obtain ⟨m', h', -⟩ := hd d m adm h
    exact hzero d m' adm h'
  · obtain ⟨w, hw, hsource⟩ := hd d m adm h
    obtain ⟨w', hw', hsource'⟩ := hd d' m' adm' h'
    exact hapart d d' w w' adm adm' hw hw' (by rw [hsource, hsource', hm]) ht

theorem admitted_congr {s t : State} {d : DescId} (h : t.descs[d] = s.descs[d]) : t.admitted d = s.admitted d := by
  unfold State.admitted
  rw [h]

/-- A descriptor that is FREE or as before. -/
theorem tagLaw_of_freed {s t : State} (hn : t.nextTag = s.nextTag)
    (hd : ∀ d : DescId, t.descs[d] = .free ∨ t.descs[d] = s.descs[d]) (hl : TagLaw s) : TagLaw t :=
  tagLaw_of_fewer hn (fun d m adm h => by
    rcases hd d with hf | he
    · unfold State.admitted at h
      rw [hf] at h
      cases h
    · exact ⟨m, (admitted_congr he).symm.trans h, rfl⟩) hl

theorem tagLaw_congr {s t : State} (hn : t.nextTag = s.nextTag) (hd : t.descs = s.descs) (hl : TagLaw s) : TagLaw t :=
  tagLaw_of_freed hn (fun d => .inr (by rw [hd])) hl

/-- One descriptor changed, its source and admission kept. -/
theorem tagLaw_setDesc {s t : State} {d : DescId} {x : Descriptor} (hn : t.nextTag = s.nextTag)
    (hd : t.descs = s.descs.set d x)
    (hx : ∀ m adm, (s.setDesc d x).admitted d = some (m, adm) → ∃ m', s.admitted d = some (m', adm) ∧ m'.source = m.source)
    (hl : TagLaw s) : TagLaw t := by
  refine tagLaw_of_fewer hn (fun e m adm h => ?_) hl
  have h' : (s.setDesc d x).admitted e = some (m, adm) :=
    (admitted_congr (by rw [hd, State.setDesc_descs])).symm.trans h
  by_cases he : d = e
  · subst he
    exact hx m adm h'
  · have hsame : (s.setDesc d x).admitted e = s.admitted e :=
      admitted_congr (by rw [State.setDesc_descs, vec_get_set_ne _ _ _ _ he])
    exact ⟨m, hsame.symm.trans h', rfl⟩

theorem admitted_setDesc (s : State) (d : DescId) (x : Descriptor) :
    (s.setDesc d x).admitted d = match x with
      | .free => none
      | .staging _ => none
      | .queued m adm => some (m, adm)
      | .inHand m adm => some (m, adm) := by
  cases x <;> simp [-Fin.getElem_fin, State.admitted]

theorem admitted_inHand {s : State} {d : DescId} {m : Message} {adm : Admission} (h : s.descs[d] = .inHand m adm) :
    s.admitted d = some (m, adm) := by
  unfold State.admitted
  rw [h]

theorem admitted_queued {s : State} {d : DescId} {m : Message} {adm : Admission} (h : s.descs[d] = .queued m adm) :
    s.admitted d = some (m, adm) := by
  unfold State.admitted
  rw [h]

theorem tagLaw_release {s : State} (d : DescId) (path : RemovalPath) (hl : TagLaw s) : TagLaw (s.release d path) := by
  refine tagLaw_of_freed (by simp) (fun e => ?_) hl
  rw [release_descs]
  split_ifs
  · exact .inl rfl
  · exact .inr rfl

/-- What the reception of a correlation byte leaves of the descriptors (R59). -/
theorem takeCorrByte_descs (s : State) (p : Agent) (c : StagingContext) (m : Message) (b : Byte) :
    (s.takeCorrByte p c m b).descs = s.descs ∨
      ∃ w, (s.takeCorrByte p c m b).descs = s.descs.set c.desc (.staging { m with corr := .word w }) := by
  unfold State.takeCorrByte State.advanceByte
  dsimp only
  split
  · exact .inr ⟨_, rfl⟩
  · exact .inl rfl

theorem Move.tagLaw {s t : State} (h : Move s t) (hl : TagLaw s) : TagLaw t := by
  cases h
  case framed h => exact tagLaw_congr h.nextTag h.descs hl
  case releasedAll ds path _ => exact releaseAll_keeps (P := TagLaw) (fun _ d => tagLaw_release d path) ds hl
  case stagingEnded p c _ =>
    exact tagLaw_congr (s := s.release c.desc .unadmitted) rfl rfl (tagLaw_release c.desc .unadmitted hl)
  case returned a k d m adm hh =>
    refine tagLaw_setDesc (s := s) (d := d) (x := .queued { m with redeliveries := m.redeliveries + 1 } adm) (by simp)
      (by simp [State.returnToQueue]) (fun m' adm' hx => ?_) hl
    rw [admitted_setDesc] at hx
    cases hx
    exact ⟨m, admitted_inHand (handMessage_inHand hh), rfl⟩
  case takenIntoHand a k d m adm rest _ hq _ =>
    refine tagLaw_setDesc (s := s) (d := d) (x := .inHand m adm) (by simp) (by simp [State.takeIntoHand]) (fun m' adm' hx => ?_) hl
    rw [admitted_setDesc] at hx
    cases hx
    exact ⟨m, admitted_queued (queueHead_spec hq).2, rfl⟩
  case headerStaged p _ _ flags _ d m _ _ _ =>
    refine tagLaw_setDesc (s := s) (d := d) (x := .staging m) (by simp) (by simp) (fun m' adm' hx => ?_) hl
    rw [admitted_setDesc] at hx
    cases hx
  case corrByteTaken p c m b _ =>
    rcases takeCorrByte_descs s p c m b with hd | ⟨w, hd⟩
    · exact tagLaw_congr (by simp) hd hl
    · refine tagLaw_setDesc (s := s) (by simp) hd (fun m' adm' hx => ?_) hl
      rw [admitted_setDesc] at hx
      cases hx
  case reset =>
    have hnext : ∀ a : Agent, State.reset.nextTag[a] ≠ 0 := by decide
    have hnone : ∀ d, State.reset.admitted d = none := by decide
    refine ⟨hnext, fun d m adm h => ?_, fun d d' m m' adm adm' h _ _ _ => ?_⟩
    · cases (hnone d).symm.trans h
    · cases (hnone d).symm.trans h
  all_goals exact tagLaw_congr (by simp) (by simp) hl

/-- R31, R32: an admission takes a tag that is not in use. -/
theorem Admits.tagLaw {s t : State} (h : Admits s t) (hl : TagLaw s) : TagLaw t := by
  obtain ⟨p, c, m, hloaded, -⟩ := h
  obtain ⟨hnext, hzero, hapart⟩ := hl
  obtain ⟨n, -, heq, -, hfree⟩ := assignTag_spec s m.source
  set tag := s.assignTag m.source with htag
  have hself : ((s.admitMessage c.desc m tag).setStaging p none).admitted c.desc = some (m, ⟨tag, s.ticks⟩) :=
    admitted_queued (by simp [State.admitMessage])
  have hother {d : DescId} (hd : d ≠ c.desc) :
      ((s.admitMessage c.desc m tag).setStaging p none).admitted d = s.admitted d :=
    admitted_congr (by simp [-Fin.getElem_fin, State.admitMessage, vec_get_set_ne _ _ _ _ (Ne.symm hd)])
  have hunused {d : DescId} {m' : Message} {adm' : Admission} (hd : s.admitted d = some (m', adm'))
      (hm : m'.source = m.source) : adm'.tag ≠ tag := fun ht => by
    rw [(tagInUse_iff s m.source tag).mpr ⟨d, m', adm', hd, hm, ht⟩] at hfree
    cases hfree
  have hpos : tag ≠ 0 := by
    rw [heq]
    cases n with
    | zero => exact hnext m.source
    | succ n => rw [Function.iterate_succ_apply']; exact tagAfter_ne_zero _
  refine ⟨fun a => ?_, fun d m' adm' hd => ?_, fun d d' m1 m2 adm1 adm2 h1 h2 hm ht => ?_⟩
  · show (s.nextTag.set m.source (tagAfter tag))[a] ≠ 0
    rw [vec_get_set]
    split_ifs
    · exact tagAfter_ne_zero tag
    · exact hnext a
  · by_cases hx : d = c.desc
    · subst hx
      rw [hself] at hd
      cases hd
      exact hpos
    · exact hzero d m' adm' ((hother hx).symm.trans hd)
  · by_cases hx : d = c.desc <;> by_cases hx' : d' = c.desc
    · rw [hx, hx']
    · subst hx
      rw [hself] at h1
      cases h1
      rw [hother hx'] at h2
      exact absurd ht.symm (hunused h2 hm.symm)
    · subst hx'
      rw [hself] at h2
      cases h2
      rw [hother hx] at h1
      exact absurd ht (hunused h1 hm)
    · rw [hother hx] at h1
      rw [hother hx'] at h2
      exact hapart d d' m1 m2 adm1 adm2 h1 h2 hm ht

/-- Settles O57: every move keeps or frees the admitted messages, and an admission takes a tag not in use. -/
theorem everyStepKeepsTagsApart : Obligations.EveryStepKeepsTagsApart := fun _ _ hl h =>
  step_keeps_of_moves (fun _ _ => Move.tagLaw) (fun _ _ _ => tagLaw_congr rfl rfl) (fun _ _ => Admits.tagLaw) h hl

end Sys2Proof.Machine

/-! The queues, hand slots and staging contexts: what each move does to them, the order of admission in every inbound queue
(R37), and nothing held for an absent agent (R142). -/

namespace Sys2Proof.Machine

/-! ## The place law when one descriptor moves -/

theorem setQueue_get (s : State) (a b : Agent) (k j : MsgClass) (q : List DescId) :
    ((s.setQueue a k q).queues[b]).get j = if a = b ∧ k = j then q else (s.queues[b]).get j := by
  rw [State.setQueue_queues, vec_get_set]
  by_cases ha : a = b
  · subst ha
    rw [if_pos rfl, PerClass.get_set]
    simp
  · simp [-Fin.getElem_fin, ha]

theorem setHand_get (s : State) (a b : Agent) (k j : MsgClass) (h : Option DescId) :
    ((s.setHand a k h).hands[b]).get j = if a = b ∧ k = j then h else (s.hands[b]).get j := by
  rw [State.setHand_hands, vec_get_set]
  by_cases ha : a = b
  · subst ha
    rw [if_pos rfl, PerClass.get_set]
    simp
  · simp [-Fin.getElem_fin, ha]

/-- Every descriptor but `d` is as before and stands where it stood. -/
structure Reseated (s t : State) (d : DescId) : Prop where
  descs : ∀ e : DescId, e ≠ d → t.descs[e] = s.descs[e]
  queues : ∀ (a : Agent) (k : MsgClass) (e : DescId), e ≠ d → (e ∈ (t.queues[a]).get k ↔ e ∈ (s.queues[a]).get k)
  hands : ∀ (a : Agent) (k : MsgClass) (e : DescId), e ≠ d →
    ((t.hands[a]).get k = some e ↔ (s.hands[a]).get k = some e)
  stagings : ∀ (p : Agent) (e : DescId), e ≠ d →
    ((t.stagings[p]).map StagingContext.desc = some e ↔ (s.stagings[p]).map StagingContext.desc = some e)

/-- A descriptor that has moved needs its new place alone. -/
theorem placeLaw_of_reseated {s t : State} {d : DescId} (hl : PlaceLaw s) (h : Reseated s t d)
    (hnodup : ∀ (a : Agent) (k : MsgClass), ((t.queues[a]).get k).Nodup)
    (hqueue : ∀ (a : Agent) (k : MsgClass), d ∈ (t.queues[a]).get k ↔ t.queuedFor d a k = true)
    (hhand : ∀ (a : Agent) (k : MsgClass), (t.hands[a]).get k = some d ↔ t.inHandFor d a k = true)
    (hstaged : ∀ p : Agent, (t.stagings[p]).map StagingContext.desc = some d ↔ t.stagedOn d p = true) : PlaceLaw t := by
  obtain ⟨-, hqueues, hhands, hstagings⟩ := hl
  refine ⟨hnodup, fun a k e => ?_, fun a k e => ?_, fun p e => ?_⟩
  · by_cases he : e = d
    · exact he ▸ hqueue a k
    · rw [h.queues a k e he, hqueues a k e]
      unfold State.queuedFor
      rw [h.descs e he]
  · by_cases he : e = d
    · exact he ▸ hhand a k
    · rw [h.hands a k e he, hhands a k e]
      unfold State.inHandFor
      rw [h.descs e he]
  · by_cases he : e = d
    · exact he ▸ hstaged p
    · rw [h.stagings p e he, hstagings p e]
      unfold State.stagedOn
      rw [h.descs e he]

/-- R75: the head of a queue moves to the empty hand slot of its class. -/
theorem takeIntoHand_place {s : State} (hl : PlaceLaw s) {a : Agent} {k : MsgClass} {d : DescId} {m : Message}
    {adm : Admission} {rest : List DescId} (hhand : s.handMessage a k = none)
    (hhead : s.queueHead a k = some (d, m, adm, rest)) : PlaceLaw (s.takeIntoHand a k d m adm rest) := by
  obtain ⟨hq, hd⟩ := queueHead_spec hhead
  obtain ⟨m', adm', hd', rfl, rfl⟩ := hl.queue (d := d) (by rw [hq]; exact List.mem_cons_self)
  rw [hd] at hd'
  cases hd'
  have hnodup := hl.1 m.dest m.cls
  rw [hq] at hnodup
  have hempty : (s.hands[m.dest]).get m.cls = none := by
    cases hx : (s.hands[m.dest]).get m.cls with
    | none => rfl
    | some e =>
      obtain ⟨m', adm', he, -, -⟩ := hl.hand hx
      rw [handMessage_of s _ _ _ _ _ hx he] at hhand
      cases hhand
  have hqueues (b : Agent) (j : MsgClass) : ((s.takeIntoHand m.dest m.cls d m adm rest).queues[b]).get j =
      if m.dest = b ∧ m.cls = j then rest else (s.queues[b]).get j := setQueue_get s m.dest b m.cls j rest
  have hhands (b : Agent) (j : MsgClass) : ((s.takeIntoHand m.dest m.cls d m adm rest).hands[b]).get j =
      if m.dest = b ∧ m.cls = j then some d else (s.hands[b]).get j := setHand_get s m.dest b m.cls j (some d)
  have hself : (s.takeIntoHand m.dest m.cls d m adm rest).descs[d] = .inHand m adm := by
    simp [-Fin.getElem_fin, State.takeIntoHand]
  have hnothand (b : Agent) (j : MsgClass) : (s.hands[b]).get j ≠ some d := fun hx => by
    obtain ⟨_, _, he, -, -⟩ := hl.hand hx
    rw [hd] at he
    cases he
  refine placeLaw_of_reseated (d := d) hl ⟨fun e he => ?_, fun b j e he => ?_, fun b j e he => ?_, fun p e he => .rfl⟩
    (fun b j => ?_) (fun b j => ?_) (fun b j => ?_) (fun p => ?_)
  · simp [-Fin.getElem_fin, State.takeIntoHand, vec_get_set_ne _ _ _ _ (Ne.symm he)]
  · rw [hqueues]
    split_ifs with hx
    · obtain ⟨rfl, rfl⟩ := hx
      rw [hq, List.mem_cons, or_iff_right he]
    · rfl
  · rw [hhands]
    split_ifs with hx
    · obtain ⟨rfl, rfl⟩ := hx
      rw [hempty]
      simp [Ne.symm he]
    · rfl
  · rw [hqueues]
    split_ifs
    · exact (List.nodup_cons.mp hnodup).2
    · exact hl.1 b j
  · unfold State.queuedFor
    rw [hself, hqueues]
    split_ifs with hx
    · simpa using (List.nodup_cons.mp hnodup).1
    · refine iff_of_false (fun hmem => ?_) (by simp)
      obtain ⟨m', adm', he, h1, h2⟩ := hl.queue hmem
      rw [hd] at he
      cases he
      exact hx ⟨h1, h2⟩
  · unfold State.inHandFor
    rw [hself, hhands]
    split_ifs with hx
    · simp [hx]
    · exact iff_of_false (hnothand b j) (by simpa using fun h1 h2 => hx ⟨h1, h2⟩)
  · have hs := hl.2.2.2 p d
    unfold State.stagedOn at hs ⊢
    rw [hself]
    rw [hd] at hs
    exact hs

/-- R28, R57: a FREE descriptor becomes STAGING on a port that has no staging loaded. -/
theorem stage_place {s : State} (hl : PlaceLaw s) {p : Agent} {d : DescId} {m : Message} (flags : Byte)
    (hfree : s.descs[d] = .free) (hsource : m.source = p) (hnone : s.stagings[p] = none) :
    PlaceLaw (s.stage p d m flags) := by
  have hself : (s.stage p d m flags).descs[d] = .staging m := by
    rw [State.stage_descs, vec_get_set_same]
  have hqueues : (s.stage p d m flags).queues = s.queues := by simp
  have hhands : (s.stage p d m flags).hands = s.hands := by simp
  have hnotstaged (q : Agent) : (s.stagings[q]).map StagingContext.desc ≠ some d := fun hx => by
    have hs := (hl.2.2.2 q d).mp hx
    unfold State.stagedOn at hs
    rw [hfree] at hs
    cases hs
  refine placeLaw_of_reseated (d := d) hl ⟨fun e he => ?_, fun b j e he => by rw [hqueues], fun b j e he => by rw [hhands],
    fun q e he => ?_⟩ (fun b j => ?_) (fun b j => ?_) (fun b j => ?_) (fun q => ?_)
  · rw [State.stage_descs, vec_get_set_ne _ _ _ _ (Ne.symm he)]
  · rw [State.stage_stagings, vec_get_set]
    split_ifs with hq
    · subst hq
      simp [-Fin.getElem_fin, hnone, loadedContext, Ne.symm he]
    · rfl
  · rw [hqueues]
    exact hl.1 b j
  · rw [hqueues, hl.2.1 b j d]
    unfold State.queuedFor
    rw [hself, hfree]
  · rw [hhands, hl.2.2.1 b j d]
    unfold State.inHandFor
    rw [hself, hfree]
  · unfold State.stagedOn
    rw [hself, State.stage_stagings, vec_get_set]
    split_ifs with hq
    · simp [loadedContext, hsource, hq]
    · refine iff_of_false (hnotstaged q) ?_
      simpa [hsource] using hq

/-- R63: the staged message moves to the tail of its queue. -/
theorem admits_place {s t : State} (h : Admits s t) (hl : PlaceLaw s) : PlaceLaw t := by
  obtain ⟨p, c, m, hloaded, -⟩ := h
  obtain ⟨-, hstaging, hd⟩ := loadedStaging_spec hloaded
  obtain ⟨m', hd', hsource⟩ := hl.staging hstaging
  rw [hd] at hd'
  cases hd'
  generalize htag : s.assignTag m.source = tag
  set t := (s.admitMessage c.desc m tag).setStaging p none with ht
  have hself : t.descs[c.desc] = .queued m ⟨tag, s.ticks⟩ := by simp [-Fin.getElem_fin, ht, State.admitMessage]
  have hqueues (b : Agent) (j : MsgClass) : (t.queues[b]).get j =
      if m.dest = b ∧ m.cls = j then (s.queues[m.dest]).get m.cls ++ [c.desc] else (s.queues[b]).get j :=
    setQueue_get (s.setDesc c.desc _) m.dest b m.cls j _
  have hstagings : t.stagings = s.stagings.set p none := by simp [ht, State.admitMessage]
  have hnotqueued (b : Agent) (j : MsgClass) : c.desc ∉ (s.queues[b]).get j := fun hx => by
    obtain ⟨_, _, he, -, -⟩ := hl.queue hx
    rw [hd] at he
    cases he
  refine placeLaw_of_reseated (d := c.desc) hl ⟨fun e he => ?_, fun b j e he => ?_, fun b j e he => .rfl, fun q e he => ?_⟩
    (fun b j => ?_) (fun b j => ?_) (fun b j => ?_) (fun q => ?_)
  · simp [-Fin.getElem_fin, ht, State.admitMessage, vec_get_set_ne _ _ _ _ (Ne.symm he)]
  · rw [hqueues]
    split_ifs with hx
    · obtain ⟨rfl, rfl⟩ := hx
      simp [-Fin.getElem_fin, he]
    · rfl
  · rw [hstagings, vec_get_set]
    split_ifs with hq
    · subst hq
      simp [-Fin.getElem_fin, hstaging, Ne.symm he]
    · rfl
  · rw [hqueues]
    split_ifs
    · refine List.nodup_append.mpr ⟨hl.1 _ _, List.nodup_singleton _, fun x hx y hy => ?_⟩
      rw [List.mem_singleton.mp hy]
      rintro rfl
      exact hnotqueued _ _ hx
    · exact hl.1 b j
  · unfold State.queuedFor
    rw [hself, hqueues]
    split_ifs with hx
    · simp [hx]
    · simpa [-Fin.getElem_fin, hnotqueued b j] using fun h1 h2 => hx ⟨h1, h2⟩
  · have hh : (t.hands[b]).get j = some c.desc ↔ s.inHandFor c.desc b j = true := hl.2.2.1 b j c.desc
    unfold State.inHandFor at hh ⊢
    rw [hself]
    rw [hd] at hh
    exact hh
  · unfold State.stagedOn
    rw [hself, hstagings, vec_get_set]
    split_ifs with hq
    · simp
    · have hs := hl.2.2.2 q c.desc
      unfold State.stagedOn at hs
      rw [hd] at hs
      simp only [hsource, decide_eq_true_eq] at hs
      exact iff_of_false (fun hx => hq (hs.mp hx)) (by simp)

/-! ## Descriptors and places that agree as before -/

/-- A staging byte keeps the descriptor of its staging STAGING, from the same source, on its port. -/
theorem placeLaw_of_staged {s t : State} {p : Agent} {c c' : StagingContext} {m m' : Message} (hl : PlaceLaw s)
    (hstaging : s.stagings[p] = some c) (hd : s.descs[c.desc] = .staging m) (hdesc : c'.desc = c.desc)
    (hsource : m'.source = m.source) (hdescs : t.descs = s.descs.set c.desc (.staging m'))
    (hstagings : t.stagings = s.stagings.set p (some c')) (hqueues : t.queues = s.queues) (hhands : t.hands = s.hands) :
    PlaceLaw t := by
  have hself : t.descs[c.desc] = .staging m' := by rw [hdescs, vec_get_set_same]
  have hmap (q : Agent) : (t.stagings[q]).map StagingContext.desc = (s.stagings[q]).map StagingContext.desc := by
    rw [hstagings, vec_get_set]
    split_ifs with hq
    · subst hq
      rw [hstaging, Option.map_some, Option.map_some, hdesc]
    · rfl
  refine placeLaw_of_reseated (d := c.desc) hl ⟨fun e he => ?_, fun b j e he => by rw [hqueues], fun b j e he => by rw [hhands],
    fun q e he => by rw [hmap]⟩ (fun b j => ?_) (fun b j => ?_) (fun b j => ?_) (fun q => ?_)
  · rw [hdescs, vec_get_set_ne _ _ _ _ (Ne.symm he)]
  · rw [hqueues]
    exact hl.1 b j
  · rw [hqueues, hl.2.1 b j c.desc]
    unfold State.queuedFor
    rw [hself, hd]
  · rw [hhands, hl.2.2.1 b j c.desc]
    unfold State.inHandFor
    rw [hself, hd]
  · rw [hmap, hl.2.2.2 q c.desc]
    unfold State.stagedOn
    rw [hself, hd]
    simp only [hsource]

theorem setDesc_same {s : State} {d : DescId} {x : Descriptor} (h : s.descs[d] = x) : s.descs.set d x = s.descs := by
  refine Vector.ext fun i hi => ?_
  have := vec_get_set s.descs d ⟨i, hi⟩ x
  simp only [Fin.getElem_fin] at this
  rw [this]
  split_ifs with hx
  · subst hx
    exact h.symm
  · rfl

/-! ## Moves thin out the messages and the queues -/

/-- The hand slot of a class, with its queue behind it (R37). -/
def State.line (s : State) (a : Agent) (k : MsgClass) : List DescId := ((s.hands[a]).get k).toList ++ (s.queues[a]).get k

theorem holdsNothing_iff (s : State) (a : Agent) : s.holdsNothing a = true ↔ ∀ k, s.line a k = [] := by
  unfold State.holdsNothing State.line
  rw [List.all_eq_true]
  simp [-Fin.getElem_fin, mem_classes, and_comm]

/-- From `s` to `t` no message was admitted, and every line has lost messages at most. -/
structure Thins (s t : State) : Prop where
  admitted : ∀ d : DescId, (t.admitted d).isSome = true → (s.admitted d).isSome = true
  line : ∀ (a : Agent) (k : MsgClass), (t.line a k).Sublist (s.line a k)

theorem Thins.refl (s : State) : Thins s s := ⟨fun _ => id, fun _ _ => .refl _⟩

theorem Thins.trans {s u t : State} (h1 : Thins s u) (h2 : Thins u t) : Thins s t :=
  ⟨fun d hd => h1.admitted d (h2.admitted d hd), fun a k => (h2.line a k).trans (h1.line a k)⟩

theorem Thins.of_same {s t : State} (hd : t.descs = s.descs) (hq : t.queues = s.queues) (hh : t.hands = s.hands) :
    Thins s t := by
  refine ⟨fun d => ?_, fun a k => ?_⟩
  · rw [admitted_congr (s := s) (by rw [hd])]
    exact id
  · unfold State.line
    rw [hq, hh]

theorem Thins.holdsNothing {s t : State} (h : Thins s t) {a : Agent} (ha : s.holdsNothing a = true) :
    t.holdsNothing a = true :=
  (holdsNothing_iff t a).mpr fun k => List.sublist_nil.mp ((holdsNothing_iff s a).mp ha k ▸ h.line a k)

/-- One descriptor was set to one that is not newly admitted. -/
theorem thins_of_setDesc {s t : State} {d : DescId} {x : Descriptor} (hd : t.descs = s.descs.set d x)
    (hx : ((s.setDesc d x).admitted d).isSome = true → (s.admitted d).isSome = true)
    (hline : ∀ (a : Agent) (k : MsgClass), (t.line a k).Sublist (s.line a k)) : Thins s t := by
  refine ⟨fun e he => ?_, hline⟩
  rw [admitted_congr (s := s.setDesc d x) (by rw [hd, State.setDesc_descs])] at he
  by_cases hde : d = e
  · exact hde ▸ hx (hde ▸ he)
  · rwa [admitted_congr (s := s) (by rw [State.setDesc_descs, vec_get_set_ne _ _ _ _ hde])] at he

theorem thins_releaseAll {s : State} (hl : PlaceLaw s) {ds : List DescId} (path : RemovalPath)
    (h : ∀ d ∈ ds, ∀ m, s.descs[d] ≠ .staging m) : Thins s (s.releaseAll ds path) := by
  obtain ⟨-, hqueues, hhands⟩ := releaseAll_place s hl ds path h
  refine ⟨fun d hd => ?_, fun a k => ?_⟩
  · have hdesc := releaseAll_descs s ds d path
    by_cases hmem : d ∈ ds
    · rw [if_pos hmem] at hdesc
      unfold State.admitted at hd
      rw [hdesc] at hd
      cases hd
    · rw [if_neg hmem] at hdesc
      rwa [admitted_congr (s := s) hdesc] at hd
  · unfold State.line
    rw [hqueues, hhands, Option.toList_filter, ← List.filter_append]
    exact List.filter_sublist

theorem thins_release {s : State} (hl : PlaceLaw s) (d : DescId) (path : RemovalPath) : Thins s (s.release d path) := by
  refine ⟨fun e he => ?_, fun a k => ?_⟩
  · have hdesc := release_descs s d e path
    by_cases hx : e = d
    · rw [if_pos hx] at hdesc
      unfold State.admitted at he
      rw [hdesc] at he
      cases he
    · rw [if_neg hx] at hdesc
      rwa [admitted_congr (s := s) hdesc] at he
  · unfold State.line
    rw [release_queues s hl, release_hands s hl]
    split_ifs
    · exact (List.nil_sublist _).append List.filter_sublist
    · exact (List.Sublist.refl _).append List.filter_sublist

/-- R85: a return moves a message from the hand slot to the head of its queue. -/
theorem line_returnToQueue {s : State} (hl : PlaceLaw s) {d : DescId} {m : Message} {adm : Admission}
    (hd : s.descs[d] = .inHand m adm) (a : Agent) (k : MsgClass) : (s.returnToQueue d m adm).line a k = s.line a k := by
  have hqueues : ((s.returnToQueue d m adm).queues[a]).get k =
      if m.dest = a ∧ m.cls = k then d :: (s.queues[m.dest]).get m.cls else (s.queues[a]).get k :=
    setQueue_get ((s.setHand m.dest m.cls none).setDesc d (.queued { m with redeliveries := m.redeliveries + 1 } adm)) m.dest a
      m.cls k _
  have hhands : ((s.returnToQueue d m adm).hands[a]).get k =
      if m.dest = a ∧ m.cls = k then none else (s.hands[a]).get k := setHand_get s m.dest a m.cls k none
  unfold State.line
  rw [hqueues, hhands]
  split_ifs with h
  · obtain ⟨rfl, rfl⟩ := h
    rw [hl.inHand hd]
    rfl
  · rfl

/-- R75: a delivery moves the head of a queue to the hand slot. -/
theorem line_takeIntoHand {s : State} {b : Agent} {j : MsgClass} {d : DescId} {m : Message} {adm : Admission}
    {rest : List DescId} (hl : PlaceLaw s) (hhand : s.handMessage b j = none)
    (hhead : s.queueHead b j = some (d, m, adm, rest)) (a : Agent) (k : MsgClass) :
    (s.takeIntoHand b j d m adm rest).line a k = s.line a k := by
  have hqueues : ((s.takeIntoHand b j d m adm rest).queues[a]).get k =
      if b = a ∧ j = k then rest else (s.queues[a]).get k := setQueue_get s b a j k rest
  have hhands : ((s.takeIntoHand b j d m adm rest).hands[a]).get k =
      if b = a ∧ j = k then some d else (s.hands[a]).get k := setHand_get s b a j k (some d)
  unfold State.line
  rw [hqueues, hhands]
  split_ifs with h
  · obtain ⟨rfl, rfl⟩ := h
    rw [(queueHead_spec hhead).1]
    cases hx : (s.hands[b]).get j with
    | none => rfl
    | some e =>
      obtain ⟨_, _, he, -, -⟩ := hl.hand hx
      rw [handMessage_of s _ _ _ _ _ hx he] at hhand
      cases hhand
  · rfl

theorem freeDesc_free {s : State} {d : DescId} (h : s.freeDesc = some d) : s.descs[d] = .free := by
  simpa using List.find?_some h

/-- What an accepted header stages: a FREE descriptor and a message of the caller. -/
theorem accepted_free {s : State} {p : Agent} {dest cls flags : Byte} {len : Nat} {d : DescId} {m : Message}
    (h : s.judgeHeader p dest cls flags len = .accepted d m) : s.descs[d] = .free ∧ m.source = p := by
  obtain ⟨_, _, _, -, -, -, -, hd, -, -, rfl⟩ := judgeHeader_accepted h
  exact ⟨freeDesc_free hd, rfl⟩

theorem staging_of_requestOpen {s : State} {p : Agent} (h : s.requestOpen p = true) : s.stagings[p] = none := by
  unfold State.requestOpen at h
  simp only [Bool.and_eq_true, Option.isNone_iff_eq_none] at h
  exact h.2

/-- What a byte of a staging leaves of the descriptors: the message STAGING, from its source (R59, R60, R62). -/
theorem takeCorrByte_staged {s : State} {p : Agent} {c : StagingContext} {m : Message} (b : Byte)
    (hd : s.descs[c.desc] = .staging m) : ∃ w, (s.takeCorrByte p c m b).descs =
      s.descs.set c.desc (.staging { m with corr := w }) := by
  rcases takeCorrByte_descs s p c m b with h | ⟨w, h⟩
  · exact ⟨m.corr, by rw [h, setDesc_same hd]⟩
  · exact ⟨_, h⟩

theorem takeCorrByte_stagings (s : State) (p : Agent) (c : StagingContext) (m : Message) (b : Byte) :
    ∃ c', c'.desc = c.desc ∧ (s.takeCorrByte p c m b).stagings = s.stagings.set p (some c') := by
  refine ⟨{ c with
    corrToCome := c.corrToCome - 1, corrBytes := (c.corrBytes <<< 8) ||| b.zeroExtend 32
    checkRegister := checkByte c.checkRegister b }, rfl, ?_⟩
  unfold State.takeCorrByte State.advanceByte
  dsimp only
  split <;> rfl

theorem placeLaw_reset : PlaceLaw State.reset := by
  have hfree : ∀ d : DescId, State.reset.descs[d] = .free := by decide
  have hqueue : ∀ a : Agent, State.reset.queues[a] = .all [] := by decide
  have hhand : ∀ a : Agent, State.reset.hands[a] = .all none := by decide
  have hstaging : ∀ a : Agent, State.reset.stagings[a] = none := by decide
  refine ⟨fun a k => ?_, fun a k d => ?_, fun a k d => ?_, fun p d => ?_⟩
  · rw [hqueue, PerClass.get_all]
    exact List.nodup_nil
  · unfold State.queuedFor
    rw [hqueue, hfree, PerClass.get_all]
    simp
  · unfold State.inHandFor
    rw [hhand, hfree, PerClass.get_all]
    simp
  · unfold State.stagedOn
    rw [hstaging, hfree]
    simp

/-- Every move keeps the place law and admits nothing. -/
theorem Move.place {s t : State} (hmove : Move s t) (hl : PlaceLaw s) : PlaceLaw t ∧ Thins s t := by
  have hsame {u : State} (hd : u.descs = s.descs) (hq : u.queues = s.queues) (hh : u.hands = s.hands)
      (hs : u.stagings = s.stagings) : PlaceLaw u ∧ Thins s u := ⟨placeLaw_congr hl hd hq hh hs, .of_same hd hq hh⟩
  cases hmove
  case framed h => exact hsame h.descs h.queues h.hands h.stagings
  case releasedAll ds path h =>
    exact ⟨(releaseAll_place s hl ds path (h hl)).1, thins_releaseAll hl path (h hl)⟩
  case stagingEnded p c h =>
    refine ⟨stagingEnded_place hl .unadmitted h, (thins_release hl c.desc .unadmitted).trans ?_⟩
    exact .of_same (s := s.release c.desc .unadmitted) rfl rfl rfl
  case returned a k d m adm h =>
    have hd := handMessage_inHand h
    refine ⟨returnToQueue_place s hl d m adm hd, thins_of_setDesc (d := d)
      (x := .queued { m with redeliveries := m.redeliveries + 1 } adm) (by simp [State.returnToQueue]) (fun _ => ?_)
      (fun b j => by rw [line_returnToQueue hl hd])⟩
    rw [admitted_inHand hd]
    rfl
  case takenIntoHand a k d m adm rest hhand hhead _ =>
    refine ⟨takeIntoHand_place hl hhand hhead, thins_of_setDesc (d := d) (x := .inHand m adm)
      (by simp [State.takeIntoHand]) (fun _ => ?_) (fun b j => by rw [line_takeIntoHand hl hhand hhead])⟩
    rw [admitted_queued (queueHead_spec hhead).2]
    rfl
  case headerStaged p dest cls flags len d m hopen _ hjudged =>
    obtain ⟨hfree, hsource⟩ := accepted_free hjudged
    refine ⟨stage_place hl flags hfree hsource (staging_of_requestOpen hopen), thins_of_setDesc (d := d) (x := .staging m)
      (by simp) (fun hx => ?_) (fun b j => ?_)⟩
    · rw [admitted_setDesc] at hx
      cases hx
    · unfold State.line
      simp
  case corrByteTaken p c m b hloaded =>
    obtain ⟨-, hstaging, hd⟩ := loadedStaging_spec hloaded
    obtain ⟨w, hdescs⟩ := takeCorrByte_staged (p := p) b hd
    obtain ⟨c', hdesc, hstagings⟩ := takeCorrByte_stagings s p c m b
    refine ⟨placeLaw_of_staged (m' := { m with corr := w }) hl hstaging hd hdesc rfl hdescs hstagings (by simp) (by simp),
      thins_of_setDesc hdescs (fun hx => ?_) (fun _ _ => ?_)⟩
    · rw [admitted_setDesc] at hx
      cases hx
    · unfold State.line
      simp
  case payloadByteTaken p c m b hloaded =>
    obtain ⟨-, hstaging, hd⟩ := loadedStaging_spec hloaded
    have hdescs : (s.takePayloadByte p c m b).descs = s.descs := by simp
    exact ⟨placeLaw_of_staged (c' := { c with
        payloadReceived := c.payloadReceived + 1, checkRegister := checkByte c.checkRegister b }) hl hstaging hd rfl
        (m' := m) rfl (by rw [hdescs, setDesc_same hd]) (by simp [State.takePayloadByte, State.advanceByte]) (by simp) (by simp),
      .of_same hdescs (by simp) (by simp)⟩
  case checkHighTaken p c m b hloaded =>
    obtain ⟨-, hstaging, hd⟩ := loadedStaging_spec hloaded
    exact ⟨placeLaw_of_staged (c' := { c with checkReceived := 1, checkHigh := some b }) hl hstaging hd rfl (m' := m) rfl
        (by rw [setDesc_same hd]; simp) rfl (by simp) (by simp), .of_same (by simp) (by simp) (by simp)⟩
  case reset csn pending choices =>
    have hfree : ∀ d : DescId, State.reset.descs[d] = .free := by decide
    have hqueue : ∀ a : Agent, State.reset.queues[a] = .all [] := by decide
    have hhand : ∀ a : Agent, State.reset.hands[a] = .all none := by decide
    refine ⟨placeLaw_congr (s := State.reset) placeLaw_reset rfl rfl rfl rfl, fun d hd => ?_, fun a k => ?_⟩
    · have hnone : (State.inReset csn pending choices).admitted d = none := by
        unfold State.admitted
        rw [show (State.inReset csn pending choices).descs[d] = .free from hfree d]
      rw [hnone] at hd
      cases hd
    · have hline : (State.inReset csn pending choices).line a k = [] := by
        unfold State.line
        rw [show (State.inReset csn pending choices).queues[a] = .all [] from hqueue a,
          show (State.inReset csn pending choices).hands[a] = .all none from hhand a, PerClass.get_all, PerClass.get_all]
        rfl
      rw [hline]
      exact List.nil_sublist _
  all_goals exact hsame (by simp) (by simp) (by simp) (by simp)

end Sys2Proof.Machine

/-! The order of admission in every inbound queue (R37), and nothing held for an absent agent (R142). -/

namespace Sys2Proof.Machine

/-! ## Places through a step -/

theorem moves_place {s t : State} (h : Moves s t) (hl : PlaceLaw s) : PlaceLaw t ∧ Thins s t := by
  induction h with
  | refl => exact ⟨hl, .refl s⟩
  | tail _ hmove ih =>
    obtain ⟨hplace, hthins⟩ := hmove.place ih.1
    exact ⟨hplace, ih.2.trans hthins⟩

theorem placeLaw_setMember {s : State} (hl : PlaceLaw s) (a : Agent) (m : Member) : PlaceLaw (s.setMember a m) :=
  placeLaw_congr hl rfl rfl rfl rfl

/-- Moves behind a change of a membership record. -/
theorem moves_place_of_member {s t : State} {a : Agent} {m : Member} (h : Moves (s.setMember a m) t) (hl : PlaceLaw s) :
    PlaceLaw t ∧ Thins s t := by
  obtain ⟨hplace, hthins⟩ := moves_place h (placeLaw_setMember hl a m)
  have hset : Thins s (s.setMember a m) := .of_same rfl rfl rfl
  exact ⟨hplace, hset.trans hthins⟩

theorem Event.place {s t : State} (h : Event s t) (hl : PlaceLaw s) : PlaceLaw t ∧ Thins s t := by
  cases h with
  | move hm => exact hm.place hl
  | closed a _ => exact moves_place_of_member (moves_leaveRound _ a) hl
  | departed a hd =>
    obtain ⟨m, hm⟩ := hd.moves
    exact moves_place_of_member hm hl

theorem events_place {s t : State} (h : Events s t) (hl : PlaceLaw s) : PlaceLaw t ∧ Thins s t := by
  induction h with
  | refl => exact ⟨hl, .refl s⟩
  | tail _ he ih =>
    obtain ⟨hplace, hthins⟩ := he.place ih.1
    exact ⟨hplace, ih.2.trans hthins⟩

/-! ## Nothing held for an absent agent (R142) -/

/-- Agent `b` holds nothing where it is OFFLINE or FENCED. -/
def HoldLaw (s : State) (b : Agent) : Prop := s.isMember b = false → s.holdsNothing b = true

theorem nothingForAbsent_iff (s : State) : NothingForAbsent s ↔ ∀ b, HoldLaw s b := .rfl

theorem holdLaw_of_thins {s t : State} {b : Agent} (h : Thins s t)
    (habsent : t.isMember b = false → s.isMember b = false ∨ t.holdsNothing b = true) (hl : HoldLaw s b) : HoldLaw t b :=
  fun hb => (habsent hb).elim (fun hs => h.holdsNothing (hl hs)) id

theorem holdLaw_of_states {s t : State} {b : Agent} (h : Thins s t) (hm : (t.members[b]).state = (s.members[b]).state)
    (hl : HoldLaw s b) : HoldLaw t b :=
  holdLaw_of_thins h (fun hb => .inl (by unfold State.isMember at hb ⊢; rwa [hm] at hb)) hl

theorem holdLaw_of_members {s t : State} {b : Agent} (h : Thins s t) (hm : t.members = s.members) (hl : HoldLaw s b) :
    HoldLaw t b := holdLaw_of_states h (by rw [hm]) hl

/-- What a drain test or a release with its drain test leaves of a port (R135). -/
theorem drained_absent {s t : State} {a b : Agent} (h : drained s t a) (hb : t.isMember b = false) :
    s.isMember b = false ∨ t.holdsNothing b = true := by
  obtain ⟨hother, hself⟩ := h
  by_cases hba : b = a
  · subst hba
    split at hself
    · next hx => exact .inr hx.2
    · exact .inl ((isMember_of_member hself.1).symm.trans hb)
  · exact .inl ((isMember_of_member (hother b hba).1).symm.trans hb)

theorem holdLaw_release {s : State} {b : Agent} (hl : PlaceLaw s) (d : DescId) (path : RemovalPath) (hb : HoldLaw s b) :
    HoldLaw (s.release d path) b := by
  have hthins := thins_release hl d path
  cases hd : s.descs[d] with
  | free => rwa [release_free s d path hd]
  | staging m =>
    refine holdLaw_of_members hthins ?_ hb
    rw [release_staging s d m path hd]
    simp
  | queued m adm =>
    refine holdLaw_of_thins hthins (fun habs => ?_) hb
    rw [release_queued s d m adm path hd] at habs ⊢
    exact drained_absent (finish_drained _ d m adm path) habs
  | inHand m adm =>
    refine holdLaw_of_thins hthins (fun habs => ?_) hb
    rw [release_inHand s d m adm path hd] at habs ⊢
    exact drained_absent (finish_drained _ d m adm path) habs

theorem holdLaw_releaseAll {s : State} {b : Agent} (hl : PlaceLaw s) {ds : List DescId} (path : RemovalPath)
    (h : ∀ d ∈ ds, ∀ m, s.descs[d] ≠ .staging m) (hb : HoldLaw s b) : HoldLaw (s.releaseAll ds path) b := by
  induction ds generalizing s with
  | nil => exact hb
  | cons d rest ih =>
    have hd := h d List.mem_cons_self
    refine ih (s := s.release d path) (release_place s hl d path hd) (fun e he m => ?_) (holdLaw_release hl d path hb)
    rw [release_descs]
    split_ifs
    · exact Descriptor.noConfusion
    · exact h e (List.mem_cons_of_mem d he) m

theorem Move.holdLaw {s t : State} {b : Agent} (h : Move s t) (hl : PlaceLaw s) (hb : HoldLaw s b) : HoldLaw t b := by
  have hthins := (h.place hl).2
  have hset {a : Agent} {m : Member} (hm : b = a → (m.state = (s.members[a]).state ∨ m.state = .active))
      (ht : Thins s (s.setMember a m)) : HoldLaw (s.setMember a m) b := by
    refine holdLaw_of_thins ht (fun habs => .inl ?_) hb
    unfold State.isMember at habs ⊢
    rw [State.setMember_members, vec_get_set] at habs
    split_ifs at habs with hx
    · subst hx
      rcases hm rfl with h | h
      · rwa [h] at habs
      · rw [h] at habs
        cases habs
    · exact habs
  cases h
  case framed h => exact holdLaw_of_members hthins h.members hb
  case memberKept a m hstate _ => exact hset (fun _ => .inl hstate) hthins
  case activated a m hm => exact hset (fun _ => .inr hm) hthins
  case resumed a m n hm _ =>
    have hactive : HoldLaw (s.setMember a m) b := hset (fun _ => .inr hm) (.of_same rfl rfl rfl)
    exact holdLaw_of_members (s := s.setMember a m) (.of_same rfl rfl rfl) rfl hactive
  case drainTested a => 
    refine holdLaw_of_thins hthins (fun habs => ?_) hb
    obtain ⟨hother, hself⟩ := drain_spec s a
    by_cases hba : b = a
    · subst hba
      split at hself
      · next hx => exact .inr (hthins.holdsNothing hx.2)
      · rw [hself] at habs
        exact .inl habs
    · exact .inl ((isMember_of_member (hother b hba).1).symm.trans habs)
  case releasedAll ds path h => exact holdLaw_releaseAll hl path (h hl) hb
  case stagingEnded p c h => exact holdLaw_of_members (s := s.release c.desc .unadmitted) (.of_same rfl rfl rfl) rfl (holdLaw_release hl c.desc .unadmitted hb)
  case reset =>
    intro _
    have hreset : ∀ a : Agent, State.reset.holdsNothing a = true := by decide
    exact hreset b
  all_goals exact holdLaw_of_members hthins (by simp) hb

theorem moves_holdLaw {s t : State} {b : Agent} (h : Moves s t) (hl : PlaceLaw s) (hb : HoldLaw s b) : HoldLaw t b := by
  induction h with
  | refl => exact hb
  | tail hmoves hmove ih => exact hmove.holdLaw (moves_place hmoves hl).1 ih

theorem Event.holdLaw {s t : State} (h : Event s t) (hl : PlaceLaw s) (hs : ∀ b, HoldLaw s b) (b : Agent) :
    HoldLaw t b := by
  have hset (a : Agent) (m : Member) (hba : b ≠ a) : HoldLaw (s.setMember a m) b :=
    holdLaw_of_states (s := s) (.of_same rfl rfl rfl)
      (by rw [State.setMember_members, vec_get_set_ne _ _ _ _ (Ne.symm hba)]) (hs b)
  cases h with
  | move hm => exact hm.holdLaw hl (hs b)
  | closed a ha =>
    refine moves_holdLaw (moves_leaveRound _ a) (placeLaw_setMember hl a _) ?_
    by_cases hba : b = a
    · subst hba
      intro habs
      unfold State.isMember at habs
      rw [State.setMember_members, vec_get_set_same] at habs
      cases habs
    · exact hset a _ hba
  | departed a hd =>
    by_cases hba : b = a
    · exact hba ▸ fun _ => hd.empty hl
    · obtain ⟨m, hm⟩ := hd.moves
      exact moves_holdLaw hm (placeLaw_setMember hl a m) (hset a m hba)

/-- R63: an admission joins the queue of an ACTIVE agent. -/
theorem Admits.holdLaw {s t : State} {b : Agent} (h : Admits s t) (hb : HoldLaw s b) : HoldLaw t b := by
  obtain ⟨p, c, m, -, hactive⟩ := h
  intro habs
  have hs : s.isMember b = false := habs
  have hne : m.dest ≠ b := fun e => by
    subst e
    unfold State.isMember at hs
    rw [hactive] at hs
    cases hs
  refine (holdsNothing_iff _ b).mpr fun k => ?_
  have hline := (holdsNothing_iff s b).mp (hb hs) k
  unfold State.line at hline ⊢
  rw [State.setStaging_queues, State.setStaging_hands]
  unfold State.admitMessage
  rw [show ∀ u : State, ({ u with nextTag := u.nextTag.set m.source (tagAfter (s.assignTag m.source)) } : State).queues = u.queues from fun _ => rfl, setQueue_get, if_neg (fun h => hne h.1)]
  exact hline

/-! ## The order of admission (R37) -/

/-- Each descriptor of `t` is FREE or as in `s`. -/
def Frees (s t : State) : Prop := ∀ d : DescId, t.descs[d] = .free ∨ t.descs[d] = s.descs[d]

theorem Frees.of_same {s t : State} (h : t.descs = s.descs) : Frees s t := fun d => .inr (by rw [h])

theorem Frees.trans {s u t : State} (h1 : Frees s u) (h2 : Frees u t) : Frees s t := fun d =>
  (h2 d).elim .inl (fun h => (h1 d).imp h.trans h.trans)

theorem frees_release (s : State) (x : DescId) (path : RemovalPath) : Frees s (s.release x path) := fun d => by
  rw [release_descs]
  exact ite_eq_or_eq _ _ _

theorem frees_releaseAll (s : State) (ds : List DescId) (path : RemovalPath) : Frees s (s.releaseAll ds path) := fun d => by
  rw [releaseAll_descs]
  exact ite_eq_or_eq _ _ _

theorem frees_abortStaging (s : State) (a : Agent) : Frees s (s.abortStaging a) := by
  unfold State.abortStaging
  split
  · exact .of_same rfl
  · next c _ => exact (frees_release s c.desc .unadmitted).trans (.of_same (by simp [State.skipRest]))

theorem frees_fence (s : State) (a : Agent) : Frees s (s.fence a) := by
  set u := (s.setMember a { s.members[a] with state := .fenced, leaseLeft := 0 }).zeroFill a with hu
  have hdescs : u.descs = s.descs := by simp [hu]
  have hdiscard : Frees s (((u.abortStaging a).releaseAll ((u.abortStaging a).heldFor a) .discarded)) :=
    ((Frees.of_same hdescs).trans (frees_abortStaging u a)).trans (frees_releaseAll _ _ _)
  exact hdiscard.trans (.of_same (by simp [hu, State.fence, State.discard]))

/-- The consumers of a tick free descriptors and change no other. -/
theorem frees_takeEvent (s : State) (e : TickEvent) : Frees s (s.takeEvent e) := by
  cases e with
  | pass =>
    show Frees s s.takePass
    unfold State.takePass
    split
    · exact .of_same rfl
    · exact frees_releaseAll { s with passDue := none } _ _
  | fence a =>
    show Frees s (s.takeFencing a)
    unfold State.takeFencing
    split
    · exact frees_fence s a
    · exact .of_same rfl
  | lapse =>
    have h : s.takeLapse.descs = s.descs := by simp
    exact .of_same h

theorem frees_settle (s : State) : Frees s s.settle := by
  unfold State.settle
  generalize 6 = n
  induction n generalizing s with
  | zero => exact .of_same rfl
  | succ n ih =>
    unfold State.settleSome
    split
    · exact .of_same rfl
    · exact (frees_takeEvent s _).trans (ih _)
    · exact (frees_takeEvent { s with choices := s.choices + 1 } _).trans (ih _)

theorem PlaceLaw.mem_line {s : State} (hl : PlaceLaw s) {a : Agent} {k : MsgClass} {d : DescId} (h : d ∈ s.line a k) :
    (s.admitted d).isSome = true := by
  rcases List.mem_append.mp h with h | h
  · obtain ⟨m, adm, hd, -, -⟩ := hl.hand (Option.mem_toList.mp h)
    rw [admitted_inHand hd]
    rfl
  · obtain ⟨m, adm, hd, -, -⟩ := hl.queue h
    rw [admitted_queued hd]
    rfl

/-- Where nothing is admitted, the messages that are left keep their order. -/
theorem admissionOrder_of_thins {s t : State} {order : List DescId} (hl : PlaceLaw t) (h : Thins s t)
    (ho : AdmissionOrder s order) : AdmissionOrder t (order.filter (fun d => (t.admitted d).isSome)) := by
  obtain ⟨hnodup, hmem, hline⟩ := ho
  refine ⟨hnodup.filter _, fun d => ?_, fun a k => ?_⟩
  · rw [List.mem_filter, hmem d, ← Option.isSome_iff_ne_none, ← Option.isSome_iff_ne_none]
    exact ⟨And.right, fun hd => ⟨h.admitted d hd, hd⟩⟩
  · have hall : (t.line a k).filter (fun d => (t.admitted d).isSome) = t.line a k :=
      List.filter_eq_self.mpr fun d hd => hl.mem_line hd
    have hsub := ((h.line a k).trans (hline a k)).filter (fun d => (t.admitted d).isSome)
    rwa [hall] at hsub

/-- R37: an admission joins the order at its end, as it joins the tail of its queue. -/
theorem Admits.admissionOrder {s t : State} {order : List DescId} (h : Admits s t) (ho : AdmissionOrder s order) :
    ∃ d m, s.descs[d] = .staging m ∧ AdmissionOrder t (order ++ [d]) ∧
      ∀ e : DescId, e ≠ d → t.admitted e = s.admitted e := by
  obtain ⟨p, c, m, hloaded, -⟩ := h
  obtain ⟨hnodup, hmem, hline⟩ := ho
  obtain ⟨-, -, hd⟩ := loadedStaging_spec hloaded
  generalize htag : s.assignTag m.source = tag
  set t := (s.admitMessage c.desc m tag).setStaging p none with ht
  have hself : t.admitted c.desc = some (m, ⟨tag, s.ticks⟩) :=
    admitted_queued (by simp [-Fin.getElem_fin, ht, State.admitMessage])
  have hother (e : DescId) (he : e ≠ c.desc) : t.admitted e = s.admitted e :=
    admitted_congr (by simp [-Fin.getElem_fin, ht, State.admitMessage, vec_get_set_ne _ _ _ _ (Ne.symm he)])
  have hnew : c.desc ∉ order := fun hx => (hmem c.desc).mp hx (by unfold State.admitted; rw [hd])
  refine ⟨c.desc, m, hd, ⟨?_, fun e => ?_, fun a k => ?_⟩, hother⟩
  · refine List.nodup_append.mpr ⟨hnodup, List.nodup_singleton _, fun x hx y hy => ?_⟩
    rw [List.mem_singleton.mp hy]
    rintro rfl
    exact hnew hx
  · rw [List.mem_append, List.mem_singleton]
    by_cases he : e = c.desc
    · subst he
      simp [hself]
    · rw [hother e he, or_iff_left he]
      exact hmem e
  · have hqueue : (t.queues[a]).get k =
        if m.dest = a ∧ m.cls = k then (s.queues[m.dest]).get m.cls ++ [c.desc] else (s.queues[a]).get k :=
      setQueue_get (s.setDesc c.desc (.queued m ⟨tag, s.ticks⟩)) m.dest a m.cls k _
    have hhand : t.hands = s.hands := rfl
    rw [hqueue, hhand]
    split_ifs with hx
    · obtain ⟨rfl, rfl⟩ := hx
      rw [← List.append_assoc]
      exact (hline _ _).append (.refl _)
    · exact (hline a k).trans (List.sublist_append_left order [c.desc])

/-- Settles O60: events only thin the order out, and an admission joins it at its end. -/
theorem everyStepKeepsAdmissionOrder : Obligations.EveryStepKeepsAdmissionOrder := by
  intro s t order hl ho h
  rcases step_events s t h with he | ⟨rest, v, he, ha, hm⟩
  · obtain ⟨hplace, hthins⟩ := events_place he hl
    exact ⟨[], by rw [List.append_nil]; exact admissionOrder_of_thins hplace hthins ho, .inl rfl⟩
  · set u := State.settle { s with pending := rest } with hu
    obtain ⟨hplace, hthins⟩ := events_place he hl
    obtain ⟨d, m, hd, hv, hother⟩ := ha.admissionOrder (admissionOrder_of_thins hplace hthins ho)
    obtain ⟨hplacet, hthinst⟩ := moves_place hm (admits_place ha hplace)
    have hs : s.descs[d] = .staging m := by
      rcases frees_settle { s with pending := rest } d with hx | hx
      · rw [← hu, hd] at hx
        cases hx
      · rw [← hu, hd] at hx
        exact hx.symm
    have hnot : d ∉ order := fun hx => (ho.2.1 d).mp hx (by unfold State.admitted; rw [hs])
    have hfilter : (order.filter (fun x => (u.admitted x).isSome)).filter (fun x => (t.admitted x).isSome) =
        order.filter (fun x => (t.admitted x).isSome) := by
      rw [List.filter_filter]
      refine List.filter_congr fun x hx => ?_
      cases hadm : (t.admitted x).isSome with
      | false => rfl
      | true =>
        have hne : x ≠ d := fun e => hnot (e ▸ hx)
        rw [← hother x hne, hthinst.admitted x hadm]
        rfl
    have horder := admissionOrder_of_thins hplacet hthinst hv
    rw [List.filter_append, hfilter] at horder
    refine ⟨_, horder, ?_⟩
    cases hx : (t.admitted d).isSome with
    | false => exact .inl (by simp [hx])
    | true => exact .inr ⟨d, m, by simp [hx], hs⟩

end Sys2Proof.Machine

/-! The cells, the counts and the descriptors in agreement: what dropping a record, a staging, a cell's return and the
start-up clear of a cell do to them. -/

namespace Sys2Proof.Machine

/-! ## Counting -/

/-- A count after one member of the list has changed. -/
theorem countP_update {α : Type} {l : List α} (hn : l.Nodup) {p q : α → Bool} {i : α} (hi : i ∈ l)
    (h : ∀ j, j ≠ i → q j = p j) :
    l.countP q + (if p i = true then 1 else 0) = l.countP p + (if q i = true then 1 else 0) := by
  induction l with
  | nil => cases hi
  | cons x rest ih =>
    obtain ⟨hx, hrest⟩ := List.nodup_cons.mp hn
    rw [List.countP_cons, List.countP_cons]
    rcases List.mem_cons.mp hi with rfl | hmem
    · have hsame : rest.countP q = rest.countP p :=
        List.countP_congr fun j hj => by rw [h j (fun e => hx (e ▸ hj))]
      rw [hsame]
      omega
    · have := ih hrest hmem
      rw [h x (fun e => hx (e ▸ hmem))]
      omega

/-- Two counts that no member shares. -/
theorem countP_add {α : Type} (l : List α) {p q r : α → Bool} (h : ∀ x, r x = true ↔ p x = true ∨ q x = true)
    (hdisjoint : ∀ x, ¬ (p x = true ∧ q x = true)) : l.countP r = l.countP p + l.countP q := by
  induction l with
  | nil => rfl
  | cons x rest ih =>
    rw [List.countP_cons, List.countP_cons, List.countP_cons, ih]
    have hr := h x
    have hd := hdisjoint x
    by_cases hp : p x = true <;> by_cases hq : q x = true
    · exact absurd ⟨hp, hq⟩ hd
    · rw [if_pos (hr.mpr (.inl hp)), if_pos hp, if_neg hq]; omega
    · rw [if_pos (hr.mpr (.inr hq)), if_neg hp, if_pos hq]; omega
    · rw [if_neg (fun e => (hr.mp e).elim hp hq), if_neg hp, if_neg hq]; rfl

/-- The members of a list without repetition, counted in all of its type. -/
theorem countP_mem {n : Nat} {cs : List (Fin n)} (hn : cs.Nodup) {p : Fin n → Bool} (h : ∀ c, p c = true ↔ c ∈ cs) :
    (List.finRange n).countP p = cs.length := by
  rw [List.countP_eq_length_filter]
  refine List.Perm.length_eq ((List.perm_ext_iff_of_nodup ((List.nodup_finRange n).filter _) hn).mpr fun c => ?_)
  rw [List.mem_filter, h c]
  exact and_iff_right (List.mem_finRange c)

/-- The sixteen buckets. -/
def allCharges : List Charge := agents.map .common ++ agents.flatMap (fun a => classes.map (.reserved a))

theorem countP_allCharges (x : Option Charge) :
    (allCharges.map (fun ch => if x = some ch then 1 else 0)).sum = if x.isSome = true then 1 else 0 := by
  cases x with
  | none => rfl
  | some c =>
    cases c with
    | common a => revert a; decide
    | reserved a k => cases k <;> revert a <;> decide

/-- Every cell that carries a charge carries one of the sixteen. -/
theorem countP_charged (f : CellId → Option Charge) (l : List CellId) :
    l.countP (fun c => (f c).isSome) = (allCharges.map (fun ch => l.countP (fun c => f c = some ch))).sum := by
  induction l with
  | nil => rfl
  | cons c rest ih =>
    have hstep : (fun ch => (c :: rest).countP (fun c => decide (f c = some ch))) =
        fun ch => rest.countP (fun c => decide (f c = some ch)) + if f c = some ch then 1 else 0 := by
      funext ch
      rw [List.countP_cons]
      simp
    rw [hstep, List.sum_map_add, countP_allCharges, ← ih, List.countP_cons]

/-! ## The counts of the credit unit -/

/-- All cells that the counts charge. -/
def UsedCounts.total (u : UsedCounts) : Nat :=
  u.commonTotal + (agents.map (fun a => (u.reserved[a]).express + (u.reserved[a]).standard + (u.reserved[a]).bulk)).sum

theorem sum_agents (f : Agent → Nat) : (agents.map f).sum = f 0 + f 1 + f 2 + f 3 := by
  simp [agents]
  omega

theorem UsedCounts.total_eq (u : UsedCounts) : u.total = u.commonTotal +
    (((u.reserved[(0 : Agent)]).express + (u.reserved[(0 : Agent)]).standard + (u.reserved[(0 : Agent)]).bulk) +
      ((u.reserved[(1 : Agent)]).express + (u.reserved[(1 : Agent)]).standard + (u.reserved[(1 : Agent)]).bulk) +
      ((u.reserved[(2 : Agent)]).express + (u.reserved[(2 : Agent)]).standard + (u.reserved[(2 : Agent)]).bulk) +
      ((u.reserved[(3 : Agent)]).express + (u.reserved[(3 : Agent)]).standard + (u.reserved[(3 : Agent)]).bulk)) := by
  rw [UsedCounts.total, sum_agents]

theorem UsedCounts.total_rise (u : UsedCounts) (c : Charge) (n : Nat) : (u.rise c n).total = u.total + n := by
  cases c with
  | common a =>
    exact Nat.add_right_comm _ _ _
  | reserved a k =>
    rw [UsedCounts.total_eq, UsedCounts.total_eq]
    have hget (b : Agent) : ((u.rise (.reserved a k) n).reserved[b]) =
        if a = b then (u.reserved[a]).set k ((u.reserved[a]).get k + n) else u.reserved[b] := vec_get_set _ _ _ _
    rw [hget, hget, hget, hget]
    show u.commonTotal + _ = _
    fin_cases a <;> cases k <;> simp [-Fin.getElem_fin, PerClass.set, PerClass.get] <;> omega

/-- Counts within a valid table charge no more cells than there are. -/
theorem total_le_of_fits {s : State} {x : Table} (hf : s.fits x = true) (hv : x.valid = true) : s.used.total ≤ 384 := by
  obtain ⟨hreserved, hcommon, -, -⟩ := (fits_iff s x).mp hf
  have hsum : x.sumReserved ≤ 352 := by
    unfold Table.valid at hv
    simp only [Bool.and_eq_true, decide_eq_true_eq] at hv
    obtain ⟨⟨⟨⟨⟨⟨⟨⟨⟨-, h⟩, -⟩, -⟩, -⟩, -⟩, -⟩, -⟩, -⟩, -⟩ := hv
    exact h
  have hle : s.used.total ≤ s.used.commonTotal + x.sumReserved := by
    refine Nat.add_le_add_left (List.sum_le_sum fun a _ => ?_) _
    have he := hreserved a .express
    have hs := hreserved a .standard
    have hb := hreserved a .bulk
    simp only [PerClass.get] at he hs hb
    omega
  have hcap : x.capacity = 384 - x.sumReserved := rfl
  omega

theorem creditLaw_total {s : State} (h : CreditLaw s) : s.used.total = (allCharges.map s.charged).sum := by
  obtain ⟨hcommon, hreserved, htotal⟩ := h
  have hlist : (allCharges.map s.charged).sum = s.charged (.common 0) + s.charged (.common 1) + s.charged (.common 2) +
      s.charged (.common 3) + (agents.map (fun a => s.charged (.reserved a .express) + s.charged (.reserved a .standard) +
        s.charged (.reserved a .bulk))).sum := by
    rw [sum_agents]
    simp [allCharges, agents, classes]
    omega
  rw [hlist, ← hcommon 0, ← hcommon 1, ← hcommon 2, ← hcommon 3, UsedCounts.total, htotal]
  refine congrArg₂ (· + ·) rfl (congrArg List.sum (List.map_congr_left fun a _ => ?_))
  rw [← hreserved a .express, ← hreserved a .standard, ← hreserved a .bulk]
  rfl

/-! ## Message records -/

theorem message_free {s : State} {d : DescId} (h : s.descs[d] = .free) : s.message d = none := by
  unfold State.message
  rw [h]

theorem message_staging {s : State} {d : DescId} {m : Message} (h : s.descs[d] = .staging m) : s.message d = some m := by
  unfold State.message
  rw [h]

theorem message_queued {s : State} {d : DescId} {m : Message} {adm : Admission} (h : s.descs[d] = .queued m adm) :
    s.message d = some m := by
  unfold State.message
  rw [h]

theorem message_inHand {s : State} {d : DescId} {m : Message} {adm : Admission} (h : s.descs[d] = .inHand m adm) :
    s.message d = some m := by
  unfold State.message
  rw [h]

theorem message_congr {s t : State} {d : DescId} (h : t.descs[d] = s.descs[d]) : t.message d = s.message d := by
  unfold State.message
  rw [h]

theorem message_eq_none {s : State} {d : DescId} : s.message d = none ↔ s.descs[d] = .free := by
  cases h : s.descs[d] with
  | free => simp [message_free h]
  | staging m => simp [message_staging h]
  | queued m adm => simp [message_queued h]
  | inHand m adm => simp [message_inHand h]

/-- A record without the three fields that change while it is in the part (R59, R84). -/
def Message.core (m : Message) : Message := { m with redeliveries := 0, receipt := false, corr := .absent }

/-- Descriptor `d` is out of FREE with a message of source `a`. -/
def State.sourced (s : State) (a : Agent) (d : DescId) : Bool := (s.message d).map Message.source = some a

theorem sourced_of_none {s : State} {a : Agent} {d : DescId} (h : s.message d = none) : s.sourced a d = false := by
  unfold State.sourced
  rw [h]
  rfl

theorem sourced_of_some {s : State} {a : Agent} {d : DescId} {m : Message} (h : s.message d = some m) :
    s.sourced a d = decide (m.source = a) := by
  unfold State.sourced
  rw [h]
  simp

theorem sourced_congr {s t : State} {a : Agent} {d : DescId} (h : t.message d = s.message d) :
    t.sourced a d = s.sourced a d := by
  unfold State.sourced
  rw [h]

/-- The number of descriptors of source `a` out of FREE (R33). -/
theorem inUseLaw_iff (s : State) : InUseLaw s ↔ ∀ a : Agent, s.inUse[a] = (List.finRange 128).countP (s.sourced a) := by
  unfold InUseLaw
  refine forall_congr' fun a => ?_
  have h : (fun d => match s.message d with
      | none => false
      | some m => decide (m.source = a)) = s.sourced a := by
    funext d
    unfold State.sourced
    cases s.message d <;> simp
  exact ⟨fun hl => hl.trans (congrArg (fun p => (List.finRange 128).countP p) h),
    fun hl => hl.trans (congrArg (fun p => (List.finRange 128).countP p) h.symm)⟩

theorem engineLaw_startUp {s : State} {p : CellId} (h : s.engine = .startUp p) :
    EngineLaw s ↔ s.scrubQueue = [] ∧ ∀ d : DescId, s.descs[d] = .free := by
  unfold EngineLaw
  rw [h]

theorem engineLaw_idle {s : State} (h : s.engine = .idle) : EngineLaw s ↔ s.scrubQueue = [] := by
  unfold EngineLaw
  rw [h]

theorem engineLaw_clearing {s : State} {c : CellId} (h : s.engine = .clearing c) :
    EngineLaw s ↔ s.scrubQueue.head? = some c := by
  unfold EngineLaw
  rw [h]

/-- The laws of the engine, the cells, the counts and the message records (R3, R24, R25, R28, R33, R96). -/
structure StoreLaw (s : State) : Prop where
  engine : EngineLaw s
  inUse : InUseLaw s
  cell : CellLaw s
  credit : CreditLaw s
  message : MessageLaw s

/-- The store is as before, and every message record but for the fields that change in the part. -/
structure SameStore (s t : State) : Prop where
  cellMap : t.cellMap = s.cellMap
  freeList : t.freeList = s.freeList
  scrubQueue : t.scrubQueue = s.scrubQueue
  engine : t.engine = s.engine
  used : t.used = s.used
  inUse : t.inUse = s.inUse
  message : ∀ d : DescId, (t.message d).map Message.core = (s.message d).map Message.core

theorem SameStore.symm {s t : State} (h : SameStore s t) : SameStore t s :=
  ⟨h.cellMap.symm, h.freeList.symm, h.scrubQueue.symm, h.engine.symm, h.used.symm, h.inUse.symm, fun d => (h.message d).symm⟩

/-- A message of `t` is one of `s`, with the same source, destination, class, length, cells and charge. -/
theorem SameStore.of_message {s t : State} (h : SameStore s t) {d : DescId} {m : Message} (hm : t.message d = some m) :
    ∃ m', s.message d = some m' ∧ m'.core = m.core := by
  have hd := h.message d
  rw [hm] at hd
  cases hs : s.message d with
  | none =>
    rw [hs] at hd
    cases hd
  | some m' =>
    rw [hs] at hd
    exact ⟨m', rfl, (Option.some.inj hd).symm⟩

theorem core_fields {m m' : Message} (h : m'.core = m.core) : m'.source = m.source ∧ m'.dest = m.dest ∧
    m'.cls = m.cls ∧ m'.length = m.length ∧ m'.cells = m.cells ∧ m'.charge = m.charge := by
  obtain ⟨⟩ := m
  obtain ⟨⟩ := m'
  simpa [Message.core] using h

theorem charged_congr {s t : State} (h : t.cellMap = s.cellMap) (ch : Charge) : t.charged ch = s.charged ch := by
  unfold State.charged
  rw [h]

theorem storeLaw_congr {s t : State} (h : SameStore s t) (hl : StoreLaw s) : StoreLaw t := by
  obtain ⟨hengine, hinUse, ⟨hfree, hscrub, hfreeiff, hscrubiff, hbound, hawaiting⟩, ⟨hcommon, hreserved, htotal⟩, hmessage⟩ := hl
  refine ⟨?_, ?_, ⟨?_, ?_, ?_, ?_, fun c ch d pos => ?_, ?_⟩, ⟨?_, ?_, ?_⟩, fun d m hm => ?_⟩
  · unfold EngineLaw at hengine ⊢
    rw [h.engine, h.scrubQueue]
    split at hengine
    · refine ⟨hengine.1, fun d => message_eq_none.mp ?_⟩
      have hd := h.message d
      rw [message_free (hengine.2 d)] at hd
      exact Option.map_eq_none_iff.mp hd
    · exact hengine
    · exact hengine
  · rw [inUseLaw_iff] at hinUse ⊢
    intro a
    rw [h.inUse, hinUse a]
    refine List.countP_congr fun d _ => ?_
    have hsource : (t.message d).map Message.source = (s.message d).map Message.source := by
      have hd := congrArg (Option.map Message.source) (h.message d)
      rwa [Option.map_map, Option.map_map] at hd
    unfold State.sourced
    rw [hsource]
  · rwa [h.freeList]
  · rwa [h.scrubQueue]
  · rwa [h.cellMap, h.freeList]
  · rwa [h.cellMap, h.scrubQueue]
  · rw [h.cellMap, hbound c ch d pos]
    have hmove {u v : State} (huv : SameStore u v) : (∃ m, v.message d = some m ∧ m.charge = ch ∧ m.cells[pos]? = some c) →
        ∃ m, u.message d = some m ∧ m.charge = ch ∧ m.cells[pos]? = some c := by
      rintro ⟨m, hm, hch, hc⟩
      obtain ⟨m', hm', hcore⟩ := huv.of_message hm
      obtain ⟨-, -, -, -, hcells, hcharge⟩ := core_fields hcore
      exact ⟨m', hm', hcharge.trans hch, by rw [hcells]; exact hc⟩
    exact ⟨hmove h.symm, hmove h⟩
  · rwa [h.cellMap, h.engine]
  · intro a
    rw [h.used, charged_congr h.cellMap]
    exact hcommon a
  · intro a k
    rw [h.used, charged_congr h.cellMap]
    exact hreserved a k
  · rwa [h.used]
  · obtain ⟨m', hm', hcore⟩ := h.of_message hm
    obtain ⟨h1, h2, h3, h4, h5, h6⟩ := core_fields hcore
    have := hmessage d m' hm'
    rwa [h1, h2, h3, h4, h5, h6] at this

theorem SameStore.of_same {s t : State} (hc : t.cellMap = s.cellMap) (hf : t.freeList = s.freeList)
    (hq : t.scrubQueue = s.scrubQueue) (he : t.engine = s.engine) (hu : t.used = s.used) (hi : t.inUse = s.inUse)
    (hd : t.descs = s.descs) : SameStore s t := ⟨hc, hf, hq, he, hu, hi, fun d => by rw [message_congr (s := s) (by rw [hd])]⟩

/-- One descriptor was set to a record of the same message. -/
theorem SameStore.of_setDesc {s t : State} {d : DescId} {x : Descriptor} {m m' : Message} (hc : t.cellMap = s.cellMap)
    (hf : t.freeList = s.freeList) (hq : t.scrubQueue = s.scrubQueue) (he : t.engine = s.engine) (hu : t.used = s.used)
    (hi : t.inUse = s.inUse) (hd : t.descs = s.descs.set d x) (hm : s.message d = some m)
    (hm' : t.message d = some m') (hcore : m'.core = m.core) : SameStore s t := by
  refine ⟨hc, hf, hq, he, hu, hi, fun e => ?_⟩
  by_cases hde : d = e
  · subst hde
    rw [hm, hm', Option.map_some, Option.map_some, hcore]
  · rw [message_congr (s := s) (by rw [hd, vec_get_set_ne _ _ _ _ hde])]

end Sys2Proof.Machine

/-! Cells, counts, descriptors and queues in agreement through every step (R24, R25, R33, R35, R38, R96, R142), and FREE
cells clear (R101). -/

namespace Sys2Proof.Machine

/-! ## A message record dropped (R42 steps 2 and 3) -/

theorem CellLaw.bound {s : State} (h : CellLaw s) (c : CellId) (ch : Charge) (d : DescId) (pos : Nat) :
    s.cellMap[c] = .bound ch d pos ↔ ∃ m, s.message d = some m ∧ m.charge = ch ∧ m.cells[pos]? = some c := by
  obtain ⟨-, -, -, -, hbound, -⟩ := h
  exact hbound c ch d pos

/-- The cells of a message are bound to it. -/
theorem CellLaw.mem_cells {s : State} (h : CellLaw s) {d : DescId} {m : Message} (hm : s.message d = some m)
    (c : CellId) : c ∈ m.cells ↔ ∃ pos, s.cellMap[c] = .bound m.charge d pos := by
  rw [List.mem_iff_getElem?]
  refine exists_congr fun pos => ?_
  rw [h.bound]
  constructor
  · exact fun hc => ⟨m, hm, rfl, hc⟩
  · rintro ⟨m', hm', -, hc⟩
    cases hm.symm.trans hm'
    exact hc

/-- No message holds a cell twice. -/
theorem CellLaw.nodup_cells {s : State} (h : CellLaw s) {d : DescId} {m : Message} (hm : s.message d = some m) :
    m.cells.Nodup := by
  rw [List.nodup_iff_getElem?_ne_getElem?]
  intro i j hij hj heq
  have hat (pos : Nat) (hpos : m.cells[pos]? = some m.cells[j]) : s.cellMap[m.cells[j]] = .bound m.charge d pos :=
    (h.bound _ _ _ _).mpr ⟨m, hm, rfl, hpos⟩
  have hj' : m.cells[j]? = some m.cells[j] := List.getElem?_eq_getElem hj
  have hcells := (hat i (heq.trans hj')).symm.trans (hat j hj')
  injection hcells with _ _ hpos
  omega

theorem released_charge (r : CellRecord) : r.released.charge = r.charge := by
  cases r <;> rfl

theorem charged_congr_charge {s t : State} (h : ∀ c : CellId, (t.cellMap[c]).charge = (s.cellMap[c]).charge)
    (ch : Charge) : t.charged ch = s.charged ch := by
  unfold State.charged
  exact List.countP_congr fun c _ => by rw [h c]

/-- One descriptor becomes FREE: the count of its source falls by one. -/
theorem inUseLaw_dropRecord {s : State} {d : DescId} {m : Message} (hl : InUseLaw s) (hm : s.message d = some m) :
    InUseLaw (s.dropRecord d m) := by
  obtain ⟨hself, hother, -, -, -, -, hin, hinother⟩ := dropRecord_dropped s d m
  rw [inUseLaw_iff] at hl ⊢
  intro a
  have hcount := countP_update (List.nodup_finRange 128) (p := s.sourced a) (q := (s.dropRecord d m).sourced a)
    (List.mem_finRange d) (fun e he => sourced_congr (message_congr (hother e he)))
  rw [sourced_of_none (message_free hself), sourced_of_some hm] at hcount
  have hs := hl a
  by_cases ha : a = m.source
  · subst ha
    simp only [decide_true, if_true, Bool.false_eq_true, if_false] at hcount
    omega
  · have hne : ¬ m.source = a := fun e => ha e.symm
    simp only [hne, decide_false, Bool.false_eq_true, if_false] at hcount
    rw [hinother a ha]
    omega

theorem cellLaw_dropRecord {s : State} {d : DescId} {m : Message} (hl : CellLaw s) (hm : s.message d = some m)
    (hcells : m.cells ≠ []) (hengine : s.engine = .idle → s.scrubQueue = []) : CellLaw (s.dropRecord d m) := by
  obtain ⟨hself, hother, hqueue, hidle, hbusy, hmap, -, -⟩ := dropRecord_dropped s d m
  obtain ⟨hfreenodup, hscrubnodup, hfree, hscrub, hbound, hawaiting⟩ := id hl
  have hmem := hl.mem_cells hm
  have hlist : (s.dropRecord d m).freeList = s.freeList := by simp
  have hnotfree {c : CellId} (hc : c ∈ m.cells) : c ∉ s.freeList := fun hx => by
    obtain ⟨pos, hb⟩ := (hmem c).mp hc
    rw [(hfree c).mpr hx] at hb
    cases hb
  have hnotscrub {c : CellId} (hc : c ∈ m.cells) : c ∉ s.scrubQueue := fun hx => by
    obtain ⟨pos, hb⟩ := (hmem c).mp hc
    obtain ⟨ch, hs⟩ := (hscrub c).mpr hx
    rw [hs] at hb
    cases hb
  have hreleased {c : CellId} (hc : c ∈ m.cells) : (s.dropRecord d m).cellMap[c] = .scrub m.charge := by
    obtain ⟨pos, hb⟩ := (hmem c).mp hc
    rw [hmap, if_pos hc, hb]
    rfl
  have hkept {c : CellId} (hc : c ∉ m.cells) : (s.dropRecord d m).cellMap[c] = s.cellMap[c] := by
    rw [hmap, if_neg hc]
  refine ⟨by rwa [hlist], ?_, fun c => ?_, fun c => ?_, fun c ch e pos => ?_, fun c => ?_⟩
  · rw [hqueue]
    exact List.nodup_append.mpr ⟨hscrubnodup, hl.nodup_cells hm, fun x hx y hy e => hnotscrub (e ▸ hy) hx⟩
  · rw [hlist]
    by_cases hc : c ∈ m.cells
    · rw [hreleased hc]
      exact iff_of_false CellRecord.noConfusion (hnotfree hc)
    · rw [hkept hc]
      exact hfree c
  · rw [hqueue, List.mem_append]
    by_cases hc : c ∈ m.cells
    · exact iff_of_true ⟨_, hreleased hc⟩ (.inr hc)
    · rw [hkept hc, or_iff_left hc]
      exact hscrub c
  · by_cases hc : c ∈ m.cells
    · rw [hreleased hc]
      refine iff_of_false CellRecord.noConfusion ?_
      rintro ⟨m', hm', hcharge, hpos⟩
      by_cases he : e = d
      · subst he
        rw [message_free hself] at hm'
        cases hm'
      · rw [message_congr (hother e he)] at hm'
        obtain ⟨pos', hb⟩ := (hmem c).mp hc
        have hb' := (hl.bound c ch e pos).mpr ⟨m', hm', hcharge, hpos⟩
        rw [hb] at hb'
        injection hb' with _ hde
        exact he hde.symm
    · rw [hkept hc, hl.bound c ch e pos]
      by_cases he : e = d
      · subst he
        rw [message_free hself, hm]
        refine iff_of_false ?_ (by rintro ⟨_, h, -⟩; cases h)
        rintro ⟨m', h, -, hpos⟩
        cases h
        exact hc (List.mem_of_getElem? hpos)
      · rw [message_congr (hother e he)]
  · have hstart : ∀ p, (s.dropRecord d m).engine = .startUp p ↔ s.engine = .startUp p := fun p => by
      by_cases he : s.engine = .idle
      · obtain ⟨x, rest, hx⟩ := List.exists_cons_of_ne_nil hcells
        rw [(hidle x rest he (hengine he) hx).1, he]
        simp
      · rw [(hbusy he).1]
    simp only [hstart]
    by_cases hc : c ∈ m.cells
    · rw [hreleased hc]
      obtain ⟨pos, hb⟩ := (hmem c).mp hc
      refine iff_of_false CellRecord.noConfusion fun h => ?_
      rw [(hawaiting c).mpr h] at hb
      cases hb
    · rw [hkept hc]
      exact hawaiting c

theorem storeLaw_dropRecord {s : State} {d : DescId} {m : Message} (hl : StoreLaw s) (hm : s.message d = some m) :
    StoreLaw (s.dropRecord d m) := by
  obtain ⟨hself, hother, hqueue, hidle, hbusy, hmap, -, -⟩ := dropRecord_dropped s d m
  obtain ⟨hengine, hinUse, hcell, ⟨hcommon, hreserved, htotal⟩, hmessage⟩ := hl
  have hcells : m.cells ≠ [] := by
    obtain ⟨-, hpos, -, hlen, -⟩ := hmessage d m hm
    intro hnil
    rw [hnil, List.length_nil, cellsFor] at hlen
    omega
  have hempty (he : s.engine = .idle) : s.scrubQueue = [] := (engineLaw_idle he).mp hengine
  have hused : (s.dropRecord d m).used = s.used := by simp
  have hcharge (c : CellId) : ((s.dropRecord d m).cellMap[c]).charge = (s.cellMap[c]).charge := by
    rw [hmap]
    split_ifs
    · exact released_charge _
    · rfl
  refine ⟨?_, inUseLaw_dropRecord hinUse hm, cellLaw_dropRecord hcell hm hcells hempty, ⟨?_, ?_, ?_⟩, fun e m' hm' => ?_⟩
  · cases he : s.engine with
    | startUp p =>
      rw [message_free (((engineLaw_startUp he).mp hengine).2 d)] at hm
      cases hm
    | idle =>
      obtain ⟨x, rest, hx⟩ := List.exists_cons_of_ne_nil hcells
      rw [engineLaw_clearing (hidle x rest he (hempty he) hx).1, hqueue, hempty he, hx]
      rfl
    | clearing c =>
      have hsame := (hbusy (by rw [he]; exact ScrubEngine.noConfusion)).1
      rw [engineLaw_clearing (hsame.trans he), hqueue, List.head?_append, (engineLaw_clearing he).mp hengine]
      rfl
  · intro a
    rw [hused, charged_congr_charge hcharge]
    exact hcommon a
  · intro a k
    rw [hused, charged_congr_charge hcharge]
    exact hreserved a k
  · rwa [hused]
  · by_cases he : e = d
    · subst he
      rw [message_free hself] at hm'
      cases hm'
    · rw [message_congr (hother e he)] at hm'
      exact hmessage e m' hm'

theorem storeLaw_release {s : State} (d : DescId) (path : RemovalPath) (hl : StoreLaw s) : StoreLaw (s.release d path) := by
  have hfinish {u : State} {m : Message} {adm : Admission} (hu : SameStore s u) (hum : u.message d = some m) :
      StoreLaw (u.finishRelease d m adm path) := by
    have hdrop := storeLaw_dropRecord (storeLaw_congr hu hl) hum
    exact storeLaw_congr (.of_same (by simp [State.finishRelease]) (by simp [State.finishRelease])
      (by simp [State.finishRelease]) (by simp [State.finishRelease]) (by simp [State.finishRelease])
      (by simp [State.finishRelease]) (by simp [State.finishRelease])) hdrop
  cases hd : s.descs[d] with
  | free => rwa [release_free s d path hd]
  | staging m =>
    rw [release_staging s d m path hd]
    have hdrop := storeLaw_dropRecord hl (message_staging hd)
    exact storeLaw_congr (.of_same (by simp) (by simp) (by simp) (by simp) (by simp) (by simp) (by simp)) hdrop
  | queued m adm =>
    rw [release_queued s d m adm path hd]
    exact hfinish (.of_same rfl rfl rfl rfl rfl rfl rfl) (message_queued hd)
  | inHand m adm =>
    rw [release_inHand s d m adm path hd]
    exact hfinish (.of_same rfl rfl rfl rfl rfl rfl rfl) (message_inHand hd)

/-! ## A message staged (R28, R56) -/

/-- Outside the start-up clear the FREE cells are the cells that carry no charge (R24, R25). -/
theorem freeList_length {s : State} (hc : CellLaw s) (hcredit : CreditLaw s) (hstarting : s.starting = false) :
    s.freeList.length + s.used.total = 384 := by
  obtain ⟨hnodup, -, hfree, -, -, hawaiting⟩ := hc
  have hnone (c : CellId) : ((s.cellMap[c]).charge).isSome = false ↔ c ∈ s.freeList := by
    rw [← hfree c]
    cases h : s.cellMap[c] with
    | awaitingClear =>
      obtain ⟨p, hp, -⟩ := (hawaiting c).mp h
      unfold State.starting at hstarting
      rw [hp] at hstarting
      cases hstarting
    | free => simp [CellRecord.charge]
    | bound ch d pos => simp [CellRecord.charge]
    | scrub ch => simp [CellRecord.charge]
  have hlen := countP_mem hnodup (p := fun c => !((s.cellMap[c]).charge).isSome) (fun c => by
    rw [Bool.not_eq_true', hnone c])
  have hsum := countP_charged (fun c => (s.cellMap[c]).charge) (List.finRange 384)
  have hall := countP_add (List.finRange 384) (p := fun c => !((s.cellMap[c]).charge).isSome)
    (q := fun c => ((s.cellMap[c]).charge).isSome) (r := fun _ => true)
    (fun c => by cases ((s.cellMap[c]).charge).isSome <;> simp) (fun c => by simp)
  have htotal := creditLaw_total hcredit
  rw [List.countP_true, List.length_finRange] at hall
  have hcharged : (allCharges.map s.charged).sum =
      (List.finRange 384).countP (fun c => ((s.cellMap[c]).charge).isSome) := hsum.symm
  omega

/-- What the staging of an accepted header relies on. -/
structure Stageable (s : State) (p : Agent) (d : DescId) (m : Message) : Prop where
  free : s.descs[d] = .free
  source : m.source = p
  dest : m.source ≠ m.dest
  length : 0 < m.length ∧ m.length ≤ maxLength m.cls
  cells : m.cells = s.freeList.take (cellsFor m.length)
  charge : m.charge = .common m.source ∨ m.charge = .reserved m.source m.cls
  room : cellsFor m.length ≤ s.freeList.length
  started : s.starting = false

theorem stageable_of_accepted {s : State} {p : Agent} {dest cls flags : Byte} {len : Nat} {d : DescId} {m : Message}
    (hjudged : s.judgeHeader p dest cls flags len = .accepted d m) (hl : StoreLaw s) (hlimit : LimitLaw s)
    (htable : TableLaw s) (hstarting : s.starting = false) : Stageable s p d m := by
  obtain ⟨k, e, c, hne, hpos, hmax, -, hd, hdesc, hc, rfl⟩ := judgeHeader_accepted hjudged
  have hroom := total_le_of_fits (fits_rise hlimit hdesc hc) htable.1
  rw [UsedCounts.total_rise] at hroom
  have hfree := freeList_length hl.cell hl.credit hstarting
  refine ⟨freeDesc_free hd, rfl, fun h => hne h.symm, ⟨hpos, hmax⟩, rfl, ?_, ?_, hstarting⟩
  · exact (judgeCredit_some hc).imp And.left And.left
  · show cellsFor len ≤ _
    omega

/-- The cells of a staged message: bound to it in order, where every other cell is as before. -/
theorem Stageable.cellMap {s : State} {p : Agent} {d : DescId} {m : Message} (h : Stageable s p d m) (hl : CellLaw s)
    (flags : Byte) : (∀ c : CellId, c ∉ m.cells → (s.stage p d m flags).cellMap[c] = s.cellMap[c]) ∧
      ∀ (c : CellId) (pos : Nat), m.cells[pos]? = some c → (s.stage p d m flags).cellMap[c] = .bound m.charge d pos := by
  have hnodup : m.cells.Nodup := h.cells ▸ hl.1.take
  rw [State.stage_cellMap]
  refine ⟨fun c hc => bindCells_ne s _ _ _ _ _ hc, fun c pos hc => ?_⟩
  have := bindCells_get s m.charge d 0 m.cells hnodup pos c hc
  rwa [Nat.zero_add] at this

theorem cellLaw_stage {s : State} {p : Agent} {d : DescId} {m : Message} (h : Stageable s p d m) (hl : CellLaw s)
    (flags : Byte) : CellLaw (s.stage p d m flags) := by
  obtain ⟨hkept, hbinds⟩ := h.cellMap hl flags
  obtain ⟨hfreenodup, hscrubnodup, hfree, hscrub, hbound, hawaiting⟩ := id hl
  set t := s.stage p d m flags with ht
  have hlist : t.freeList = s.freeList.drop (cellsFor m.length) := State.stage_freeList s p d m flags
  have hqueue : t.scrubQueue = s.scrubQueue := by simp [ht]
  have hengine : t.engine = s.engine := by simp [ht]
  have hmem {c : CellId} (hc : c ∈ m.cells) : s.cellMap[c] = .free :=
    (hfree c).mpr (List.mem_of_mem_take (h.cells ▸ hc))
  have hbinds' {c : CellId} (hc : c ∈ m.cells) : ∃ pos, m.cells[pos]? = some c ∧ t.cellMap[c] = .bound m.charge d pos := by
    obtain ⟨pos, hpos⟩ := List.mem_iff_getElem?.mp hc
    exact ⟨pos, hpos, hbinds c pos hpos⟩
  have hself : t.message d = some m := message_staging (by rw [ht, State.stage_descs, vec_get_set_same])
  have hother {e : DescId} (he : e ≠ d) : t.message e = s.message e :=
    message_congr (by rw [ht, State.stage_descs, vec_get_set_ne _ _ _ _ (Ne.symm he)])
  have hsplit : m.cells ++ t.freeList = s.freeList := by rw [hlist, h.cells, List.take_append_drop]
  have hdisjoint := hsplit.symm ▸ hfreenodup
  obtain ⟨-, -, hapart⟩ := List.nodup_append.mp hdisjoint
  refine ⟨by rw [hlist]; exact hfreenodup.drop, by rwa [hqueue], fun c => ?_, fun c => ?_, fun c ch e pos => ?_, fun c => ?_⟩
  · by_cases hc : c ∈ m.cells
    · obtain ⟨pos, -, hb⟩ := hbinds' hc
      rw [hb]
      exact iff_of_false CellRecord.noConfusion (fun hx => hapart c hc c hx rfl)
    · rw [hkept c hc, hfree c, ← hsplit, List.mem_append, or_iff_right hc]
  · rw [hqueue, ← hscrub c]
    by_cases hc : c ∈ m.cells
    · obtain ⟨pos, -, hb⟩ := hbinds' hc
      rw [hb, hmem hc]
      simp
    · rw [hkept c hc]
  · by_cases he : e = d
    · subst he
      have hno : ¬ s.cellMap[c] = .bound ch e pos := fun hb => by
        obtain ⟨m', hm', -⟩ := (hl.bound c ch e pos).mp hb
        rw [message_free h.free] at hm'
        cases hm'
      constructor
      · intro hb
        by_cases hc : c ∈ m.cells
        · obtain ⟨pos', hpos, hb'⟩ := hbinds' hc
          rw [hb] at hb'
          injection hb' with h1 h2 h3
          exact ⟨m, hself, h1.symm, h3 ▸ hpos⟩
        · rw [hkept c hc] at hb
          exact absurd hb hno
      · rintro ⟨m', hm', rfl, hpos⟩
        cases hself.symm.trans hm'
        exact hbinds c pos hpos
    · rw [hother he, ← hl.bound c ch e pos]
      by_cases hc : c ∈ m.cells
      · obtain ⟨pos', -, hb'⟩ := hbinds' hc
        rw [hb', hmem hc]
        refine iff_of_false (fun hx => ?_) CellRecord.noConfusion
        injection hx with _ h2
        exact he h2.symm
      · rw [hkept c hc]
  · rw [hengine, ← hawaiting c]
    by_cases hc : c ∈ m.cells
    · obtain ⟨pos, -, hb⟩ := hbinds' hc
      rw [hb, hmem hc]
      simp
    · rw [hkept c hc]

/-- The cells of a staged message carry its charge besides the cells that carried it before. -/
theorem charged_stage {s : State} {p : Agent} {d : DescId} {m : Message} (h : Stageable s p d m) (hl : CellLaw s)
    (flags : Byte) (ch : Charge) :
    (s.stage p d m flags).charged ch = s.charged ch + if m.charge = ch then cellsFor m.length else 0 := by
  obtain ⟨hkept, hbinds⟩ := h.cellMap hl flags
  have hnodup : m.cells.Nodup := h.cells ▸ hl.1.take
  have hbefore {c : CellId} (hc : c ∈ m.cells) : (s.cellMap[c]).charge = none := by
    rw [(hl.2.2.1 c).mpr (List.mem_of_mem_take (h.cells ▸ hc))]
    rfl
  have hafter {c : CellId} (hc : c ∈ m.cells) : ((s.stage p d m flags).cellMap[c]).charge = some m.charge := by
    obtain ⟨pos, hpos⟩ := List.mem_iff_getElem?.mp hc
    rw [hbinds c pos hpos]
    rfl
  have hlen : m.cells.length = cellsFor m.length := by rw [h.cells, List.length_take, min_eq_left h.room]
  have hcount := countP_mem hnodup (p := fun c => decide (c ∈ m.cells)) (fun c => by simp)
  unfold State.charged
  split_ifs with hch
  · rw [← hlen, ← hcount]
    refine countP_add _ (fun c => ?_) (fun c => ?_)
    · simp only [decide_eq_true_eq]
      by_cases hc : c ∈ m.cells
      · rw [hafter hc, hch]
        exact iff_of_true rfl (.inr hc)
      · rw [hkept c hc, or_iff_left hc]
    · simp only [decide_eq_true_eq]
      rintro ⟨hx, hc⟩
      rw [hbefore hc] at hx
      cases hx
  · rw [Nat.add_zero]
    refine List.countP_congr fun c _ => ?_
    simp only [decide_eq_true_eq]
    by_cases hc : c ∈ m.cells
    · rw [hbefore hc, hafter hc]
      exact iff_of_false (fun hx => hch (Option.some.inj hx)) (by simp)
    · rw [hkept c hc]

/-- The counts of the credit unit rise by the cells of a staged message (R8). -/
theorem creditLaw_rise {s t : State} {c : Charge} {n : Nat} (hl : CreditLaw s) (hu : t.used = s.used.rise c n)
    (hcharged : ∀ ch, t.charged ch = s.charged ch + if c = ch then n else 0) : CreditLaw t := by
  obtain ⟨hcommon, hreserved, htotal⟩ := hl
  rw [CreditLaw, hu]
  cases c with
  | common b =>
    refine ⟨fun a => ?_, fun a k => ?_, ?_⟩
    · rw [hcharged]
      simp only [UsedCounts.rise, vec_get_set, Charge.common.injEq]
      split_ifs with hb
      · rw [hb, hcommon a]
      · exact hcommon a
    · rw [hcharged]
      exact hreserved a k
    · show s.used.commonTotal + n = _
      have hget (a : Agent) : ((s.used.rise (.common b) n).commonBy[a]) =
          if b = a then s.used.commonBy[b] + n else s.used.commonBy[a] := vec_get_set _ _ _ _
      rw [show ∀ v : Vector Nat 4, v[0] + v[1] + v[2] + v[3] =
        v[(0 : Agent)] + v[(1 : Agent)] + v[(2 : Agent)] + v[(3 : Agent)] from fun _ => rfl]
      rw [hget, hget, hget, hget]
      have htotal' : s.used.commonTotal = s.used.commonBy[(0 : Agent)] + s.used.commonBy[(1 : Agent)] +
          s.used.commonBy[(2 : Agent)] + s.used.commonBy[(3 : Agent)] := htotal
      fin_cases b <;> simp [-Fin.getElem_fin] <;> omega
  | reserved b j =>
    refine ⟨fun a => ?_, fun a k => ?_, htotal⟩
    · rw [hcharged]
      exact hcommon a
    · rw [hcharged]
      simp only [UsedCounts.rise, vec_get_set, Charge.reserved.injEq]
      by_cases hb : b = a
      · subst hb
        rw [if_pos rfl, PerClass.get_set]
        by_cases hj : j = k
        · subst hj
          simp [-Fin.getElem_fin, hreserved b j]
        · simp [-Fin.getElem_fin, hj, hreserved b k]
      · simp [-Fin.getElem_fin, hb, hreserved a k]

theorem inUseLaw_stage {s : State} {p : Agent} {d : DescId} {m : Message} (h : Stageable s p d m) (hl : InUseLaw s)
    (flags : Byte) : InUseLaw (s.stage p d m flags) := by
  have hself : (s.stage p d m flags).message d = some m :=
    message_staging (by rw [State.stage_descs, vec_get_set_same])
  rw [inUseLaw_iff] at hl ⊢
  intro a
  have hcount := countP_update (List.nodup_finRange 128) (p := s.sourced a) (q := (s.stage p d m flags).sourced a)
    (List.mem_finRange d) (fun e he => sourced_congr (message_congr (s := s)
      (by rw [State.stage_descs, vec_get_set_ne _ _ _ _ (Ne.symm he)])))
  rw [sourced_of_none (message_free h.free), sourced_of_some hself, h.source] at hcount
  have hs := hl a
  rw [State.stage_inUse, vec_get_set]
  split_ifs with ha
  · subst ha
    simp only [decide_true, if_true, Bool.false_eq_true, if_false] at hcount
    omega
  · simp only [ha, decide_false, Bool.false_eq_true, if_false] at hcount
    omega

/-- Outside the start-up clear the engine's law reads the engine and the scrub queue alone. -/
theorem engineLaw_congr {s t : State} (hstarted : s.starting = false) (he : t.engine = s.engine)
    (hq : t.scrubQueue = s.scrubQueue) (hl : EngineLaw s) : EngineLaw t := by
  cases hs : s.engine with
  | startUp x =>
    unfold State.starting at hstarted
    rw [hs] at hstarted
    cases hstarted
  | idle =>
    rw [engineLaw_idle (he.trans hs), hq]
    exact (engineLaw_idle hs).mp hl
  | clearing c =>
    rw [engineLaw_clearing (he.trans hs), hq]
    exact (engineLaw_clearing hs).mp hl

theorem messageLaw_stage {s : State} {p : Agent} {d : DescId} {m : Message} (h : Stageable s p d m) (hl : MessageLaw s)
    (flags : Byte) : MessageLaw (s.stage p d m flags) := by
  intro e m' hm'
  by_cases he : e = d
  · subst he
    have hself : (s.stage p e m flags).message e = some m :=
      message_staging (by rw [State.stage_descs, vec_get_set_same])
    obtain rfl : m = m' := Option.some.inj (hself.symm.trans hm')
    exact ⟨h.dest, h.length.1, h.length.2, by rw [h.cells, List.length_take, min_eq_left h.room], h.charge⟩
  · rw [message_congr (s := s) (by rw [State.stage_descs, vec_get_set_ne _ _ _ _ (Ne.symm he)])] at hm'
    exact hl e m' hm'

theorem storeLaw_stage {s t : State} {p : Agent} {d : DescId} {m : Message} (h : Stageable s p d m) (hl : StoreLaw s)
    (flags : Byte) (ht : s.stage p d m flags = t) : StoreLaw t := by
  have hengine : EngineLaw t := engineLaw_congr h.started (by rw [← ht]; simp) (by rw [← ht]; simp) hl.engine
  have hinUse : InUseLaw t := ht ▸ inUseLaw_stage h hl.inUse flags
  have hcell : CellLaw t := ht ▸ cellLaw_stage h hl.cell flags
  have hcredit : CreditLaw t := creditLaw_rise hl.credit (by rw [← ht]; exact State.stage_used s p d m flags)
    (fun ch => by rw [← ht]; exact charged_stage h hl.cell flags ch)
  have hmessage : MessageLaw t := ht ▸ messageLaw_stage h hl.message flags
  exact ⟨hengine, hinUse, hcell, hcredit, hmessage⟩

end Sys2Proof.Machine

/-! Cells, counts, descriptors and queues in agreement through every step, and FREE cells clear (R101). -/

namespace Sys2Proof.Machine

/-! ## A cell returned (R98) -/

/-- Under the cell law the head of the scrub queue carries a charge. -/
theorem scrub_head {s : State} {c : CellId} (hl : StoreLaw s) (h : s.engine = .clearing c) :
    (∃ rest, s.scrubQueue = c :: rest) ∧ ∃ ch, s.cellMap[c] = .scrub ch := by
  have hhead := (engineLaw_clearing h).mp hl.engine
  cases hq : s.scrubQueue with
  | nil =>
    rw [hq] at hhead
    cases hhead
  | cons x rest =>
    rw [hq] at hhead
    obtain rfl : x = c := Option.some.inj hhead
    obtain ⟨-, -, -, hscrub, -⟩ := hl.cell
    exact ⟨⟨rest, rfl⟩, (hscrub x).mpr (by rw [hq]; exact List.mem_cons_self)⟩

theorem returnCell_used {s : State} {c : CellId} {ch : Charge} (h : s.cellMap[c] = .scrub ch) :
    (s.returnCell c).used = s.used.fall ch := by
  unfold State.returnCell
  rw [h]

/-- What a completed scrub leaves of the store. -/
structure Scrubbed (s t : State) (c : CellId) (rest : List CellId) (ch : Charge) : Prop where
  cellMap : t.cellMap = s.cellMap.set c .free
  freeList : t.freeList = s.freeList ++ [c]
  scrubQueue : t.scrubQueue = rest
  engine : EngineLaw t
  running : ∀ p, t.engine ≠ .startUp p
  used : t.used = s.used.fall ch
  inUse : t.inUse = s.inUse
  descs : t.descs = s.descs

theorem nextScrub_engine (u : State) : EngineLaw u.nextScrub ∧ ∀ p, u.nextScrub.engine ≠ .startUp p := by
  cases hq : u.scrubQueue with
  | nil =>
    have he : u.nextScrub.engine = .idle := by simp only [State.nextScrub, hq]
    rw [engineLaw_idle he, he]
    exact ⟨by simpa using hq, fun p => ScrubEngine.noConfusion⟩
  | cons x more =>
    have he : u.nextScrub.engine = .clearing x := by simp only [State.nextScrub, hq]
    rw [engineLaw_clearing he, he]
    exact ⟨by simp [hq], fun p => ScrubEngine.noConfusion⟩

theorem scrubbed_spec {s t : State} {c : CellId} {rest : List CellId} {ch : Charge} (hq : s.scrubQueue = c :: rest)
    (hc : s.cellMap[c] = .scrub ch) (ht : (s.returnCell c).fitThenWatches.nextScrub = t) : Scrubbed s t c rest ch := by
  obtain ⟨hengine, hrunning⟩ := nextScrub_engine (s.returnCell c).fitThenWatches
  rw [ht] at hengine hrunning
  refine ⟨?_, ?_, ?_, hengine, hrunning, ?_, ?_, ?_⟩
  · rw [← ht]
    simp [State.returnCell]
  · rw [← ht]
    simp [State.returnCell]
  · rw [← ht]
    simp [State.returnCell, hq]
  · rw [← ht]
    simpa using returnCell_used hc
  · rw [← ht]
    simp
  · rw [← ht]
    simp

theorem cellLaw_scrubbed {s t : State} {c : CellId} {rest : List CellId} {ch : Charge} (hq : s.scrubQueue = c :: rest)
    (hc : s.cellMap[c] = .scrub ch) (hengine : s.engine = .clearing c) (h : Scrubbed s t c rest ch) (hl : CellLaw s) :
    CellLaw t := by
  obtain ⟨hfreenodup, hscrubnodup, hfree, hscrub, -, hawaiting⟩ := id hl
  rw [hq] at hscrubnodup
  obtain ⟨hcrest, hrest⟩ := List.nodup_cons.mp hscrubnodup
  have hcfree : c ∉ s.freeList := fun hx => by
    rw [(hfree c).mpr hx] at hc
    cases hc
  have hself : t.cellMap[c] = .free := by rw [h.cellMap, vec_get_set_same]
  have hother {x : CellId} (hx : x ≠ c) : t.cellMap[x] = s.cellMap[x] := by
    rw [h.cellMap, vec_get_set_ne _ _ _ _ (Ne.symm hx)]
  have hmessage (d : DescId) : t.message d = s.message d := message_congr (by rw [h.descs])
  refine ⟨?_, by rwa [h.scrubQueue], fun x => ?_, fun x => ?_, fun x ch' d pos => ?_, fun x => ?_⟩
  · rw [h.freeList]
    refine List.nodup_append.mpr ⟨hfreenodup, List.nodup_singleton c, fun x hx y hy e => hcfree ?_⟩
    rw [← List.mem_singleton.mp hy, ← e]
    exact hx
  · rw [h.freeList, List.mem_append, List.mem_singleton]
    by_cases hx : x = c
    · rw [hx]
      exact iff_of_true hself (.inr rfl)
    · rw [hother hx, or_iff_left hx]
      exact hfree x
  · rw [h.scrubQueue]
    by_cases hx : x = c
    · subst hx
      rw [hself]
      exact iff_of_false (by simp) hcrest
    · rw [hother hx, hscrub x, hq, List.mem_cons, or_iff_right hx]
  · rw [hmessage]
    by_cases hx : x = c
    · subst hx
      rw [hself, ← hl.bound x ch' d pos, hc]
      simp
    · rw [hother hx]
      exact hl.bound x ch' d pos
  · have hno : ¬ ∃ p, t.engine = .startUp p ∧ p ≤ x := by
      rintro ⟨p, hp, -⟩
      exact h.running p hp
    by_cases hx : x = c
    · subst hx
      rw [hself]
      exact iff_of_false (by simp) hno
    · rw [hother hx, hawaiting x]
      refine iff_of_false ?_ hno
      rintro ⟨p, hp, -⟩
      rw [hengine] at hp
      cases hp

/-- The count of a charge falls with the cell that carried it (R9). -/
theorem creditLaw_fall {s t : State} {ch : Charge} (hl : CreditLaw s) (hu : t.used = s.used.fall ch)
    (hcharged : ∀ c, t.charged c + (if ch = c then 1 else 0) = s.charged c) : CreditLaw t := by
  obtain ⟨hcommon, hreserved, htotal⟩ := hl
  rw [CreditLaw, hu]
  cases ch with
  | common b =>
    refine ⟨fun a => ?_, fun a k => ?_, ?_⟩
    · have hx := hcharged (.common a)
      have hc := hcommon a
      simp only [UsedCounts.fall, vec_get_set]
      simp only [Charge.common.injEq] at hx
      split_ifs with hb
      · subst hb
        rw [if_pos rfl] at hx
        omega
      · rw [if_neg hb] at hx
        omega
    · have hx := hcharged (.reserved a k)
      rw [if_neg (by simp), Nat.add_zero] at hx
      rw [hx]
      exact hreserved a k
    · have hpos : 0 < s.used.commonBy[b] := by
        have hx := hcharged (.common b)
        rw [if_pos rfl] at hx
        rw [hcommon b]
        omega
      show s.used.commonTotal - 1 = _
      have hget (a : Agent) : ((s.used.fall (.common b)).commonBy[a]) =
          if b = a then s.used.commonBy[b] - 1 else s.used.commonBy[a] := vec_get_set _ _ _ _
      rw [show ∀ v : Vector Nat 4, v[0] + v[1] + v[2] + v[3] =
        v[(0 : Agent)] + v[(1 : Agent)] + v[(2 : Agent)] + v[(3 : Agent)] from fun _ => rfl]
      rw [hget, hget, hget, hget]
      have htotal' : s.used.commonTotal = s.used.commonBy[(0 : Agent)] + s.used.commonBy[(1 : Agent)] +
          s.used.commonBy[(2 : Agent)] + s.used.commonBy[(3 : Agent)] := htotal
      fin_cases b <;> simp [-Fin.getElem_fin] at hpos ⊢ <;> omega
  | reserved b j =>
    refine ⟨fun a => ?_, fun a k => ?_, htotal⟩
    · have hx := hcharged (.common a)
      rw [if_neg (by simp), Nat.add_zero] at hx
      rw [hx]
      exact hcommon a
    · have hx := hcharged (.reserved a k)
      have hc := hreserved a k
      simp only [UsedCounts.fall, vec_get_set]
      simp only [Charge.reserved.injEq] at hx
      by_cases hb : b = a
      · subst hb
        rw [if_pos rfl, PerClass.get_set]
        split_ifs with hj
        · subst hj
          rw [if_pos ⟨rfl, rfl⟩] at hx
          omega
        · rw [if_neg (fun h => hj h.2)] at hx
          omega
      · rw [if_neg hb]
        rw [if_neg (fun h => hb h.1)] at hx
        omega

/-- A cell that lost its charge. -/
theorem charged_setFree {s t : State} {c : CellId} {ch : Charge} (hc : s.cellMap[c] = .scrub ch)
    (hmap : t.cellMap = s.cellMap.set c .free) (x : Charge) : t.charged x + (if ch = x then 1 else 0) = s.charged x := by
  have hcount := countP_update (List.nodup_finRange 384) (p := fun y => decide ((s.cellMap[y]).charge = some x))
    (q := fun y => decide ((t.cellMap[y]).charge = some x)) (List.mem_finRange c)
    (fun y hy => by rw [hmap, vec_get_set_ne _ _ _ _ (Ne.symm hy)])
  have hself : t.cellMap[c] = .free := by rw [hmap, vec_get_set_same]
  rw [hself, hc] at hcount
  simp only [CellRecord.charge, decide_eq_true_eq, Option.some.injEq, reduceCtorEq, if_false, Nat.add_zero] at hcount
  exact hcount

theorem storeLaw_scrubbed {s t : State} {c : CellId} (hl : StoreLaw s) (hengine : s.engine = .clearing c)
    (ht : (s.returnCell c).fitThenWatches.nextScrub = t) : StoreLaw t := by
  obtain ⟨⟨rest, hq⟩, ch, hc⟩ := scrub_head hl hengine
  have h := scrubbed_spec hq hc ht
  have hmessage (d : DescId) : t.message d = s.message d := message_congr (by rw [h.descs])
  refine ⟨h.engine, ?_, cellLaw_scrubbed hq hc hengine h hl.cell, creditLaw_fall hl.credit h.used (charged_setFree hc h.cellMap), ?_⟩
  · have hin := hl.inUse
    rw [inUseLaw_iff] at hin ⊢
    intro a
    rw [h.inUse, hin a]
    exact List.countP_congr fun d _ => by rw [sourced_congr (hmessage d)]
  · intro d m hm
    rw [hmessage] at hm
    exact hl.message d m hm

/-! ## The start-up clear of a cell (R102) -/

/-- Under the cell law the start-up clear has freed no cell at or above the one in progress. -/
theorem storeLaw_startUpCleared {s : State} {p : CellId} (hl : StoreLaw s) (hengine : s.engine = .startUp p) :
    StoreLaw (s.finishStartUp p) := by
  obtain ⟨hempty, hfreedescs⟩ := (engineLaw_startUp hengine).mp hl.engine
  obtain ⟨hfreenodup, hscrubnodup, hfree, hscrub, hbound, hawaiting⟩ := id hl.cell
  have hawaits : s.cellMap[p] = .awaitingClear := (hawaiting p).mpr ⟨p, hengine, le_rfl⟩
  generalize ht : s.finishStartUp p = t
  have hmap : t.cellMap = s.cellMap.set p .free := by rw [← ht]; rfl
  have hlist : t.freeList = s.freeList ++ [p] := by rw [← ht]; rfl
  have hqueue : t.scrubQueue = s.scrubQueue := by rw [← ht]; rfl
  have hafter : t.engine = engineAfterStartUp p := by rw [← ht]; rfl
  have hused : t.used = s.used := by rw [← ht]; rfl
  have hin : t.inUse = s.inUse := by rw [← ht]; rfl
  have hdescs : t.descs = s.descs := by rw [← ht]; rfl
  have hself : t.cellMap[p] = .free := by rw [hmap, vec_get_set_same]
  have hother {x : CellId} (hx : x ≠ p) : t.cellMap[x] = s.cellMap[x] := by
    rw [hmap, vec_get_set_ne _ _ _ _ (Ne.symm hx)]
  have hmessage (d : DescId) : t.message d = s.message d := message_congr (by rw [hdescs])
  have hnext (x : CellId) : (∃ q, t.engine = .startUp q ∧ q ≤ x) ↔ p < x := by
    rw [hafter]
    unfold engineAfterStartUp
    split_ifs with hp
    · simp only [ScrubEngine.startUp.injEq, exists_eq_left']
      rw [Fin.le_def, Fin.lt_def]
      exact Nat.succ_le_iff
    · refine iff_of_false (by simp) fun hx => ?_
      rw [Fin.lt_def] at hx
      have := x.isLt
      omega
  have hcharge (x : CellId) : (t.cellMap[x]).charge = (s.cellMap[x]).charge := by
    by_cases hx : x = p
    · subst hx
      rw [hself, hawaits]
      rfl
    · rw [hother hx]
  refine ⟨?_, ?_, ⟨?_, by rwa [hqueue], fun x => ?_, fun x => ?_, fun x ch d pos => ?_, fun x => ?_⟩, ?_, fun d m hm => ?_⟩
  · by_cases hp : p.val + 1 < 384
    · have he : t.engine = .startUp ⟨p.val + 1, hp⟩ := by rw [hafter, engineAfterStartUp, dif_pos hp]
      rw [engineLaw_startUp he, hqueue, hdescs]
      exact ⟨hempty, hfreedescs⟩
    · have he : t.engine = .idle := by rw [hafter, engineAfterStartUp, dif_neg hp]
      rw [engineLaw_idle he, hqueue]
      exact hempty
  · have hinlaw := hl.inUse
    rw [inUseLaw_iff] at hinlaw ⊢
    intro a
    rw [hin, hinlaw a]
    exact List.countP_congr fun d _ => by rw [sourced_congr (hmessage d)]
  · rw [hlist]
    refine List.nodup_append.mpr ⟨hfreenodup, List.nodup_singleton p, fun x hx y hy e => ?_⟩
    rw [e, List.mem_singleton.mp hy, ← hfree p, hawaits] at hx
    cases hx
  · rw [hlist, List.mem_append, List.mem_singleton]
    by_cases hx : x = p
    · rw [hx]
      exact iff_of_true hself (.inr rfl)
    · rw [hother hx, or_iff_left hx]
      exact hfree x
  · rw [hqueue]
    by_cases hx : x = p
    · subst hx
      rw [hself, ← hscrub x, hawaits]
      simp
    · rw [hother hx]
      exact hscrub x
  · rw [hmessage, ← hl.cell.bound x ch d pos]
    by_cases hx : x = p
    · subst hx
      rw [hself, hawaits]
      simp
    · rw [hother hx]
  · rw [hnext]
    by_cases hx : x = p
    · subst hx
      rw [hself]
      exact iff_of_false (by simp) (lt_irrefl x)
    · rw [hother hx, hawaiting x, hengine]
      simp only [ScrubEngine.startUp.injEq, exists_eq_left']
      exact ⟨fun h => lt_of_le_of_ne h (Ne.symm hx), le_of_lt⟩
  · obtain ⟨hcommon, hreserved, htotal⟩ := hl.credit
    refine ⟨fun a => ?_, fun a k => ?_, by rwa [hused]⟩
    · rw [hused, charged_congr_charge hcharge]
      exact hcommon a
    · rw [hused, charged_congr_charge hcharge]
      exact hreserved a k
  · rw [hmessage] at hm
    exact hl.message d m hm

/-! ## Device reset (R4, R7, R27, R96) -/

theorem storeLaw_reset : StoreLaw State.reset := by
  have hfree : ∀ d : DescId, State.reset.descs[d] = .free := by decide
  have hmap (c : CellId) : State.reset.cellMap[c] = .awaitingClear := by
    show (Vector.replicate 384 CellRecord.awaitingClear)[c] = _
    simp
  have hmessage (d : DescId) : State.reset.message d = none := message_free (hfree d)
  have hzero (ch : Charge) : State.reset.charged ch = 0 := by
    unfold State.charged
    rw [List.countP_eq_zero]
    intro c _
    rw [hmap c]
    simp [CellRecord.charge]
  have hstart : State.reset.engine = .startUp 0 := rfl
  refine ⟨(engineLaw_startUp hstart).mpr ⟨rfl, hfree⟩, (inUseLaw_iff _).mpr fun a => ?_, ⟨List.nodup_nil, List.nodup_nil,
    fun c => ?_, fun c => ?_, fun c ch d pos => ?_, fun c => ?_⟩, ⟨fun a => ?_, fun a k => ?_, rfl⟩, fun d m hm => ?_⟩
  · have hin : ∀ a : Agent, State.reset.inUse[a] = 0 := by decide
    rw [hin a, eq_comm, List.countP_eq_zero]
    intro d _
    rw [sourced_of_none (hmessage d)]
    simp
  · rw [hmap c]
    exact iff_of_false (by simp) List.not_mem_nil
  · rw [hmap c]
    exact iff_of_false (by simp) List.not_mem_nil
  · rw [hmap c, hmessage d]
    exact iff_of_false (by simp) (by simp)
  · rw [hmap c]
    exact iff_of_true rfl ⟨0, hstart, Fin.zero_le c⟩
  · rw [hzero]
    revert a
    decide
  · rw [hzero]
    cases k <;> revert a <;> decide
  · rw [hmessage d] at hm
    cases hm

/-! ## Every move keeps the store -/

theorem Move.storeLaw {s t : State} (h : Move s t) (hlimit : LimitLaw s) (htable : TableLaw s)
    (hl : StoreLaw s) : StoreLaw t := by
  cases h
  case framed h => exact storeLaw_congr (.of_same h.cellMap h.freeList h.scrubQueue h.engine h.used h.inUse h.descs) hl
  case releasedAll ds path _ => exact releaseAll_keeps (P := StoreLaw) (fun _ d => storeLaw_release d path) ds hl
  case stagingEnded p c _ =>
    have hrelease : StoreLaw (s.release c.desc .unadmitted) := storeLaw_release c.desc .unadmitted hl
    exact storeLaw_congr (s := s.release c.desc .unadmitted) (.of_same rfl rfl rfl rfl rfl rfl rfl) hrelease
  case returned a k d m adm hh =>
    have hd := handMessage_inHand hh
    refine storeLaw_congr (.of_setDesc (d := d) (x := .queued { m with redeliveries := m.redeliveries + 1 } adm) (m := m)
      (m' := { m with redeliveries := m.redeliveries + 1 }) (by simp) (by simp) (by simp) (by simp) (by simp) (by simp)
      (by simp [State.returnToQueue]) (message_inHand hd) (message_queued (adm := adm) ?_) rfl) hl
    simp [-Fin.getElem_fin, State.returnToQueue]
  case takenIntoHand a k d m adm rest _ hhead _ =>
    refine storeLaw_congr (.of_setDesc (d := d) (x := .inHand m adm) (m := m) (m' := m) (by simp) (by simp) (by simp)
      (by simp) (by simp) (by simp) (by simp [State.takeIntoHand]) (message_queued (queueHead_spec hhead).2)
      (message_inHand (adm := adm) ?_) rfl) hl
    simp [-Fin.getElem_fin, State.takeIntoHand]
  case headerStaged p dest cls flags len d m _ hstarting hjudged =>
    exact storeLaw_stage (stageable_of_accepted hjudged hl hlimit htable hstarting) hl flags rfl
  case corrByteTaken p c m b hloaded =>
    obtain ⟨-, -, hd⟩ := loadedStaging_spec hloaded
    obtain ⟨w, hdescs⟩ := takeCorrByte_staged (p := p) b hd
    refine storeLaw_congr (.of_setDesc (m := m) (m' := { m with corr := w }) (by simp) (by simp) (by simp) (by simp)
      (by simp) (by simp) hdescs (message_staging hd) (message_staging ?_) rfl) hl
    rw [hdescs, vec_get_set_same]
  case scrubbed c hc => exact storeLaw_scrubbed hl hc rfl
  case startUpCleared p hp => exact storeLaw_startUpCleared hl hp
  case reset csn pending choices =>
    exact storeLaw_congr (s := State.reset) (.of_same rfl rfl rfl rfl rfl rfl rfl) storeLaw_reset
  all_goals exact storeLaw_congr (.of_same (by simp) (by simp) (by simp) (by simp) (by simp) (by simp) (by simp)) hl

theorem Admits.storeLaw {s t : State} (h : Admits s t) (hl : StoreLaw s) : StoreLaw t := by
  obtain ⟨p, c, m, hloaded, -⟩ := h
  obtain ⟨-, -, hd⟩ := loadedStaging_spec hloaded
  refine storeLaw_congr (s := s) (.of_setDesc (d := c.desc) (x := .queued m ⟨s.assignTag m.source, s.ticks⟩) (m := m) (m' := m)
    rfl rfl rfl rfl rfl rfl (by simp [State.admitMessage]) (message_staging (s := s) hd)
    (message_queued (adm := ⟨s.assignTag m.source, s.ticks⟩) ?_) rfl) hl
  simp [-Fin.getElem_fin, State.admitMessage]

/-- The laws of the part but for R142, which alone reads the membership records. -/
structure BlockLaw (s : State) : Prop where
  place : PlaceLaw s
  store : StoreLaw s
  limit : LimitLaw s
  table : TableLaw s

theorem partLaw_iff (s : State) : PartLaw s ↔ BlockLaw s ∧ NothingForAbsent s :=
  ⟨fun ⟨he, hp, hi, hn, hc, hcr, hm, hlim, ht⟩ => ⟨⟨hp, ⟨he, hi, hc, hcr, hm⟩, hlim, ht⟩, hn⟩,
    fun ⟨⟨hp, ⟨he, hi, hc, hcr, hm⟩, hlim, ht⟩, hn⟩ => ⟨he, hp, hi, hn, hc, hcr, hm, hlim, ht⟩⟩

theorem Move.blockLaw {s t : State} (h : Move s t) (hl : BlockLaw s) : BlockLaw t :=
  ⟨(h.place hl.place).1, h.storeLaw hl.limit hl.table hl.store, h.limitLaw hl.limit, h.tableLaw hl.table⟩

theorem blockLaw_setMember {s : State} (a : Agent) (m : Member) (hl : BlockLaw s) : BlockLaw (s.setMember a m) :=
  ⟨placeLaw_setMember hl.place a m, storeLaw_congr (s := s) (.of_same rfl rfl rfl rfl rfl rfl rfl) hl.store,
    limitLaw_congr (s := s) rfl rfl rfl hl.limit, tableLaw_congr (s := s) rfl rfl rfl hl.table⟩

theorem Admits.blockLaw {s t : State} (h : Admits s t) (hl : BlockLaw s) : BlockLaw t := by
  refine ⟨admits_place h hl.place, h.storeLaw hl.store, ?_, ?_⟩
  · obtain ⟨p, c, m, -, -⟩ := h
    exact limitLaw_congr (s := s) rfl rfl rfl hl.limit
  · obtain ⟨p, c, m, -, -⟩ := h
    exact tableLaw_congr (s := s) rfl rfl rfl hl.table

/-- Settles O58: the places, the store and the limits survive every move, and R142 every departure too. -/
theorem everyStepKeepsThePartConsistent : Obligations.EveryStepKeepsThePartConsistent := by
  intro s t hs h
  obtain ⟨hblock, habsent⟩ := (partLaw_iff s).mp hs
  have hhold : PlaceLaw t ∧ ∀ b, HoldLaw t b :=
    step_keeps (P := fun u => PlaceLaw u ∧ ∀ b, HoldLaw u b)
      (fun _ _ he hu => ⟨(he.place hu.1).1, he.holdLaw hu.1 hu.2⟩)
      (fun _ _ ha hu => ⟨admits_place ha hu.1, fun b => ha.holdLaw (hu.2 b)⟩) h ⟨hblock.place, habsent⟩
  refine (partLaw_iff t).mpr ⟨?_, hhold.2⟩
  exact step_keeps_of_moves (fun _ _ => Move.blockLaw) (fun _ a m => blockLaw_setMember a m) (fun _ _ => Admits.blockLaw) h hblock

end Sys2Proof.Machine

/-! The cell contents: the canonical form (log 7), and FREE cells clear (R101). -/

namespace Sys2Proof.Machine

/-! ## What writes the cell contents -/

/-- R60: a payload byte goes to its cell, or nowhere. -/
theorem takePayloadByte_mem (s : State) (p : Agent) (c : StagingContext) (m : Message) (b : Byte) :
    (s.takePayloadByte p c m b).mem = s.mem ∨ ∃ x, m.cells[c.payloadReceived / 32]? = some x ∧
      (s.takePayloadByte p c m b).mem = memWrite s.mem (cellAddr x (c.payloadReceived % 32)) b := by
  unfold State.takePayloadByte State.advanceByte State.writePayload
  split
  · exact .inl rfl
  · next x hx => exact .inr ⟨x, hx, rfl⟩

theorem Move.memoryLaw {s t : State} (h : Move s t) (hl : MemoryLaw s) : MemoryLaw t := by
  have hsame {u : State} (hu : u.mem = s.mem) : MemoryLaw u := by
    unfold MemoryLaw
    rwa [hu]
  cases h
  case framed h => exact hsame h.mem
  case releasedAll ds path _ =>
    have hmem : (s.releaseAll ds path).mem = s.mem := by simp
    exact hsame hmem
  case payloadByteTaken p c m b _ =>
    rcases takePayloadByte_mem s p c m b with hmem | ⟨x, -, hmem⟩
    · exact hsame hmem
    · unfold MemoryLaw
      rw [hmem]
      exact memWrite_wf _ _ _ (cellAddr_lt x _ (Nat.mod_lt _ (by decide))) hl
  case scrubbed c _ =>
    have hmem : (s.returnCell c).fitThenWatches.nextScrub.mem = memClear s.mem c := by simp [State.returnCell]
    unfold MemoryLaw
    rw [hmem]
    exact memClear_wf s.mem c hl
  case startUpCleared p _ => exact memClear_wf s.mem p hl
  case reset => exact reset_mem_wf
  all_goals exact hsame (by simp)

/-! ## FREE cells -/

/-- The bytes of two cells lie apart. -/
theorem cellAddr_cell {c x : CellId} {i j : Nat} (hi : i < 32) (hj : j < 32) (h : cellAddr c i = cellAddr x j) : c = x := by
  have hc : 32 * c.val + i = 32 * x.val + j := h
  exact Fin.ext (by omega)

theorem memRead_memClear_cell (m : Memory) (c x : CellId) {j : Nat} (hj : j < 32) :
    memRead (memClear m c) (cellAddr x j) = if x = c then 0 else memRead m (cellAddr x j) := by
  rw [memRead_memClear]
  have hc : cellAddr c 0 = 32 * c.val := rfl
  have hx : cellAddr x j = 32 * x.val + j := rfl
  have hb : Config.cellBytes = 32 := rfl
  by_cases h : x = c
  · subst h
    rw [if_pos rfl, if_pos (by omega)]
  · have hne : x.val ≠ c.val := fun e => h (Fin.ext e)
    rw [if_neg h, if_neg (by omega)]

/-- FREE cells that were FREE before, with the contents as before. -/
theorem freeCellsLaw_of_fewer {s t : State} (hmem : t.mem = s.mem)
    (hmap : ∀ c : CellId, t.cellMap[c] = .free → s.cellMap[c] = .free) (hl : FreeCellsLaw s) : FreeCellsLaw t := by
  intro c j hc hj
  rw [hmem]
  exact hl c j (hmap c hc) hj

/-- A cell that becomes FREE has just been cleared. -/
theorem freeCellsLaw_cleared {s t : State} {x : CellId} (hmem : t.mem = memClear s.mem x)
    (hmap : t.cellMap = s.cellMap.set x .free) (hl : FreeCellsLaw s) : FreeCellsLaw t := by
  intro c j hc hj
  rw [hmem, memRead_memClear_cell _ _ _ hj]
  split_ifs with h
  · rfl
  · rw [hmap, vec_get_set_ne _ _ _ _ (Ne.symm h)] at hc
    exact hl c j hc hj

theorem released_eq_free {r : CellRecord} (h : r.released = .free) : r = .free := by
  cases r <;> cases h
  rfl

theorem freeCellsLaw_release {s : State} (d : DescId) (path : RemovalPath) (hl : FreeCellsLaw s) :
    FreeCellsLaw (s.release d path) := by
  have hsame {u v : State} (hm : v.mem = u.mem) (hc : v.cellMap = u.cellMap) (hu : FreeCellsLaw u) : FreeCellsLaw v :=
    freeCellsLaw_of_fewer hm (fun c => by rw [hc]; exact id) hu
  refine release_keeps (P := FreeCellsLaw) (fun _ _ _ _ => hsame rfl rfl) (fun _ _ _ _ => hsame rfl rfl)
    (fun u e m => freeCellsLaw_of_fewer (by simp) (fun c hc => ?_)) (fun _ _ _ => hsame (by simp) (by simp))
    (fun _ _ => hsame (by simp) (by simp)) (fun _ => hsame (by simp) (by simp)) d path hl
  obtain ⟨-, -, -, -, -, hmap, -, -⟩ := dropRecord_dropped u e m
  rw [hmap] at hc
  split_ifs at hc
  · exact released_eq_free hc
  · exact hc

theorem Move.freeCellsLaw {s t : State} (h : Move s t) (hblock : BlockLaw s) (hmemory : MemoryLaw s)
    (hl : FreeCellsLaw s) : FreeCellsLaw t := by
  have hsame {u : State} (hm : u.mem = s.mem) (hc : u.cellMap = s.cellMap) : FreeCellsLaw u :=
    freeCellsLaw_of_fewer hm (fun c => by rw [hc]; exact id) hl
  cases h
  case framed h => exact hsame h.mem h.cellMap
  case releasedAll ds path _ =>
    exact releaseAll_keeps (P := FreeCellsLaw) (fun _ d => freeCellsLaw_release d path) ds hl
  case stagingEnded p c _ =>
    have hrelease : FreeCellsLaw (s.release c.desc .unadmitted) := freeCellsLaw_release c.desc .unadmitted hl
    exact hrelease
  case headerStaged p dest cls flags len d m _ hstarting hjudged =>
    have hstage := stageable_of_accepted hjudged hblock.store hblock.limit hblock.table hstarting
    obtain ⟨hkept, hbinds⟩ := hstage.cellMap hblock.store.cell flags
    refine freeCellsLaw_of_fewer (by simp) (fun c hc => ?_) hl
    by_cases hmem : c ∈ m.cells
    · obtain ⟨pos, hpos⟩ := List.mem_iff_getElem?.mp hmem
      rw [hbinds c pos hpos] at hc
      cases hc
    · rwa [hkept c hmem] at hc
  case payloadByteTaken p c m b hloaded =>
    obtain ⟨-, -, hd⟩ := loadedStaging_spec hloaded
    have hmap : (s.takePayloadByte p c m b).cellMap = s.cellMap := by simp
    rcases takePayloadByte_mem s p c m b with hmem | ⟨x, hx, hmem⟩
    · exact hsame hmem hmap
    · intro y j hy hj
      rw [hmap] at hy
      have hbound := (hblock.store.cell.bound x m.charge c.desc _).mpr ⟨m, message_staging hd, rfl, hx⟩
      have hne : y ≠ x := fun e => by
        rw [e, hbound] at hy
        cases hy
      rw [hmem, memRead_memWrite _ _ _ _ hmemory,
        if_neg (fun e => hne (cellAddr_cell hj (Nat.mod_lt _ (by decide)) e))]
      exact hl y j hy hj
  case scrubbed c _ => exact freeCellsLaw_cleared (x := c) (by simp [State.returnCell]) (by simp [State.returnCell]) hl
  case startUpCleared p _ => exact freeCellsLaw_cleared (s := s) (x := p) rfl rfl hl
  case reset => exact fun _ _ _ _ => rfl
  all_goals exact hsame (by simp) (by simp)

/-- Settles O59: every write lies in the cell store, and in a cell bound to its message; a cell becomes FREE cleared. -/
theorem everyStepKeepsFreeCellsClear : Obligations.EveryStepKeepsFreeCellsClear := by
  intro s t h
  refine ⟨fun hl => step_keeps_of_moves (fun _ _ => Move.memoryLaw) (fun _ _ _ => id) ?_ h hl, fun hpart hmemory hfree => ?_⟩
  · rintro u v ⟨⟩ hu
    exact hu
  · obtain ⟨hblock, -⟩ := (partLaw_iff s).mp hpart
    have hkeep := step_keeps_of_moves (P := fun u => BlockLaw u ∧ MemoryLaw u ∧ FreeCellsLaw u)
      (fun _ _ hm hu => ⟨hm.blockLaw hu.1, hm.memoryLaw hu.2.1, hm.freeCellsLaw hu.1 hu.2.1 hu.2.2⟩)
      (fun _ a m hu => ⟨blockLaw_setMember a m hu.1, hu.2⟩) ?_ h ⟨hblock, hmemory, hfree⟩
    · exact hkeep.2.2
    · intro u v ha hu
      refine ⟨ha.blockLaw hu.1, ?_⟩
      obtain ⟨p, c, m, -, -⟩ := ha
      exact hu.2

end Sys2Proof.Machine

/-! The step and the queue of commands, device reset, and the statements about the shared figures: each command of a quiet
state by its equation, then the headrooms, the check word, the offer, the watch, the apply, the lapse and the tick. -/

namespace Sys2Proof.Machine

/-! ## A command of a quiet state

Where no consumer of a tick is due a command is its own meaning; `quiet_next` carries that to each of them. -/

theorem quiet_next {s : State} (h : s.quiet) (f : State → State) :
    (Host.Outcome.next (f s.settle) : Host.Outcome State Fault Refusal) = .next (f s) := by
  rw [State.settle_of_quiet s h]

/-- Settles O1: the step is defined so. -/
theorem stepTakesFrontCommand : Obligations.StepTakesFrontCommand := fun _ _ _ => rfl

/-- Settles O2: each meaning answers a next state, and none of its operations touches the queue of commands. -/
theorem everyCommandAnswersAndKeepsTheQueue : Obligations.EveryCommandAnswersAndKeepsTheQueue := by
  intro c s
  have htick : (if s.settle.rstnLow then s.settle else s.settle.tick).pending = s.pending := by
    split <;> simp
  cases c with
  | deviceReset => exact ⟨_, rfl, rfl⟩
  | ageTick => exact ⟨_, rfl, htick⟩
  | _ => exact ⟨_, rfl, by simp⟩

/-! ## Device reset (R105) -/

theorem inReset_free (csn : Agent → Bool) (pending : List Instr) (choices : Nat) (d : DescId) :
    (State.inReset csn pending choices).descs[d] = .free := by
  have h : ∀ d : DescId, State.reset.descs[d] = .free := by decide
  exact h d

theorem inReset_awaiting (csn : Agent → Bool) (pending : List Instr) (choices : Nat) (c : CellId) :
    (State.inReset csn pending choices).cellMap[c] = .awaitingClear := by
  show (Vector.replicate 384 CellRecord.awaitingClear)[c] = _
  simp

theorem inReset_agent (csn : Agent → Bool) (pending : List Instr) (choices : Nat) (a : Agent) :
    (State.inReset csn pending choices).inUse[a] = 0 ∧ (State.inReset csn pending choices).nextTag[a] = 1 ∧
      (State.inReset csn pending choices).stagings[a] = none ∧
      (State.inReset csn pending choices).members[a] = ⟨.offline, 0, 0, 0⟩ ∧
      (State.inReset csn pending choices).notices[a] = [] ∧
      (State.inReset csn pending choices).snapshots[a] = .all false ∧
      (State.inReset csn pending choices).attentionLow a = false ∧
      (State.inReset csn pending choices).used.commonBy[a] = 0 ∧
      (State.inReset csn pending choices).used.reserved[a] = .all 0 ∧
      (State.inReset csn pending choices).watches[a] = .all none ∧
      (State.inReset csn pending choices).queues[a] = .all [] ∧
      (State.inReset csn pending choices).hands[a] = .all none := by
  have h : ∀ a : Agent, State.reset.inUse[a] = 0 ∧ State.reset.nextTag[a] = 1 ∧ State.reset.stagings[a] = none ∧
      State.reset.members[a] = ⟨.offline, 0, 0, 0⟩ ∧ State.reset.notices[a] = [] ∧
      State.reset.snapshots[a] = .all false ∧ State.reset.attentionLow a = false ∧
      State.reset.used.commonBy[a] = 0 ∧ State.reset.used.reserved[a] = .all 0 ∧
      State.reset.watches[a] = .all none ∧ State.reset.queues[a] = .all [] ∧ State.reset.hands[a] = .all none := by
    decide
  exact h a

theorem inReset_frame (csn : Agent → Bool) (pending : List Instr) (choices : Nat) (a : Agent) :
    (State.inReset csn pending choices).frames[a] = { csnLow := csn a, phase := .idle, bytePos := 0, opcode := none
                                                      last := none, out := [], recordsLeft := 0 } := by
  fin_cases a <;> rfl

/-- Settles O6: each block of a device reset is read off. -/
theorem deviceResetTakesEveryBlock : Obligations.DeviceResetTakesEveryBlock := by
  intro s
  refine ⟨_, rfl, rfl, inReset_awaiting _ _ _, rfl, rfl, rfl, rfl, fun a => ?_, fun a k => ?_, inReset_free _ _ _,
    fun a => ?_, rfl, rfl, rfl, rfl, rfl, rfl, rfl, rfl, rfl, rfl⟩
  · obtain ⟨-, -, -, -, -, -, -, hcommon, -⟩ := inReset_agent (fun p => (s.frames[p]).csnLow) s.pending s.choices a
    exact hcommon
  · obtain ⟨-, -, -, -, -, -, -, -, hreserved, hwatch, hqueue, hhand⟩ :=
      inReset_agent (fun p => (s.frames[p]).csnLow) s.pending s.choices a
    rw [hreserved, hwatch, hqueue, hhand]
    simp only [PerClass.get_all, and_self]
  · obtain ⟨hin, htag, hstaging, hmember, hnotices, hsnapshot, hatt, -⟩ :=
      inReset_agent (fun p => (s.frames[p]).csnLow) s.pending s.choices a
    exact ⟨hin, htag, hstaging, hmember, hnotices, hsnapshot, hatt, inReset_frame _ _ _ a⟩

/-! ## The laws after device reset -/

/-- Settles O54: the blocks of the reset state, law by law. -/
theorem resetMeetsEveryLaw : Obligations.ResetMeetsEveryLaw := by
  have hfree : ∀ d : DescId, State.reset.descs[d] = .free := by decide
  have hadmitted (d : DescId) : State.reset.admitted d = none := by
    unfold State.admitted
    rw [hfree d]
  have hmove : Move State.reset State.reset := .reset _ _ _
  have hvalid : State.reset.table.valid = true := by decide
  have hlimit : LimitLaw State.reset := by
    show State.reset.fits State.reset.table = true
    decide
  have hwatch : ∀ a : Agent, State.reset.watches[a] = .all none := by decide
  have hnotices : ∀ a : Agent, State.reset.notices[a] = [] := by decide
  have hagent : ∀ a : Agent, State.reset.notices[a] = [] ∧ State.reset.watches[a] = .all none ∧
      State.reset.snapshots[a] = .all false ∧ (State.reset.members[a]).leaseLeft = 0 := by decide
  have hempty : ∀ a : Agent, State.reset.holdsNothing a = true := by decide
  have htag : ∀ a : Agent, State.reset.nextTag[a] ≠ 0 := by decide
  refine ⟨⟨(partLaw_iff _).mpr ⟨⟨placeLaw_reset, storeLaw_reset, hlimit, hvalid, nofun, nofun⟩, fun a _ => hempty a⟩,
    reset_mem_wf, nofun, fun a => ?_, fun a _ => hagent a, ⟨htag, fun d m adm h => ?_, fun d _ m _ adm _ h => ?_⟩,
    fun _ _ _ _ => rfl, nofun, fun a k n h => ?_⟩, List.nodup_nil, fun d => ?_, fun a k => ?_⟩
  · rw [hnotices a]
    exact ⟨noticeShape_nil, fun _ => rfl⟩
  · cases (hadmitted d).symm.trans h
  · cases (hadmitted d).symm.trans h
  · rw [hwatch a, PerClass.get_all] at h
    cases h
  · rw [hadmitted d]
    exact iff_of_false List.not_mem_nil (by simp)
  · have hline := (holdsNothing_iff State.reset a).mp (hempty a) k
    unfold State.line at hline
    rw [hline]

/-! ## Figures and codes -/

theorem sumReserved_eq (x : Table) : x.sumReserved =
    ∑ b : Agent, ((x.reserved[b]).express + (x.reserved[b]).standard + (x.reserved[b]).bulk) := by
  rw [Table.sumReserved, sum_agents, Fin.sum_univ_four]

/-- Settles O31: the figures are the model's, with the sum of the reserved sizes written out. -/
theorem headroomIsTheSmallestFigure : Obligations.HeadroomIsTheSmallestFigure := by
  intro s a k
  dsimp only
  refine ⟨fun hs => ?_, fun h hs => ?_, rfl⟩
  · unfold State.commonHeadroom State.reservedHeadroom headroomCommonUnder headroomReservedUnder Table.capacity
    rw [hs]
    simp only [sumReserved_eq, Config.cellCount, and_self]
  · unfold State.commonHeadroom State.reservedHeadroom headroomCommonUnder headroomReservedUnder Table.capacity
    rw [hs]
    simp only [sumReserved_eq, Config.cellCount, true_and]
    omega

/-- One bit folded in, as an exclusive or with the polynomial where the combined bit is 1. -/
theorem checkBit_eq (reg : Half) (bit : Bool) :
    checkBit reg bit = reg <<< 1 ^^^ (if xor bit (reg.getLsbD 15) then 0x1021 else 0) := by
  unfold checkBit
  rw [BitVec.msb_eq_getLsbD_last]
  split_ifs
  · rfl
  · exact (BitVec.xor_zero).symm

/-- Settles O26: a byte is folded bit by bit; the two values come out by evaluation. -/
theorem checkWordIsFoldedBitByBit : Obligations.CheckWordIsFoldedBitByBit := by
  refine ⟨fun reg b => ?_, rfl, fun bs b => List.foldl_append, by decide +kernel, by decide +kernel⟩
  simp only [checkByte, List.foldl_cons, List.foldl_nil, checkBit_eq]

/-- Byte 1 of a notice record as a sum (R191). -/
theorem noticePeerClass_eq (x : Option Agent) (y : Option MsgClass) : noticePeerClass x y =
    BitVec.ofNat 8 (16 * (match x with
      | none => 15
      | some b => b.val) + (match y with
      | none => 15
      | some k => (classCode k).toNat)) := by
  have hagent : ∀ a : Agent, ∀ lo : BitVec 4,
      (BitVec.ofNat 4 a.val ++ lo : BitVec 8) = BitVec.ofNat 8 (16 * a.val + lo.toNat) := by decide
  cases x with
  | none => cases y with
    | none => rfl
    | some k => cases k <;> rfl
  | some a => cases y with
    | none => exact hagent a _
    | some k => cases k <;> exact hagent a _

/-- Settles O53: kind by kind, with the second byte as a sum. -/
theorem noticeRecordsHaveSixBytes : Obligations.NoticeRecordsHaveSixBytes := by
  intro a k tag epoch num n o
  dsimp only
  have hzero : bytes16 0#16 = [0x00, 0x00] := rfl
  have hclosed (x : Option Agent) : (Notice.proposalClosed x num o).record =
      [0x0A, noticePeerClass x none, 0x00, 0x00, num, o.code] := by
    simp [Notice.record, Notice.kindCode, Notice.peer, Notice.cls, Notice.tag, Notice.value, hzero, bytes16_half]
  refine ⟨?_, ?_, ?_, ?_, ?_, ?_, ?_, ?_, ?_, fun x => ?closed, ?_, ?_, ?_, ?_⟩
  case closed => cases x <;> simp [hclosed, noticePeerClass_eq]
  all_goals simp [Notice.record, Notice.kindCode, Notice.peer, Notice.cls, Notice.tag, Notice.value, noticePeerClass_eq,
    hzero, bytes16_half]

end Sys2Proof.Machine

/-! Offers and watches, the apply and the lapse, the age tick, and what ticks and leases depend on. -/

namespace Sys2Proof.Machine

/-! ## The watch and the offer -/

/-- A notice told to one agent. -/
theorem told_of_toldEach {s t : State} {a : Agent} {n : Notice} (h : toldEach s t a [n])
    (hother : ∀ b : Agent, b ≠ a → t.notices[b] = s.notices[b] ∧ t.latches[b] = s.latches[b]) :
    told s t (fun b => b = a) n := by
  intro b
  by_cases hb : b = a
  · rw [if_pos (by simpa using hb)]
    subst hb
    exact h
  · rw [if_neg (by simpa using hb)]
    exact hother b hb

/-- Settles O33: the three outcomes of the test, with `testWatch_spec` for the one that fires. -/
theorem watchFiresAtItsThreshold : Obligations.WatchFiresAtItsThreshold := by
  intro s a k hq
  have hexec : exec (.watchFire a k) s = .next (s.testWatch a k) := quiet_next hq (·.testWatch a k)
  obtain ⟨htold, hself, hother⟩ := testWatch_spec s a k
  refine ⟨fun hw => ?_, fun n hw => ⟨fun hlt => ?_, fun hle => ⟨_, hexec, ?_, fun b j hbj => ?_, ?_, ?_⟩⟩⟩
  · rw [hexec, testWatch_disarmed s a k hw]
  · rw [hexec]
    unfold State.testWatch
    rw [hw]
    exact congrArg _ (if_neg (Nat.not_le.mpr hlt))
  · rw [hself k, if_pos rfl]
    unfold State.watchLeft
    rw [hw]
    exact if_pos hle
  · by_cases hb : b = a
    · subst hb
      rw [hself j, if_neg (hbj.resolve_left (fun h => h rfl))]
    · rw [(hother b hb).2.2]
  · have hcredit : (s.creditFor s a k).toList = [.credit k (s.creditLevel a k)] := by
      unfold State.creditFor
      rw [hw]
      exact congrArg Option.toList (if_pos hle)
    rw [hcredit] at htold
    exact told_of_toldEach htold fun b hb => ⟨(hother b hb).1, (hother b hb).2.1⟩
  · exact State.testWatch_frame s a k

theorem isMember_of_absent {s : State} {a : Agent} (h : s.portIs a .offline ∨ s.portIs a .fenced) : s.isMember a = false := by
  unfold State.isMember
  rcases h with h | h <;> rw [h]

/-- What an offer to a member does to its queue, its last record an OVERRUN (R144 test 2). -/
theorem offer_folded {s : State} {a : Agent} {n : Notice} {q : List Notice} {c : Nat} (hm : s.isMember a = true)
    (hq : s.notices[a] = q ++ [.overrun c]) : s.offer a n = s.foldOffer a := by
  unfold State.offer
  rw [if_pos hm, if_pos ((endsInOverrun_iff _).mpr ⟨q, c, hq⟩)]

/-- What an offer to a member does to its queue, its last record no OVERRUN (R144 tests 3 and 4). -/
theorem offer_appended {s : State} {a : Agent} {n : Notice} (hm : s.isMember a = true)
    (hq : ∀ q c, s.notices[a] ≠ q ++ [.overrun c]) :
    s.offer a n = s.setNotices a (s.notices[a] ++ [if (s.notices[a]).length < 15 then n else .overrun 1]) := by
  have hend : ¬ endsInOverrun s.notices[a] = true := fun h => by
    obtain ⟨r, c, hr⟩ := (endsInOverrun_iff _).mp h
    exact hq r c hr
  have hopen : Config.openRecords = 15 := rfl
  unfold State.offer
  rw [if_pos hm, if_neg hend, hopen]
  split_ifs <;> rfl

/-- Settles O34: an absent agent, a queue that ends in OVERRUN, and one that does not, short or at 15 records. -/
theorem offerIsJudgedByFourTests : Obligations.OfferIsJudgedByFourTests := by
  intro s a n
  refine ⟨fun h => offer_nonmember s a n (isMember_of_absent h), fun hj => ?_,
    fun b hb => ⟨State.offer_notices_ne s a b n hb, State.offer_latches_ne s a b n hb⟩, State.offer_frame s a n⟩
  have hm := joined_isMember s a hj
  refine ⟨fun q c hq => ?_, fun hq hlen => ?_, fun hq hlen => ?_⟩
  · rw [offer_folded hm hq]
    unfold State.foldOffer
    refine ⟨fun hl => ?_, fun l hl => ?_⟩
    · rw [hl]
      refine ⟨?_, rfl⟩
      rw [State.setNotices_notices, vec_get_set_same, hq, mapLast_append]
      rfl
    · rw [hl]
      exact ⟨rfl, vec_get_set_same _ _ _⟩
  · rw [offer_appended hm hq, if_pos hlen]
    exact ⟨vec_get_set_same _ _ _, rfl⟩
  · rw [offer_appended hm hq, if_neg (Nat.not_lt.mpr hlen)]
    exact ⟨vec_get_set_same _ _ _, rfl⟩

/-! ## The apply and the lapse -/

/-- Settles O43: the fit test's two outcomes, the limits written out by `fits_iff`. -/
theorem heldTableAppliesWhenItFits : Obligations.HeldTableAppliesWhenItFits := by
  intro s hq
  have hexec : exec .applyHeld s = .next s.runFitTest := quiet_next hq State.runFitTest
  refine ⟨fun hs => by rw [hexec, runFitTest_empty s hs], fun h hs => ?_⟩
  have hfits := fits_iff s h.table
  unfold Table.capacity at hfits
  rw [sumReserved_eq] at hfits
  refine ⟨fun hno => ?_, fun hyes => ⟨_, hexec, ?_⟩⟩
  · rw [hexec]
    unfold State.runFitTest
    rw [hs]
    exact congrArg _ (if_neg (fun h => hno (hfits.mp h)))
  · have happly : s.runFitTest = s.applyTable h.table := by
      unfold State.runFitTest
      rw [hs]
      exact if_pos (hfits.mpr hyes)
    rw [happly]
    exact ⟨applyTable_applied s h.table, applyTable_told s h.table, State.applyTable_frame s h.table⟩

theorem mem_toldAtEnd (v : Proposal) (b : Agent) : (decide (b = v.proposer) || v.required[b]) = true ↔
    b ∈ agents.filter (fun a => a = v.proposer || v.required[a]) :=
  (mem_agents_filter (fun a => decide (a = v.proposer) || v.required[a]) b).symm

/-- R168 step 1: the end of a round that commits nothing is told to the proposer and the required agents. -/
theorem endRound_told (s : State) (v : Proposal) {o : RoundOutcome} (vetoer : Option Agent) (ho : o ≠ .committed) :
    told s (s.endRound v o vetoer) (fun b => b = v.proposer || v.required[b]) (.proposalClosed vetoer v.number o) ∧
      s.endRound v o vetoer = { s with
        voting := none, notices := (s.endRound v o vetoer).notices, latches := (s.endRound v o vetoer).latches } := by
  set l := agents.filter (fun a => a = v.proposer || v.required[a]) with hl
  have hend : s.endRound v o vetoer = { s.offerAll l (.proposalClosed vetoer v.number o) with voting := none } := by
    cases o with
    | committed => exact absurd rfl ho
    | rejected => rfl
    | lapsed => rfl
    | withdrawn => rfl
  rw [hend]
  refine ⟨offerAll_told s _ l _ _ (agents_filter_nodup _) (mem_toldAtEnd v) rfl rfl, ?_⟩
  apply State.ext_fields <;> simp

/-- Settles O44: the round that has run out ends LAPSED. -/
theorem roundLapsesAtItsWindow : Obligations.RoundLapsesAtItsWindow := by
  intro s
  have hexec : exec .proposalLapse s = .next s.takeLapse := rfl
  refine ⟨fun hv => ?_, fun v hv => ⟨fun hw => ?_, fun hw => ⟨s.endRound v .lapsed none, ?_, endRound_voting s v _ _, ?_⟩⟩⟩
  · rw [hexec]
    unfold State.takeLapse
    rw [hv]
  · rw [hexec]
    unfold State.takeLapse
    rw [hv]
    exact congrArg _ (if_neg hw)
  · rw [hexec]
    unfold State.takeLapse
    rw [hv]
    exact congrArg _ (if_pos hw)
  · obtain ⟨htold, hframe⟩ := endRound_told s v none (o := .lapsed) RoundOutcome.noConfusion
    refine ⟨htold, ?_⟩
    rw [endRound_voting]
    exact hframe

/-! ## The age tick -/

/-- R130: the lease countdown reaches each port once. -/
theorem lowerLeases_member (s : State) (a : Agent) : s.lowerLeases.members[a] = (s.members[a]).lowered := by
  have hfold (l : List Agent) (hl : l.Nodup) (u : State) :
      (l.foldl (fun t b => t.setMember b (t.members[b]).lowered) u).members[a] =
        if a ∈ l then (u.members[a]).lowered else u.members[a] := by
    induction l generalizing u with
    | nil => simp
    | cons b rest ih =>
      obtain ⟨hb, hrest⟩ := List.nodup_cons.mp hl
      rw [List.foldl_cons, ih hrest, State.setMember_members, vec_get_set]
      by_cases hab : b = a
      · subst hab
        simp [-Fin.getElem_fin, hb]
      · simp [-Fin.getElem_fin, hab, Ne.symm hab]
  exact (hfold agents (by decide) s).trans (if_pos (mem_agents a))

theorem tick_member (s : State) (a : Agent) : s.tick.members[a] = (s.members[a]).lowered := by
  have h : s.tick.members = ({ s.restartClock with
      ticks := s.ticks + 1, passDue := some s.table.lifetime } : State).lowerLeases.members := by
    unfold State.tick State.lowerWindow
    dsimp only
    split <;> rfl
  rw [h, lowerLeases_member]
  rfl

theorem lowered_joined {s : State} {a : Agent} (h : s.joined a) :
    (s.members[a]).lowered = { s.members[a] with leaseLeft := (s.members[a]).leaseLeft - 1 } := by
  unfold Member.lowered
  rcases h with h | h <;> simp only [h]

theorem lowered_absent {s : State} {a : Agent} (h : ¬ s.joined a) : (s.members[a]).lowered = s.members[a] := by
  obtain ⟨hactive, hclosing⟩ := not_or.mp h
  unfold Member.lowered
  split
  · rfl
  · next hs => exact absurd hs hactive
  · next hs => exact absurd hs hclosing
  · rfl

theorem tick_voting (s : State) : s.tick.voting = s.voting.map (fun v => { v with window := v.window - 1 }) := by
  have h (u : State) : u.lowerWindow.voting = u.voting.map (fun v => { v with window := v.window - 1 }) := by
    unfold State.lowerWindow
    split
    · next hv => rw [hv]; rfl
    · next v hv => rw [hv]; rfl
  unfold State.tick
  rw [h]
  simp

/-- Settles O45: the tick field by field. -/
theorem ageTickLowersLeasesAndWindow : Obligations.AgeTickLowersLeasesAndWindow := by
  intro s hq
  have hexec : exec .ageTick s = .next (if s.rstnLow then s else s.tick) :=
    quiet_next hq (fun u => if u.rstnLow then u else u.tick)
  refine ⟨fun hr => by rw [hexec, if_pos hr], fun hr => ⟨s.tick, by rw [hexec, hr]; rfl, ?_, ?_, ?_, ?_, ?_, fun a => ?_,
    fun hv => ?_, fun v hv => ?_, State.tick_frame s⟩⟩
  · have hticks : s.tick.ticks = s.ticks + 1 := by simp [State.tick]
    rw [hticks]
    exact BitVec.toNat_add s.ticks 1
  · simp [State.tick]
  · simp [State.tick, State.restartClock]
  · simp [State.tick, State.restartClock]
  · simp [State.tick, State.restartClock]
  · rw [tick_member]
    exact ⟨lowered_joined, lowered_absent⟩
  · rw [tick_voting, hv]
    rfl
  · rw [tick_voting, hv]
    rfl

end Sys2Proof.Machine

/-! Leases and the consumers of a tick: what can raise a lease, what keeps a consumer due, and the run of the due
consumers before a command (O49, O5). -/

namespace Sys2Proof.Machine

/-! ## Leases that do not rise -/

/-- From `s` to `t` the lease of agent `a` has not risen, and it has not run out. -/
def Wanes (a : Agent) (s t : State) : Prop :=
  (t.members[a]).leaseLeft ≤ (s.members[a]).leaseLeft ∧ (t.leaseOut a = true → s.leaseOut a = true)

theorem wanes_of_member {a : Agent} {s t : State} (h : t.members[a] = s.members[a]) : Wanes a s t := by
  refine ⟨by rw [h], fun hout => ?_⟩
  simpa only [State.leaseOut, State.isMember, h] using hout

theorem wanes_of_members {a : Agent} {s t : State} (h : t.members = s.members) : Wanes a s t :=
  wanes_of_member (by rw [h])

theorem Wanes.trans {a : Agent} {s t u : State} (h : Wanes a s t) (h' : Wanes a t u) : Wanes a s u :=
  ⟨h'.1.trans h.1, fun hout => h.2 (h'.2 hout)⟩

theorem Wanes.congr {a : Agent} {s t u : State} (h : Wanes a s t) (hm : u.members = t.members) : Wanes a s u :=
  h.trans (wanes_of_members hm)

theorem wanes_setMember_ne (s : State) {a p : Agent} (m : Member) (h : a ≠ p) : Wanes a s (s.setMember p m) :=
  wanes_of_member (vec_get_set_ne _ _ _ _ (Ne.symm h))

/-- An agent that is no longer ACTIVE or CLOSING has no lease to run out. -/
theorem wanes_of_absent {a : Agent} {s t : State} (hm : t.isMember a = false) (hl : (t.members[a]).leaseLeft = 0) :
    Wanes a s t := by
  refine ⟨by omega, fun hout => ?_⟩
  rw [State.leaseOut, hm] at hout
  exact absurd hout (by simp)

theorem wanes_of_drained {a b : Agent} {s t : State} (h : drained s t b) : Wanes a s t := by
  obtain ⟨hother, hself⟩ := h
  by_cases hab : a = b
  · subst hab
    split at hself
    · obtain ⟨hm, -⟩ := hself
      exact wanes_of_absent (isMember_of_absent (.inl (by rw [State.portIs, hm]))) (by rw [hm])
    · exact wanes_of_member hself.1
  · exact wanes_of_member (hother a hab).1

theorem wanes_release (a : Agent) (s : State) (d : DescId) (path : RemovalPath) : Wanes a s (s.release d path) := by
  have finish (u : State) (m : Message) (adm : Admission) (hu : u.members = s.members) :
      Wanes a s (u.finishRelease d m adm path) :=
    (wanes_of_members hu).trans (wanes_of_drained (finish_drained u d m adm path))
  cases hd : s.descs[d] with
  | free => rw [release_free s d path hd]; exact wanes_of_members rfl
  | staging m => rw [release_staging s d m path hd]; exact wanes_of_members (by simp)
  | queued m adm => rw [release_queued s d m adm path hd]; exact finish _ m adm rfl
  | inHand m adm => rw [release_inHand s d m adm path hd]; exact finish _ m adm rfl

theorem wanes_foldl {α : Type} {a : Agent} (f : State → α → State) (h : ∀ s x, Wanes a s (f s x)) (l : List α) (s : State) :
    Wanes a s (l.foldl f s) := by
  induction l generalizing s with
  | nil => exact wanes_of_members rfl
  | cons x rest ih => exact (h s x).trans (ih (f s x))

theorem wanes_releaseAll (a : Agent) (s : State) (ds : List DescId) (path : RemovalPath) :
    Wanes a s (s.releaseAll ds path) :=
  wanes_foldl _ (fun t d => wanes_release a t d path) ds s

theorem wanes_drainTest (a : Agent) (s : State) (b : Agent) : Wanes a s (s.drainTest b) := by
  obtain ⟨hother, hself⟩ := drain_spec s b
  have hholds : (s.drainTest b).holdsNothing b = s.holdsNothing b := by simp [State.holdsNothing]
  refine wanes_of_drained ⟨hother, ?_⟩
  rw [hholds]
  split at hself
  · next h => rw [if_pos h]; exact hself.1
  · next h => rw [if_neg h, hself]; exact ⟨rfl, rfl⟩

theorem wanes_returnOrReject (a : Agent) (s : State) (d : DescId) (m : Message) (adm : Admission) :
    Wanes a s (s.returnOrReject d m adm) := by
  unfold State.returnOrReject
  split
  · exact wanes_release a s d _
  · exact wanes_of_members (by simp)

theorem wanes_rejoinReturn (a : Agent) (s : State) (p : Agent) : Wanes a s (s.rejoinReturn p) := by
  refine wanes_foldl _ (fun t k => ?_) classes s
  unfold State.rejoinReturnOf
  split
  · exact wanes_of_members rfl
  · exact wanes_returnOrReject a t _ _ _

theorem wanes_transact {a : Agent} {s body : State} {check : Option Result} (h : check = none → Wanes a s body)
    (p : Agent) (code : Byte) (len : Nat) : Wanes a s (s.transact p code len check body) := by
  unfold State.transact
  split
  · split
    · exact wanes_of_members (by simp)
    · split
      · exact wanes_of_members (by simp)
      · exact h rfl
  · exact wanes_of_members rfl

theorem wanes_respond {a : Agent} {s u : State} (h : Wanes a s u) (p : Agent) (code : Byte) (len : Nat) (r : Result)
    (data : List Byte) (tag : Option Half) : Wanes a s (u.respond p code len r data tag) :=
  h.trans (wanes_of_members (by simp))

/-! ### The consumers of a tick -/

theorem wanes_abortStaging (a : Agent) (s : State) (p : Agent) : Wanes a s (s.abortStaging p) := by
  unfold State.abortStaging
  split
  · exact wanes_of_members rfl
  · next c _ => exact (wanes_release a s c.desc .unadmitted).congr (by simp [State.skipRest])

theorem wanes_discard (a : Agent) (s : State) (p : Agent) : Wanes a s (s.discard p) := by
  refine (wanes_releaseAll a s (s.heldFor p) .discarded).trans ?_
  by_cases hap : a = p
  · subst hap
    have hm : (s.discard a).members[a] = { ((s.releaseAll (s.heldFor a) .discarded).members[a]) with
        discards := min Config.discardMax (((s.releaseAll (s.heldFor a) .discarded).members[a]).discards
          + (s.heldFor a).length) } := vec_get_set_same _ _ _
    refine ⟨by rw [hm], fun hout => ?_⟩
    simpa only [State.leaseOut, State.isMember, hm] using hout
  · exact wanes_setMember_ne _ _ hap

theorem wanes_fence (a : Agent) (s : State) (p : Agent) : Wanes a s (s.fence p) := by
  by_cases hap : a = p
  · subst hap
    exact wanes_of_absent (departs_fence s a).absent (departs_fence s a).lease
  · set u := (s.setMember p { s.members[p] with state := .fenced, leaseLeft := 0 }).zeroFill p with hu
    have hstart : Wanes a s u :=
      (wanes_setMember_ne s { s.members[p] with state := .fenced, leaseLeft := 0 } hap).congr (by simp [hu])
    refine ((hstart.trans (wanes_abortStaging a u p)).trans (wanes_discard a _ p)).congr ?_
    simp [State.fence, hu, State.clearNotices, State.disarm]

theorem wanes_takeEvent (a : Agent) (s : State) (e : TickEvent) : Wanes a s (s.takeEvent e) := by
  cases e with
  | pass =>
    show Wanes a s s.takePass
    unfold State.takePass
    split
    · exact wanes_of_members rfl
    · exact (wanes_of_members rfl).trans (wanes_releaseAll a _ _ _)
  | fence p =>
    show Wanes a s (s.takeFencing p)
    unfold State.takeFencing
    split
    · exact wanes_fence a s p
    · exact wanes_of_members rfl
  | lapse => exact wanes_of_members (by simp [State.takeEvent])

theorem wanes_settle (a : Agent) (s : State) : Wanes a s s.settle := by
  have hsome (n : Nat) (s : State) : Wanes a s (State.settleSome n s) := by
    induction n generalizing s with
    | zero => exact wanes_of_members rfl
    | succ n ih =>
      unfold State.settleSome
      split
      · exact wanes_of_members rfl
      · exact (wanes_takeEvent a s _).trans (ih _)
      · exact ((wanes_of_members (t := { s with choices := s.choices + 1 }) rfl).trans (wanes_takeEvent a _ _)).trans
          (ih _)
  exact hsome 6 s

/-! ### The commands -/

theorem wanes_raiseCsn (a : Agent) (s : State) (p : Agent) : Wanes a s (s.raiseCsn p) := by
  have hcut : Wanes a s (s.cutStaging p) := by
    unfold State.cutStaging
    split
    · exact wanes_of_members rfl
    · next c _ => exact (wanes_release a s c.desc .unadmitted).congr (by simp)
  unfold State.raiseCsn
  split
  · exact wanes_of_members rfl
  · split
    · exact wanes_of_members rfl
    · exact hcut.trans (wanes_of_members (by simp))

theorem wanes_joinBy_ne (s : State) {a p : Agent} (n : Nat) (h : a ≠ p) : Wanes a s (s.joinBy p n) := by
  have hload (u : State) : Wanes a u (u.loadLease p n) := wanes_setMember_ne u _ h
  have hrejoin : Wanes a s (s.rejoin p n) := by
    set u := (s.setMember p { s.members[p] with state := .active }).rejoinReturn p with hu
    have hreturned : Wanes a s u := (wanes_setMember_ne s _ h).trans (wanes_rejoinReturn a _ p)
    have hcleared : Wanes a s ((((u.clearNotices p).place p .rejoined).setSnapshot p (.all false)).disarm p) :=
      hreturned.congr (by simp [State.disarm])
    exact (hcleared.trans (hload _)).congr (by simp [State.rejoin, hu])
  unfold State.joinBy
  split
  · exact (hload s).congr (by simp [State.joinFresh])
  · exact hrejoin
  · exact hrejoin
  · set u := (s.loadLease p n).place p (.resumed (s.members[p]).discards) with hu
    have hplaced : Wanes a s u := (hload s).congr (by simp [hu])
    exact (hplaced.trans (wanes_setMember_ne u { u.members[p] with discards := 0 } h)).congr
      (by simp [-Fin.getElem_fin, State.joinResumed, hu])

theorem goOffline_members (s : State) (a : Agent) :
    (s.goOffline a).members = s.members.set a { s.members[a] with state := .offline, leaseLeft := 0 } := by
  simp [-Fin.getElem_fin, State.goOffline, State.disarm]

theorem wanes_leaveBy (a : Agent) {s : State} {p : Agent} (hj : s.joined p) : Wanes a s (s.leaveBy p) := by
  unfold State.leaveBy
  split
  · exact wanes_respond (wanes_of_members rfl) _ _ _ _ _ _
  · split
    · refine wanes_respond (Wanes.congr (t := s.goOffline p) ?_ (by simp [State.leaveToOffline])) _ _ _ _ _ _
      by_cases hap : a = p
      · subst hap
        have hm : (s.goOffline a).members[a] = { s.members[a] with state := .offline, leaseLeft := 0 } := by
          rw [goOffline_members, vec_get_set_same]
        exact wanes_of_absent (isMember_of_absent (.inl (by rw [State.portIs, hm]))) (by rw [hm])
      · exact wanes_of_member (by rw [goOffline_members, vec_get_set_ne _ _ _ _ (Ne.symm hap)])
    · refine wanes_respond (Wanes.congr (t := s.setMember p { s.members[p] with state := .closing }) ?_
        (by simp [State.leaveToClosing])) _ _ _ _ _ _
      by_cases hap : a = p
      · subst hap
        refine ⟨by simp [-Fin.getElem_fin], fun hout => ?_⟩
        have hleft : (s.members[a]).leaseLeft = 0 := by
          simpa [-Fin.getElem_fin, State.leaseOut, State.isMember] using hout
        simp [-Fin.getElem_fin, State.leaseOut, joined_isMember s a hj, hleft]
      · exact wanes_setMember_ne s _ hap

theorem wanes_takeLastCheck (a : Agent) (s : State) (p : Agent) (b : Byte) : Wanes a s (s.takeLastCheck p b) := by
  have hend (c : StagingContext) (r : Result) : Wanes a s (s.endStaging p c r) :=
    (wanes_release a s c.desc .unadmitted).congr (by simp [State.endStaging])
  unfold State.takeLastCheck
  split
  · exact wanes_of_members rfl
  · split
    · exact wanes_of_members rfl
    · split
      · exact hend _ _
      · split
        · exact hend _ _
        · exact wanes_of_members (by simp [State.admitStaging])

theorem wanes_ackBy (a : Agent) (s : State) (p : Agent) (cls : Byte) (tag : Half) : Wanes a s (s.ackBy p cls tag) := by
  unfold State.ackBy
  split
  · exact wanes_of_members (by simp)
  · split
    · exact wanes_of_members (by simp)
    · exact wanes_respond (wanes_release a s _ _) _ _ _ _ _ _

theorem wanes_nackBy (a : Agent) (s : State) (p : Agent) (cls : Byte) (tag : Half) : Wanes a s (s.nackBy p cls tag) := by
  unfold State.nackBy
  split
  · exact wanes_of_members (by simp)
  · split
    · exact wanes_of_members (by simp)
    · exact wanes_respond (wanes_returnOrReject a s _ _ _) _ _ _ _ _ _

theorem wanes_recallBy (a : Agent) (s : State) (p : Agent) (dest cls : Byte) (t : Half) :
    Wanes a s (s.recallBy p dest cls t) := by
  have hsearch (d : Agent) (k : MsgClass) : Wanes a s (s.recallSearch p d k t) := by
    unfold State.recallSearch
    split
    · exact wanes_respond (wanes_release a s _ _) _ _ _ _ _ _
    · split <;> exact wanes_of_members (by simp)
  unfold State.recallBy
  split
  · exact wanes_of_members (by simp)
  · split
    · exact wanes_of_members (by simp)
    · split
      · exact wanes_of_members (by simp)
      · exact hsearch _ _

/-- R130: no command raises a lease but the JOIN and the RENEW of its own agent. -/
theorem exec_lease {c : Instr} {s t : State} (h : exec c s = .next t) (a : Agent) (hjoin : ∀ period, c ≠ .join a period)
    (hrenew : c ≠ .renew a) : (t.members[a]).leaseLeft ≤ (s.members[a]).leaseLeft := by
  have hset := wanes_settle a s
  have hthen {u : State} (hu : Wanes a s.settle u) : (u.members[a]).leaseLeft ≤ (s.members[a]).leaseLeft :=
    (hset.trans hu).1
  have hsame {u : State} (hu : u.members = s.settle.members) : (u.members[a]).leaseLeft ≤ (s.members[a]).leaseLeft :=
    hthen (wanes_of_members hu)
  cases c <;> cases h
  case csnRise p => exact hthen (wanes_raiseCsn a _ p)
  case join p period =>
    have hap : a ≠ p := fun hap => hjoin period (by rw [hap])
    exact hthen (wanes_transact (fun _ => wanes_respond (wanes_joinBy_ne _ _ hap) _ _ _ _ _ _) _ _ _)
  case leave p => exact hthen (wanes_transact (fun hc => wanes_leaveBy a (joined_of_refuseOutsider hc)) _ _ _)
  case renew p =>
    have hap : a ≠ p := fun hap => hrenew (by rw [hap])
    exact hthen (wanes_transact (fun _ => wanes_respond (wanes_setMember_ne _ _ hap) _ _ _ _ _ _) _ _ _)
  case postLastCheckByte p b => exact hthen (wanes_takeLastCheck a _ p b)
  case ack p cls tag => exact hthen (wanes_transact (fun _ => wanes_ackBy a _ p cls tag) _ _ _)
  case nack p cls tag => exact hthen (wanes_transact (fun _ => wanes_nackBy a _ p cls tag) _ _ _)
  case recallMessage p dest cls tag => exact hthen (wanes_transact (fun _ => wanes_recallBy a _ p dest cls tag) _ _ _)
  case ageTick =>
    split
    · exact hset.1
    · refine le_trans ?_ hset.1
      rw [tick_member]
      unfold Member.lowered
      split <;> simp
  case expiryPass => exact (wanes_takeEvent a s .pass).1
  case fencing b => exact (wanes_takeEvent a s (.fence b)).1
  case proposalLapse => exact (wanes_takeEvent a s .lapse).1
  case drainCompletion b => exact hthen (wanes_drainTest a _ b)
  case deviceReset =>
    obtain ⟨-, -, -, hm, -⟩ := inReset_agent (fun p => (s.frames[p]).csnLow) s.pending s.choices a
    rw [hm]
    exact Nat.zero_le _
  all_goals exact hsame (by simp)

/-- R108: the tick counter changes at an age tick and at a device reset alone. -/
theorem exec_ticks {c : Instr} {s t : State} (h : exec c s = .next t) (htick : c ≠ .ageTick) (hreset : c ≠ .deviceReset) :
    t.ticks = s.ticks := by
  cases c <;> cases h
  case ageTick => exact absurd rfl htick
  case deviceReset => exact absurd rfl hreset
  case expiryPass => simp
  case fencing => simp
  case proposalLapse => simp
  all_goals simp

/-- Settles O49. -/
theorem onlyTicksCountAndOnlyJoinAndRenewReload : Obligations.OnlyTicksCountAndOnlyJoinAndRenewReload :=
  fun _ _ _ h => ⟨exec_ticks h, exec_lease h⟩

end Sys2Proof.Machine

/-! Which consumer is first among those due is counted in a field that no operation of the blocks reads (log 4). -/
namespace Sys2Proof.Machine

/-! ## The count of free choices apart -/

/-- The state with another count of free choices taken. -/
def State.withChoices (s : State) (n : Nat) : State := { s with choices := n }

/-- The count of free choices changes no block. -/
@[simp] theorem withChoices_fields (s : State) (n : Nat) :
    (s.withChoices n).rstnLow = s.rstnLow ∧ (s.withChoices n).mem = s.mem ∧ (s.withChoices n).cellMap = s.cellMap ∧
    (s.withChoices n).freeList = s.freeList ∧ (s.withChoices n).scrubQueue = s.scrubQueue ∧
    (s.withChoices n).engine = s.engine ∧ (s.withChoices n).clearLeft = s.clearLeft ∧
    (s.withChoices n).used = s.used ∧ (s.withChoices n).watches = s.watches ∧ (s.withChoices n).descs = s.descs ∧
    (s.withChoices n).inUse = s.inUse ∧ (s.withChoices n).nextTag = s.nextTag ∧ (s.withChoices n).queues = s.queues ∧
    (s.withChoices n).hands = s.hands ∧ (s.withChoices n).stagings = s.stagings ∧
    (s.withChoices n).prescaleCount = s.prescaleCount ∧ (s.withChoices n).periodCount = s.periodCount ∧
    (s.withChoices n).postscaleCount = s.postscaleCount ∧ (s.withChoices n).ticks = s.ticks ∧
    (s.withChoices n).passDue = s.passDue ∧ (s.withChoices n).members = s.members ∧
    (s.withChoices n).notices = s.notices ∧ (s.withChoices n).snapshots = s.snapshots ∧
    (s.withChoices n).latches = s.latches ∧ (s.withChoices n).table = s.table ∧ (s.withChoices n).slot = s.slot ∧
    (s.withChoices n).voting = s.voting ∧ (s.withChoices n).nextProposal = s.nextProposal ∧
    (s.withChoices n).lastProposal = s.lastProposal ∧ (s.withChoices n).epoch = s.epoch ∧
    (s.withChoices n).frames = s.frames ∧ (s.withChoices n).pending = s.pending := by
  simp [State.withChoices]

@[simp] theorem withChoices_setMember (s : State) (n : Nat) (a : Agent) (x : Member) :
    (s.withChoices n).setMember a x = (s.setMember a x).withChoices n := rfl

@[simp] theorem withChoices_setFrame (s : State) (n : Nat) (a : Agent) (x : Framing) :
    (s.withChoices n).setFrame a x = (s.setFrame a x).withChoices n := rfl

@[simp] theorem withChoices_setNotices (s : State) (n : Nat) (a : Agent) (x : List Notice) :
    (s.withChoices n).setNotices a x = (s.setNotices a x).withChoices n := rfl

@[simp] theorem withChoices_setLatch (s : State) (n : Nat) (a : Agent) (x : Option OverrunLatch) :
    (s.withChoices n).setLatch a x = (s.setLatch a x).withChoices n := rfl

@[simp] theorem withChoices_setSnapshot (s : State) (n : Nat) (a : Agent) (x : ClassSet) :
    (s.withChoices n).setSnapshot a x = (s.setSnapshot a x).withChoices n := rfl

@[simp] theorem withChoices_setWatch (s : State) (n : Nat) (a : Agent) (k : MsgClass) (x : Option Nat) :
    (s.withChoices n).setWatch a k x = (s.setWatch a k x).withChoices n := rfl

@[simp] theorem withChoices_setQueue (s : State) (n : Nat) (a : Agent) (k : MsgClass) (x : List DescId) :
    (s.withChoices n).setQueue a k x = (s.setQueue a k x).withChoices n := rfl

@[simp] theorem withChoices_setHand (s : State) (n : Nat) (a : Agent) (k : MsgClass) (x : Option DescId) :
    (s.withChoices n).setHand a k x = (s.setHand a k x).withChoices n := rfl

@[simp] theorem withChoices_setDesc (s : State) (n : Nat) (d : DescId) (x : Descriptor) :
    (s.withChoices n).setDesc d x = (s.setDesc d x).withChoices n := rfl

@[simp] theorem withChoices_setStaging (s : State) (n : Nat) (a : Agent) (x : Option StagingContext) :
    (s.withChoices n).setStaging a x = (s.setStaging a x).withChoices n := rfl

@[simp] theorem withChoices_setCell (s : State) (n : Nat) (c : CellId) (x : CellRecord) :
    (s.withChoices n).setCell c x = (s.setCell c x).withChoices n := rfl

@[simp] theorem withChoices_clearNotices (s : State) (n : Nat) (a : Agent) :
    (s.withChoices n).clearNotices a = (s.clearNotices a).withChoices n := rfl

@[simp] theorem withChoices_disarm (s : State) (n : Nat) (a : Agent) :
    (s.withChoices n).disarm a = (s.disarm a).withChoices n := rfl

@[simp] theorem withChoices_respond (s : State) (n : Nat) (p : Agent) (code : Byte) (len : Nat) (r : Result) (data :
    List Byte) (tag : Option Half) :
    (s.withChoices n).respond p code len r data tag = (s.respond p code len r data tag).withChoices n := rfl

@[simp] theorem withChoices_skipRest (s : State) (n : Nat) (a : Agent) (bits : Nat) :
    (s.withChoices n).skipRest a bits = (s.skipRest a bits).withChoices n := rfl

@[simp] theorem withChoices_isMember (s : State) (n : Nat) (a : Agent) :
    (s.withChoices n).isMember a = s.isMember a := rfl

@[simp] theorem withChoices_creditLevel (s : State) (n : Nat) (a : Agent) (k : MsgClass) :
    (s.withChoices n).creditLevel a k = s.creditLevel a k := rfl

@[simp] theorem withChoices_fits (s : State) (n : Nat) (x : Table) :
    (s.withChoices n).fits x = s.fits x := rfl

@[simp] theorem withChoices_holdsNothing (s : State) (n : Nat) (a : Agent) :
    (s.withChoices n).holdsNothing a = s.holdsNothing a := rfl

@[simp] theorem withChoices_heldFor (s : State) (n : Nat) (a : Agent) :
    (s.withChoices n).heldFor a = s.heldFor a := rfl

@[simp] theorem withChoices_expiredAll (s : State) (n : Nat) (life : PerClass Nat) :
    (s.withChoices n).expiredAll life = s.expiredAll life := rfl

@[simp] theorem withChoices_leaseOut (s : State) (n : Nat) (a : Agent) :
    (s.withChoices n).leaseOut a = s.leaseOut a := rfl

@[simp] theorem withChoices_dueEvents (s : State) (n : Nat) :
    (s.withChoices n).dueEvents = s.dueEvents := rfl

theorem foldl_withChoices {α : Type} (f : State → α → State) (n : Nat)
    (h : ∀ s x, f (s.withChoices n) x = (f s x).withChoices n) (l : List α) (s : State) :
    l.foldl f (s.withChoices n) = (l.foldl f s).withChoices n := by
  induction l generalizing s with
  | nil => rfl
  | cons x rest ih => rw [List.foldl_cons, h, ih, List.foldl_cons]

@[simp] theorem withChoices_foldOffer (s : State) (n : Nat) (a : Agent) :
    (s.withChoices n).foldOffer a = (s.foldOffer a).withChoices n := by
  cases h : s.latches[a] <;> simp [-Fin.getElem_fin, State.foldOffer, h]

@[simp] theorem withChoices_offer (s : State) (n : Nat) (a : Agent) (x : Notice) :
    (s.withChoices n).offer a x = (s.offer a x).withChoices n := by
  simp only [State.offer, withChoices_isMember, withChoices_fields, withChoices_foldOffer, withChoices_setNotices]
  split_ifs <;> rfl

@[simp] theorem withChoices_offerAll (s : State) (n : Nat) (l : List Agent) (x : Notice) :
    (s.withChoices n).offerAll l x = (s.offerAll l x).withChoices n := foldl_withChoices _ n (fun t a => by simp) l s

@[simp] theorem withChoices_offerPeers (s : State) (n : Nat) (a : Agent) (x : Notice) :
    (s.withChoices n).offerPeers a x = (s.offerPeers a x).withChoices n := withChoices_offerAll s n _ x

@[simp] theorem withChoices_offerOptional (s : State) (n : Nat) (a : Agent) (x : Option Notice) :
    (s.withChoices n).offerOptional a x = (s.offerOptional a x).withChoices n := by
  cases x <;> simp [State.offerOptional]

@[simp] theorem withChoices_testWatch (s : State) (n : Nat) (a : Agent) (k : MsgClass) :
    (s.withChoices n).testWatch a k = (s.testWatch a k).withChoices n := by
  cases h : (s.watches[a]).get k with
  | none => simp [-Fin.getElem_fin, State.testWatch, h]
  | some x => by_cases hx : x ≤ s.creditLevel a k <;> simp [-Fin.getElem_fin, State.testWatch, h, hx]

@[simp] theorem withChoices_evaluateWatches (s : State) (n : Nat) :
    (s.withChoices n).evaluateWatches = s.evaluateWatches.withChoices n :=
  foldl_withChoices _ n (fun t a => foldl_withChoices _ n (fun u k => by simp) classes t) agents s

@[simp] theorem withChoices_applyTable (s : State) (n : Nat) (x : Table) :
    (s.withChoices n).applyTable x = (s.applyTable x).withChoices n := by
  let u : State := { s with table := x, epoch := epochAfter s.epoch, slot := none }.restartClock
  show ((u.withChoices n).offerAll agents (.configApplied u.epoch)).evaluateWatches = _
  rw [withChoices_offerAll, withChoices_evaluateWatches]
  rfl

@[simp] theorem withChoices_runFitTest (s : State) (n : Nat) :
    (s.withChoices n).runFitTest = s.runFitTest.withChoices n := by
  cases h : s.slot with
  | none => simp [State.runFitTest, h]
  | some x => by_cases hx : s.fits x.table = true <;> simp [State.runFitTest, h, hx]

@[simp] theorem withChoices_fitThenWatches (s : State) (n : Nat) :
    (s.withChoices n).fitThenWatches = s.fitThenWatches.withChoices n := by
  cases h : s.slot with
  | none => simp [State.fitThenWatches, h]
  | some x => by_cases hx : s.fits x.table = true <;> simp [State.fitThenWatches, h, hx]

@[simp] theorem withChoices_commit (s : State) (n : Nat) (x : Table) (number : Byte) :
    (s.withChoices n).commit x number = (s.commit x number).withChoices n :=
  withChoices_fitThenWatches { s with slot := some ⟨x, number⟩ } n

@[simp] theorem withChoices_zeroFill (s : State) (n : Nat) (a : Agent) :
    (s.withChoices n).zeroFill a = (s.zeroFill a).withChoices n := by
  cases h : (s.frames[a]).phase <;> simp [-Fin.getElem_fin, State.zeroFill, h]

@[simp] theorem withChoices_zeroFillReadout (s : State) (n : Nat) (a : Agent) :
    (s.withChoices n).zeroFillReadout a = (s.zeroFillReadout a).withChoices n := by
  by_cases h : (s.frames[a]).opcode = some codeNotices <;> simp [-Fin.getElem_fin, State.zeroFillReadout, h]

@[simp] theorem withChoices_goOffline (s : State) (n : Nat) (a : Agent) :
    (s.withChoices n).goOffline a = (s.goOffline a).withChoices n := by
  simp [-Fin.getElem_fin, State.goOffline]

@[simp] theorem withChoices_drainTest (s : State) (n : Nat) (a : Agent) :
    (s.withChoices n).drainTest a = (s.drainTest a).withChoices n := by
  simp only [State.drainTest, withChoices_fields, withChoices_holdsNothing, withChoices_goOffline, withChoices_offerPeers]
  split <;> rfl

@[simp] theorem withChoices_startScrub (s : State) (n : Nat) :
    (s.withChoices n).startScrub = s.startScrub.withChoices n := by
  cases he : s.engine <;> cases hq : s.scrubQueue <;> simp only [State.startScrub, withChoices_fields, he, hq]
  rfl

@[simp] theorem withChoices_scrubCells (s : State) (n : Nat) (cells : List CellId) :
    (s.withChoices n).scrubCells cells = (s.scrubCells cells).withChoices n := by
  have hfold := foldl_withChoices (fun t c => t.setCell c ((t.cellMap[c]).released)) n (fun t c => rfl) cells s
  let u : State := cells.foldl (fun t c => t.setCell c ((t.cellMap[c]).released)) s
  unfold State.scrubCells
  rw [hfold]
  exact withChoices_startScrub { u with scrubQueue := u.scrubQueue ++ cells } n

@[simp] theorem withChoices_dropRecord (s : State) (n : Nat) (d : DescId) (m : Message) :
    (s.withChoices n).dropRecord d m = (s.dropRecord d m).withChoices n := by
  unfold State.dropRecord
  rw [withChoices_scrubCells]
  rfl

@[simp] theorem withChoices_release (s : State) (n : Nat) (d : DescId) (path : RemovalPath) :
    (s.withChoices n).release d path = (s.release d path).withChoices n := by
  cases h : s.descs[d] <;> simp [-Fin.getElem_fin, State.release, State.finishRelease, h]

@[simp] theorem withChoices_releaseAll (s : State) (n : Nat) (ds : List DescId) (path : RemovalPath) :
    (s.withChoices n).releaseAll ds path = (s.releaseAll ds path).withChoices n :=
  foldl_withChoices _ n (fun t d => by simp) ds s

@[simp] theorem withChoices_endRound (s : State) (n : Nat) (v : Proposal) (o : RoundOutcome) (vetoer : Option Agent) :
    (s.withChoices n).endRound v o vetoer = (s.endRound v o vetoer).withChoices n := by
  let u : State := s.offerAll (agents.filter (fun a => a = v.proposer || v.required[a])) (.proposalClosed vetoer v.number o)
  simp only [State.endRound, withChoices_offerAll]
  cases o with
  | committed => exact withChoices_commit { u with voting := none } n v.table v.number
  | rejected => rfl
  | lapsed => rfl
  | withdrawn => rfl

@[simp] theorem withChoices_testConsents (s : State) (n : Nat) :
    (s.withChoices n).testConsents = s.testConsents.withChoices n := by
  cases h : s.voting with
  | none => simp [State.testConsents, h]
  | some v => by_cases hv : v.consented = v.required <;> simp [State.testConsents, h, hv]

@[simp] theorem withChoices_leaveRound (s : State) (n : Nat) (a : Agent) :
    (s.withChoices n).leaveRound a = (s.leaveRound a).withChoices n := by
  cases h : s.voting with
  | none => simp [State.leaveRound, h]
  | some v =>
    by_cases hp : v.proposer = a
    · simp [-Fin.getElem_fin, State.leaveRound, h, hp]
    · cases hr : v.required[a] with
      | false => simp [-Fin.getElem_fin, State.leaveRound, h, hp, hr]
      | true =>
        simp only [State.leaveRound, withChoices_fields, h, hp, hr, if_false, if_true]
        exact withChoices_testConsents { s with voting := some (v.without a) } n

/-! ### The consumers -/

theorem withChoices_takePass (s : State) (n : Nat) : (s.withChoices n).takePass = s.takePass.withChoices n := by
  cases h : s.passDue with
  | none => simp [State.takePass, h]
  | some life =>
    simp only [State.takePass, withChoices_fields, h, withChoices_expiredAll]
    exact withChoices_releaseAll { s with passDue := none } n _ _

@[simp] theorem withChoices_abortStaging (s : State) (n : Nat) (a : Agent) :
    (s.withChoices n).abortStaging a = (s.abortStaging a).withChoices n := by
  cases h : s.stagings[a] <;> simp [-Fin.getElem_fin, State.abortStaging, h]

@[simp] theorem withChoices_discard (s : State) (n : Nat) (a : Agent) :
    (s.withChoices n).discard a = (s.discard a).withChoices n := by
  simp [-Fin.getElem_fin, State.discard]

theorem withChoices_takeFencing (s : State) (n : Nat) (a : Agent) :
    (s.withChoices n).takeFencing a = (s.takeFencing a).withChoices n := by
  have hfence : (s.withChoices n).fence a = (s.fence a).withChoices n := by simp [-Fin.getElem_fin, State.fence]
  simp only [State.takeFencing, withChoices_leaseOut, hfence]
  split <;> rfl

theorem withChoices_takeLapse (s : State) (n : Nat) : (s.withChoices n).takeLapse = s.takeLapse.withChoices n := by
  cases h : s.voting with
  | none => simp [State.takeLapse, h]
  | some v => by_cases hv : v.window = 0 <;> simp [State.takeLapse, h, hv]

/-- No consumer of a tick looks at the count of free choices. -/
theorem withChoices_takeEvent (s : State) (n : Nat) (e : TickEvent) :
    (s.withChoices n).takeEvent e = (s.takeEvent e).withChoices n := by
  cases e with
  | pass => exact withChoices_takePass s n
  | fence a => exact withChoices_takeFencing s n a
  | lapse => exact withChoices_takeLapse s n

end Sys2Proof.Machine

/-! The run of the due consumers before a command (O5). -/

namespace Sys2Proof.Machine

/-! ## Which consumers are due -/

/-- Consumer `e` of the tick taken last is due. -/
def State.isDue (s : State) : TickEvent → Bool
  | .pass => s.passDue.isSome
  | .fence a => s.leaseOut a
  | .lapse => s.lapseDue

theorem mem_dueEvents {s : State} {e : TickEvent} : e ∈ s.dueEvents ↔ s.isDue e = true := by
  cases e <;> simp [State.dueEvents, State.isDue, mem_agents]

theorem nodup_dueEvents (s : State) : s.dueEvents.Nodup := by
  have hfences : ((agents.filter (fun a => s.leaseOut a)).map TickEvent.fence).Nodup :=
    (agents_filter_nodup _).map (fun _ _ h => TickEvent.fence.inj h)
  unfold State.dueEvents
  refine ((by split <;> simp : List.Nodup _).append hfences ?_).append (by split <;> simp) ?_
  · rw [List.disjoint_left]
    intro e he hfence
    split at he <;> aesop
  · rw [List.disjoint_left]
    intro e he hlapse
    split at hlapse <;> split at he <;> aesop

theorem length_dueEvents_le (s : State) : s.dueEvents.length ≤ 6 := by
  have hfences : (agents.filter (fun a => s.leaseOut a)).length ≤ 4 := List.length_filter_le _ _
  unfold State.dueEvents
  split <;> split <;> simp <;> omega

/-! ## What a consumer leaves due -/

theorem lapseDue_congr {s t : State} (h : t.voting = s.voting) : t.lapseDue = s.lapseDue := by
  simp only [State.lapseDue, h]

/-- An agent leaving the round brings no window to its end. -/
theorem lapseDue_of_leftRound {s t : State} {a : Agent} (hleft : leftRound s t a) (h : t.lapseDue = true) :
    s.lapseDue = true := by
  obtain ⟨hidle, hopen⟩ := hleft
  have hnone : t.voting ≠ none := fun hn => by simp [State.lapseDue, hn] at h
  cases hv : s.voting with
  | none => exact absurd (hidle hv) hnone
  | some v =>
    have hround := hopen v hv
    have hsame {x : Proposal} (hx : t.voting = some x) (hwindow : x.window = v.window) : s.lapseDue = true := by
      simpa [State.lapseDue, hx, hv, hwindow] using h
    split at hround
    · exact absurd hround hnone
    · split at hround
      · split at hround
        · exact absurd hround hnone
        · exact hsame hround rfl
      · exact hsame hround rfl

theorem takeLapse_voting (s : State) : s.takeLapse.lapseDue = false := by
  unfold State.takeLapse
  split
  · next h => simp [State.lapseDue, h]
  · next v h =>
    split
    · simp [State.lapseDue, endRound_voting]
    · next hw => simpa [State.lapseDue, h] using hw

theorem takePass_passDue (s : State) : s.takePass.passDue = none := by
  unfold State.takePass
  split
  · next h => exact h
  · simp

/-- A consumer makes no other due. -/
theorem isDue_of_takeEvent {s : State} {e f : TickEvent} (h : (s.takeEvent e).isDue f = true) : s.isDue f = true := by
  cases f with
  | fence a => exact (wanes_takeEvent a s e).2 h
  | pass =>
    cases e with
    | pass => exact absurd h (by simp [State.isDue, State.takeEvent, takePass_passDue])
    | fence a => simpa [State.isDue, State.takeEvent] using h
    | lapse => simpa [State.isDue, State.takeEvent] using h
  | lapse =>
    cases e with
    | pass => exact (lapseDue_congr (s := s) (t := s.takePass) (by simp)).symm.trans h
    | fence a =>
      change (s.takeFencing a).lapseDue = true at h
      unfold State.takeFencing at h
      split at h
      · exact lapseDue_of_leftRound (departs_fence s a).round h
      · exact h
    | lapse => exact absurd h (by simp [State.isDue, State.takeEvent, takeLapse_voting])

/-- A consumer that has been taken is due no more. -/
theorem isDue_takeEvent_self (s : State) (e : TickEvent) : (s.takeEvent e).isDue e = false := by
  cases e with
  | pass => simp [State.isDue, State.takeEvent, takePass_passDue]
  | lapse => exact takeLapse_voting s
  | fence a =>
    show (s.takeFencing a).leaseOut a = false
    unfold State.takeFencing
    split
    · simp [State.leaseOut, (departs_fence s a).absent]
    · next h => exact Bool.eq_false_iff.mpr h

/-- The expiry pass is no consumer that another brings to nothing. -/
theorem isDue_pass_takeEvent {s : State} {e : TickEvent} (he : e ≠ .pass) (h : s.isDue .pass = true) :
    (s.takeEvent e).isDue .pass = true := by
  cases e with
  | pass => exact absurd rfl he
  | fence a => simpa [State.isDue, State.takeEvent] using h
  | lapse => simpa [State.isDue, State.takeEvent] using h

theorem length_dueEvents_takeEvent {s : State} {e : TickEvent} (he : e ∈ s.dueEvents) :
    (s.takeEvent e).dueEvents.length < s.dueEvents.length := by
  have hsub : (s.takeEvent e).dueEvents ⊆ s.dueEvents.erase e := by
    intro f hf
    have hdue := mem_dueEvents.mp hf
    have hne : f ≠ e := fun hfe => by rw [hfe, isDue_takeEvent_self] at hdue; exact absurd hdue (by simp)
    exact (nodup_dueEvents s).mem_erase_iff.mpr ⟨hne, mem_dueEvents.mpr (isDue_of_takeEvent hdue)⟩
  have hle := ((nodup_dueEvents (s.takeEvent e)).subperm hsub).length_le
  have hpos := List.length_pos_of_mem he
  rw [List.length_erase_of_mem he] at hle
  omega

/-! ## The run -/

theorem exec_command (s : State) (e : TickEvent) : exec e.command s = .next (s.takeEvent e) := by cases e <;> rfl

theorem command_injective : Function.Injective TickEvent.command := by
  intro e f h
  cases e <;> cases f <;> simp_all [TickEvent.command]

theorem runAll_commands (es : List TickEvent) (s : State) :
    runAll (es.map TickEvent.command) s = some (es.foldl State.takeEvent s) := by
  induction es generalizing s with
  | nil => rfl
  | cons e rest ih =>
    rw [List.map_cons, runAll, exec_command]
    exact ih _

/-- From `s` on, the consumers of a list have been taken one after another, each of them due in `s`, and none is due
after them. -/
structure Consumes (s : State) (es : List TickEvent) : Prop where
  nodup : es.Nodup
  due : ∀ e ∈ es, s.isDue e = true
  pass : s.isDue .pass = true → .pass ∈ es
  quiet : (es.foldl State.takeEvent s).quiet

theorem consumes_nil {s : State} (h : s.quiet) : Consumes s [] where
  nodup := .nil
  due := by simp
  pass := fun hp => by rw [State.quiet] at h; rw [← mem_dueEvents, h] at hp; exact absurd hp (by simp)
  quiet := h

theorem consumes_cons {s : State} {e : TickEvent} {es : List TickEvent} (he : e ∈ s.dueEvents)
    (h : Consumes (s.takeEvent e) es) : Consumes s (e :: es) where
  nodup := by
    refine List.nodup_cons.mpr ⟨fun hmem => ?_, h.nodup⟩
    have hdue := h.due e hmem
    rw [isDue_takeEvent_self] at hdue
    exact absurd hdue (by simp)
  due := by
    rintro f hf
    rcases List.mem_cons.mp hf with rfl | hf
    · exact mem_dueEvents.mp he
    · exact isDue_of_takeEvent (h.due f hf)
  pass := fun hp => by
    by_cases hpass : e = .pass
    · simp [hpass]
    · exact List.mem_cons_of_mem _ (h.pass (isDue_pass_takeEvent hpass hp))
  quiet := h.quiet

theorem consumes_withChoices {s : State} {n : Nat} {es : List TickEvent} (h : Consumes (s.withChoices n) es) :
    Consumes s es where
  nodup := h.nodup
  due := fun e he => by
    have hdue := h.due e he
    rwa [← mem_dueEvents, withChoices_dueEvents, mem_dueEvents] at hdue
  pass := fun hp => h.pass (by rwa [← mem_dueEvents, withChoices_dueEvents, mem_dueEvents])
  quiet := by
    have hquiet := h.quiet
    rwa [foldl_withChoices _ n (fun t e => withChoices_takeEvent t n e), State.quiet, withChoices_dueEvents] at hquiet

/-- The settling with fuel for every due consumer is a run of consumers after which none is due. -/
theorem settleSome_consumes (n : Nat) (s : State) (hn : s.dueEvents.length ≤ n) :
    ∃ es, Consumes s es ∧
      State.settleSome n s = (es.foldl State.takeEvent s).withChoices (State.settleSome n s).choices := by
  have hquiet (h : s.quiet) : ∃ es, Consumes s es ∧ s = (es.foldl State.takeEvent s).withChoices s.choices :=
    ⟨[], consumes_nil h, rfl⟩
  induction n generalizing s with
  | zero => exact hquiet (List.length_eq_zero_iff.mp (Nat.le_zero.mp hn))
  | succ n ih =>
    have hstep {e : TickEvent} (he : e ∈ s.dueEvents) : (s.takeEvent e).dueEvents.length ≤ n :=
      Nat.lt_succ_iff.mp ((length_dueEvents_takeEvent he).trans_le hn)
    have hrec (t : State) (ht : t.dueEvents.length ≤ n) := ih t ht (fun h => ⟨[], consumes_nil h, rfl⟩)
    unfold State.settleSome
    split
    · next h => exact hquiet h
    · next e h =>
      have he : e ∈ s.dueEvents := by simp [h]
      obtain ⟨es, hes, heq⟩ := hrec _ (hstep he)
      exact ⟨e :: es, consumes_cons he hes, heq⟩
    · next e f rest h =>
      set i := Config.tickOrder s.choices % (rest.length + 2) with hi
      set g := (e :: f :: rest).getD i e with hg
      have he : g ∈ s.dueEvents := by
        have hlt : i < (e :: f :: rest).length := Nat.mod_lt _ (by simp)
        rw [h, hg, List.getD_eq_getElem _ _ hlt]
        exact List.getElem_mem hlt
      have htake : ({ s with choices := s.choices + 1 } : State).takeEvent g =
          (s.takeEvent g).withChoices (s.choices + 1) := withChoices_takeEvent s _ g
      obtain ⟨es, hes, heq⟩ := hrec ((s.takeEvent g).withChoices (s.choices + 1)) (hstep he)
      refine ⟨g :: es, consumes_cons he (consumes_withChoices hes), ?_⟩
      rw [foldl_withChoices _ _ (fun t e => withChoices_takeEvent t _ e)] at heq
      simp only [← hg, htake]
      exact heq

theorem settle_consumes (s : State) :
    ∃ es, Consumes s es ∧ s.settle = (es.foldl State.takeEvent s).withChoices s.settle.choices :=
  settleSome_consumes 6 s (length_dueEvents_le s)

theorem settle_quiet (s : State) : s.settle.quiet := by
  obtain ⟨es, hes, heq⟩ := settle_consumes s
  rw [heq, State.quiet, withChoices_dueEvents]
  exact hes.quiet

theorem settle_settle (s : State) : s.settle.settle = s.settle := State.settle_of_quiet _ (settle_quiet s)

/-- Where one consumer alone is due, it is taken and no choice is. -/
theorem settle_single {s : State} {e : TickEvent} (h : s.dueEvents = [e]) : s.settle = s.takeEvent e := by
  have hquiet : (s.takeEvent e).quiet := by
    have hlt := length_dueEvents_takeEvent (s := s) (e := e) (by simp [h])
    rw [h] at hlt
    exact List.length_eq_zero_iff.mp (Nat.lt_one_iff.mp hlt)
  show State.settleSome 6 s = _
  unfold State.settleSome
  rw [h]
  show State.settleSome 5 (s.takeEvent e) = _
  unfold State.settleSome
  rw [hquiet]

theorem exec_settle {c : Instr} (s : State) (hreset : c ≠ .deviceReset) (hpass : c ≠ .expiryPass)
    (hfence : ∀ a, c ≠ .fencing a) (hlapse : c ≠ .proposalLapse) : exec c s = exec c s.settle := by
  cases c with
  | deviceReset => exact absurd rfl hreset
  | expiryPass => exact absurd rfl hpass
  | fencing a => exact absurd rfl (hfence a)
  | proposalLapse => exact absurd rfl hlapse
  | _ =>
    simp only [exec, execStartupClearStart, execStartupClearCompletion, execCsnFall, execCsnRise, execBadop,
      execIdent, execStatus, execJoin, execLeave, execRenew, execPostHeader, execPostStagingByte,
      execPostLastCheckByte, execFetch, execAck, execNack, execRecall, execWatch, execNotices,
      execNoticeRecordRemoval, execOverrunLatch, execSummary, execReadcfg, execPropose, execConsent, execVeto,
      execApplyHeld, execAgeTick, execDrainCompletion, execScrubCompletion, execWatchFire, settle_settle]

/-- Settles O5. -/
theorem dueConsumersComeFirst : Obligations.DueConsumersComeFirst := by
  refine ⟨fun s => ?_, fun s e h => ?_, State.settle_of_quiet, fun c s => exec_settle s⟩
  · obtain ⟨es, hes, heq⟩ := settle_consumes s
    refine ⟨es.foldl State.takeEvent s, ⟨es.map TickEvent.command, hes.nodup.map command_injective, ?_, ?_,
      runAll_commands es s, hes.quiet⟩, heq⟩
    · rintro c hc
      obtain ⟨e, he, rfl⟩ := List.mem_map.mp hc
      exact ⟨e, mem_dueEvents.mpr (hes.due e he), rfl⟩
    · intro hp
      exact List.mem_map.mpr ⟨.pass, hes.pass (mem_dueEvents.mp hp), rfl⟩
  · rw [exec_command, settle_single h]

end Sys2Proof.Machine

/-! The common frame of the transactions: what each answers during the start-up clear, to a caller outside, and with an
unknown first byte (O8, O9), and the transactions that read one block or set one field (O14, O35, O38, O39). -/

namespace Sys2Proof.Machine

/-! ## The common frame -/

/-- R122: the refusal of transaction `code` by the state of its caller. -/
def State.refusalOf (s : State) (p : Agent) (code : Byte) : Option Result :=
  if code ∈ [codePost, codeReadcfg, codePropose, codeConsent, codeVeto] then s.refuseInactive p else s.refuseOutsider p

/-- A well-formed request but IDENT is taken in the common frame, with the caller-state check of its code. -/
theorem exec_request {c : Instr} {p : Agent} {code : Byte} {args : List Byte} {s : State}
    (hbytes : requestBytes c = some (p, code :: args)) (hwf : c.wellFormed = true) (hident : c ≠ .ident p) (hq : s.quiet) :
    ∃ check body, exec c s = .next (s.transact p code (args.length + 1) check body) ∧
      (isTransactionCode code = true → code ≠ codeStatus → code ≠ codeJoin → check = s.refusalOf p code) := by
  cases c <;> cases hbytes
  case ident => exact absurd rfl hident
  case status => exact ⟨_, _, quiet_next hq (·.answerStatus p), fun _ h => absurd rfl h⟩
  case join period => exact ⟨_, _, quiet_next hq (·.answerJoin p period), fun _ _ h => absurd rfl h⟩
  case leave => exact ⟨_, _, quiet_next hq (·.answerLeave p), fun _ _ _ => rfl⟩
  case renew => exact ⟨_, _, quiet_next hq (·.answerRenew p), fun _ _ _ => rfl⟩
  case postHeader dest cls flags len =>
    exact ⟨_, _, quiet_next hq (·.answerHeader p dest cls flags len), fun _ _ _ => rfl⟩
  case fetch sel => exact ⟨_, _, quiet_next hq (·.answerFetch p sel), fun _ _ _ => rfl⟩
  case ack cls tag => exact ⟨_, _, quiet_next hq (·.answerAck p cls tag), fun _ _ _ => rfl⟩
  case nack cls tag => exact ⟨_, _, quiet_next hq (·.answerNack p cls tag), fun _ _ _ => rfl⟩
  case recallMessage dest cls tag => exact ⟨_, _, quiet_next hq (·.answerRecall p dest cls tag), fun _ _ _ => rfl⟩
  case watch cls threshold => exact ⟨_, _, quiet_next hq (·.answerWatch p cls threshold), fun _ _ _ => rfl⟩
  case notices max => exact ⟨_, _, quiet_next hq (·.answerNotices p max), fun _ _ _ => rfl⟩
  case summary => exact ⟨_, _, quiet_next hq (·.answerSummary p), fun _ _ _ => rfl⟩
  case readcfg sel => exact ⟨_, _, quiet_next hq (·.answerReadcfg p sel), fun _ _ _ => rfl⟩
  case propose =>
    have hlen : args.length = imageBytes := by simpa [Instr.wellFormed] using hwf
    refine ⟨s.refuseInactive p, s.proposeBy p (tableOfImage args), ?_, fun _ _ _ => rfl⟩
    have hexec : exec (.propose p args) s = .next (s.answerPropose p args) := quiet_next hq (·.answerPropose p args)
    rw [hexec, hlen]
    exact congrArg _ (if_pos hlen)
  case consent num => exact ⟨_, _, quiet_next hq (·.answerConsent p num), fun _ _ _ => rfl⟩
  case veto num => exact ⟨_, _, quiet_next hq (·.answerVeto p num), fun _ _ _ => rfl⟩
  case badop =>
    have hcode : isTransactionCode code = false := by simpa [Instr.wellFormed] using hwf
    refine ⟨none, s.respond p code 1 .badop [] none, ?_, fun h => absurd h (by simp [hcode])⟩
    have hexec : exec (.badop p code) s = .next (s.unknownOpcode p code) := quiet_next hq (·.unknownOpcode p code)
    rw [hexec]
    exact congrArg _ (if_neg (by simp [hcode]))

/-- Settles O8: in the common frame of `exec_request` the start-up clear comes first. -/
theorem requestsDuringStartupAnswerStarting : Obligations.RequestsDuringStartupAnswerStarting := by
  intro s c p code args hbytes hwf hident ⟨hq, ho⟩ hs
  obtain ⟨check, body, hexec, -⟩ := exec_request hbytes hwf hident hq
  rw [State.transact_starting s p _ _ _ _ ho hs] at hexec
  exact ⟨_, hexec, respondOnly_answers s s p _ _ _ _ rfl, rfl⟩

theorem State.refuseInactive_closing (s : State) (p : Agent) (h : s.portIs p .closing) :
    s.refuseInactive p = some .closing := by
  unfold State.refuseInactive
  rw [h]

theorem State.refusalOf_offline (s : State) (p : Agent) (code : Byte) (h : s.portIs p .offline) :
    s.refusalOf p code = some .notJoined := by
  unfold State.refusalOf State.refuseInactive State.refuseOutsider
  rw [h]
  exact ite_self _

theorem State.refusalOf_fenced (s : State) (p : Agent) (code : Byte) (h : s.portIs p .fenced) :
    s.refusalOf p code = some .fenced := by
  unfold State.refusalOf State.refuseInactive State.refuseOutsider
  rw [h]
  exact ite_self _

/-- Settles O9: the refusal of `exec_request` by port state; an unknown first byte has a frame of its own. -/
theorem callerStateAndOpcodeAreChecked : Obligations.CallerStateAndOpcodeAreChecked := by
  refine ⟨fun s c p code args hbytes hwf hcode hident hstatus hjoin ⟨⟨hq, ho⟩, hs⟩ r hr => ?_,
    fun s p code ⟨⟨hq, ho⟩, hs⟩ hcode => ?_⟩
  · have hne : c ≠ .ident p := fun h => hident (by rw [h] at hbytes; cases hbytes; rfl)
    obtain ⟨check, body, hexec, hcheck⟩ := exec_request hbytes hwf hne hq
    have hrefused : s.refusalOf p code = some r := by
      rcases hr with ⟨hp, rfl⟩ | ⟨hp, rfl⟩ | ⟨hp, rfl, hmem⟩
      · exact State.refusalOf_offline s p code hp
      · exact State.refusalOf_fenced s p code hp
      · exact (if_pos hmem).trans (State.refuseInactive_closing s p hp)
    rw [hcheck hcode hstatus hjoin, hrefused, State.transact_refused s p _ _ _ _ ho hs] at hexec
    exact ⟨_, hexec, respond_answers s s p _ _ _ _ _ rfl, rfl⟩
  · have hwf : (Instr.badop p code).wellFormed = true := by
      simpa [Instr.wellFormed, isTransactionCode] using hcode
    have hexec : exec (.badop p code) s = .next (s.unknownOpcode p code) := quiet_next hq (·.unknownOpcode p code)
    have hunknown : s.unknownOpcode p code = s.respond p code 1 .badop [] none :=
      (if_neg (by simpa [Instr.wellFormed] using hwf)).trans (State.transact_body s p _ _ _ ho hs)
    rw [hunknown] at hexec
    exact ⟨_, hexec, respond_answers s s p _ _ _ _ _ rfl, rfl⟩

/-- The transaction of a caller that its state does not refuse. -/
theorem State.transact_joined {s : State} {p : Agent} (ho : s.requestOpen p = true) (hs : s.starting = false)
    (hj : s.joined p) (code : Byte) (len : Nat) (body : State) :
    s.transact p code len (s.refuseOutsider p) body = body := by
  rw [State.refuseOutsider_joined s p hj, State.transact_body s p _ _ _ ho hs]

theorem State.transact_active {s : State} {p : Agent} (ho : s.requestOpen p = true) (hs : s.starting = false)
    (hj : s.portIs p .active) (code : Byte) (len : Nat) (body : State) :
    s.transact p code len (s.refuseInactive p) body = body := by
  rw [State.refuseInactive_active s p hj, State.transact_body s p _ _ _ ho hs]

/-! ## RENEW, NOTICES, SUMMARY, READCFG -/

/-- Settles O14. -/
theorem renewReloadsTheLease : Obligations.RenewReloadsTheLease := by
  intro s p ⟨hq, ho⟩
  refine ⟨s.answerRenew p, quiet_next hq (·.answerRenew p), fun hs => ?starting, fun hs hp => ?offline,
    fun hs hp => ?fenced, fun hs hj => ?accepted⟩
  case starting =>
    unfold State.answerRenew
    rw [State.transact_starting s p _ _ _ _ ho hs]
    exact ⟨respondOnly_answers s s p _ _ _ _ rfl, rfl⟩
  case offline =>
    unfold State.answerRenew
    rw [State.refuseOutsider_offline s p hp, State.transact_refused s p _ _ _ _ ho hs]
    exact ⟨respond_answers s s p _ _ _ _ _ rfl, rfl⟩
  case fenced =>
    unfold State.answerRenew
    rw [State.refuseOutsider_fenced s p hp, State.transact_refused s p _ _ _ _ ho hs]
    exact ⟨respond_answers s s p _ _ _ _ _ rfl, rfl⟩
  case accepted =>
    have hframe := State.answerRenew_frame s p
    unfold State.answerRenew at hframe ⊢
    rw [State.transact_joined ho hs hj] at hframe ⊢
    exact ⟨respond_answers s _ p _ _ _ _ _ rfl, vec_get_set_same _ _ _, fun a ha => vec_get_set_ne _ _ _ _ (Ne.symm ha),
      hframe⟩

/-- Settles O35. -/
theorem noticesReturnsTheHeadRecords : Obligations.NoticesReturnsTheHeadRecords := by
  intro s p max ⟨⟨hq, ho⟩, hs⟩ hj
  have hexec : exec (.notices p max) s = .next (s.answerNotices p max) := quiet_next hq (·.answerNotices p max)
  have hbody : s.answerNotices p max = s.noticesBy p max := State.transact_joined ho hs hj _ _ _
  have hframe := State.answerNotices_frame s p max
  rw [hbody] at hexec hframe
  by_cases hbad : max.toNat = 0 ∨ 16 < max.toNat
  · have h : s.noticesBy p max = s.respond p codeNotices 2 .badarg [] none := if_pos (by simpa using hbad)
    have hanswers := respond_answers s s p codeNotices 2 .badarg [] none rfl
    rw [h] at hexec hframe
    refine ⟨_, hexec, hanswers.2, hframe, fun _ => hanswers, fun h0 h16 => ?_⟩
    rcases hbad with hzero | hbig
    · exact absurd (BitVec.eq_of_toNat_eq hzero) h0
    · exact absurd hbig (Nat.not_lt.mpr h16)
  · set n := s.readoutCount p max with hn
    set u := s.respond p codeNotices 2 .ok (byteOf n :: ((s.notices[p]).take n).flatMap Notice.record) none with hu
    have h : s.noticesBy p max = u.setFrame p { u.frames[p] with recordsLeft := n } := if_neg (by simpa using hbad)
    obtain ⟨hself, hother⟩ := respond_answers s s p codeNotices 2 .ok
      (byteOf n :: ((s.notices[p]).take n).flatMap Notice.record) none rfl
    rw [← hu] at hself hother
    rw [h] at hexec hframe
    refine ⟨_, hexec, fun q hqp => ?_, hframe, fun hbad' => ?_, fun _ _ => ?_⟩
    · exact (vec_get_set_ne _ _ _ _ (Ne.symm hqp)).trans (hother q hqp)
    · rcases hbad' with rfl | hbig
      · exact absurd (Or.inl rfl) hbad
      · exact absurd (Or.inr hbig) hbad
    · rw [State.setFrame_frames, vec_get_set_same, hself]
      rfl

/-- Settles O38. -/
theorem summaryTakesTheSnapshot : Obligations.SummaryTakesTheSnapshot := by
  intro s p ⟨⟨hq, ho⟩, hs⟩ hj
  have hexec : exec (.summary p) s = .next (s.answerSummary p) := quiet_next hq (·.answerSummary p)
  have hbody : s.answerSummary p =
      (s.setSnapshot p (s.summary p)).respond p codeSummary 1 .ok (s.summaryBytes p) none :=
    State.transact_joined ho hs hj _ _ _
  have hframe := State.answerSummary_frame s p
  rw [hbody] at hexec hframe
  have hset (x y z : Bool) : classSetCode ⟨x, y, z⟩ =
      BitVec.ofNat 8 ((if x then 1 else 0) + (if y then 2 else 0) + (if z then 4 else 0)) := classSetCode_eq x y z
  refine ⟨_, hexec, fun k => ?_, fun a ha => ?_, ?_, hframe⟩
  · have hsnap : ((s.setSnapshot p (s.summary p)).respond p codeSummary 1 .ok (s.summaryBytes p) none).snapshots[p] =
        s.summary p := vec_get_set_same _ _ _
    rw [hsnap]
    cases k <;> rfl
  · exact vec_get_set_ne _ _ _ _ (Ne.symm ha)
  · dsimp only
    rw [← classSetCode_eq, ← classSetCode_eq]
    exact respond_answers s _ p _ _ _ _ _ rfl

/-- Settles O39. -/
theorem readcfgReturnsTheTable : Obligations.ReadcfgReturnsTheTable := by
  intro s p sel ⟨⟨hq, ho⟩, hs⟩ hj
  have hexec : exec (.readcfg p sel) s = .next (s.answerReadcfg p sel) := quiet_next hq (·.answerReadcfg p sel)
  have hbody : s.answerReadcfg p sel = s.readcfgBy p sel := State.transact_active ho hs hj _ _ _
  have hframe := State.answerReadcfg_frame s p sel
  rw [hbody] at hexec hframe
  refine ⟨_, hexec, hframe, fun h0 => ?_, fun h1 hslot => ?_, fun x h1 hslot => ?_, fun hbig => ?_⟩
  · subst h0
    rw [← slotCode_eq]
    exact respond_answers s s p _ _ _ _ _ rfl
  · subst h1
    have h : s.readcfgBy p 1 = s.respond p codeReadcfg 2 .empty [] none := by simp [State.readcfgBy, hslot]
    rw [h]
    exact respond_answers s s p _ _ _ _ _ rfl
  · subst h1
    have h : s.readcfgBy p 1 = s.respond p codeReadcfg 2 .ok (s.configBytes x.table x.number) none := by
      simp [State.readcfgBy, hslot]
    have hcode : slotCode s.slot = 1 := by rw [hslot]; rfl
    rw [h]
    unfold State.configBytes
    rw [hcode]
    exact respond_answers s s p _ _ _ _ _ rfl
  · have h : s.readcfgBy p sel = s.respond p codeReadcfg 2 .badarg [] none := by
      have h0 : sel ≠ 0 := fun e => by rw [e] at hbig; exact absurd hbig (by decide)
      have h1 : sel ≠ 1 := fun e => by rw [e] at hbig; exact absurd hbig (by decide)
      exact (if_neg h0).trans (if_neg h1)
    rw [h]
    exact respond_answers s s p _ _ _ _ _ rfl

end Sys2Proof.Machine

/-! JOIN of an agent from outside (O15), and the transactions of the round: PROPOSE, CONSENT and VETO (O40, O41, O42). -/

namespace Sys2Proof.Machine

/-! ## JOIN from OFFLINE and FENCED (R125, R126) -/

theorem refuseLease_bad {period : Half} (h : period.toNat < 16 ∨ 4095 < period.toNat) :
    refuseLease period = some .badarg := if_pos (by simpa using h)

theorem refuseLease_good {period : Half} (hlow : 16 ≤ period.toNat) (hhigh : period.toNat ≤ 4095) :
    refuseLease period = none := if_neg (by simpa using ⟨hlow, hhigh⟩)

/-- R124: a JOIN with a period in range, past the start-up clear. -/
theorem State.answerJoin_good {s : State} {p : Agent} {period : Half} (ho : s.requestOpen p = true)
    (hs : s.starting = false) (hlow : 16 ≤ period.toNat) (hhigh : period.toNat ≤ 4095) :
    s.answerJoin p period = (s.joinBy p period.toNat).respond p codeJoin 3 .ok [(s.members[p]).state.code] none := by
  unfold State.answerJoin
  rw [refuseLease_good hlow hhigh, State.transact_body s p _ _ _ ho hs]

theorem State.joinBy_offline {s : State} {p : Agent} (h : s.portIs p .offline) (n : Nat) :
    s.joinBy p n = s.joinFresh p n := by
  unfold State.joinBy
  rw [h]

theorem State.joinBy_fenced {s : State} {p : Agent} (h : s.portIs p .fenced) (n : Nat) :
    s.joinBy p n = s.joinResumed p n := by
  unfold State.joinBy
  rw [h]

theorem State.joinBy_joined {s : State} {p : Agent} (h : s.joined p) (n : Nat) : s.joinBy p n = s.rejoin p n := by
  unfold State.joinBy
  rcases h with h | h <;> rw [h]

theorem joinFresh_members (s : State) (p : Agent) (n : Nat) :
    (s.joinFresh p n).members = s.members.set p ⟨.active, n, n, (s.members[p]).discards⟩ := by
  simp [-Fin.getElem_fin, State.joinFresh, State.loadLease]

theorem joinFresh_told (s : State) (p b : Agent) (n : Nat) (h : b ≠ p) :
    ((s.joinFresh p n).notices)[b] = ((s.offer b (.peerJoined p)).notices)[b] ∧
      ((s.joinFresh p n).latches)[b] = ((s.offer b (.peerJoined p)).latches)[b] :=
  offerPeers_other s (s.loadLease p n) p b _ h (congrArg _ (vec_get_set_ne _ _ _ _ (Ne.symm h))) rfl rfl

theorem joinResumed_members (s : State) (p : Agent) (n : Nat) :
    (s.joinResumed p n).members[p] = ⟨.active, n, n, 0⟩ ∧
      ∀ a : Agent, a ≠ p → (s.joinResumed p n).members[a] = s.members[a] := by
  have hmembers : (s.joinResumed p n).members =
      (s.members.set p ⟨.active, n, n, (s.members[p]).discards⟩).set p ⟨.active, n, n, 0⟩ := by
    simp [-Fin.getElem_fin, State.joinResumed, State.loadLease, State.place]
  rw [hmembers]
  exact ⟨vec_get_set_same _ _ _, fun a ha => by
    rw [vec_get_set_ne _ _ _ _ (Ne.symm ha), vec_get_set_ne _ _ _ _ (Ne.symm ha)]⟩

theorem joinResumed_placed (s : State) (p : Agent) (n : Nat) :
    (s.joinResumed p n).notices[p] = s.notices[p] ++ [.resumed (s.members[p]).discards] ∧
      (s.joinResumed p n).latches[p] = s.latches[p] := by
  obtain ⟨hnotices, hlatches⟩ := offerPeers_self (((s.loadLease p n).place p (.resumed (s.members[p]).discards)).setMember p
    { ((s.loadLease p n).place p (.resumed (s.members[p]).discards)).members[p] with discards := 0 }) p (.peerJoined p)
  exact ⟨hnotices.trans (vec_get_set_same _ _ _), hlatches⟩

theorem joinResumed_told (s : State) (p b : Agent) (n : Nat) (h : b ≠ p) :
    ((s.joinResumed p n).notices)[b] = ((s.offer b (.peerJoined p)).notices)[b] ∧
      ((s.joinResumed p n).latches)[b] = ((s.offer b (.peerJoined p)).latches)[b] := by
  refine offerPeers_other s _ p b _ h (congrArg _ ?_) (vec_get_set_ne _ _ _ _ (Ne.symm h)) rfl
  exact (vec_get_set_ne _ _ _ _ (Ne.symm h)).trans (vec_get_set_ne _ _ _ _ (Ne.symm h))

/-- Settles O15. -/
theorem joinBringsAnAgentIn : Obligations.JoinBringsAnAgentIn := by
  intro s p period ⟨⟨hq, ho⟩, hs⟩
  refine ⟨s.answerJoin p period, quiet_next hq (·.answerJoin p period), fun hbad => ?badarg, fun hlow hhigh hp => ?offline,
    fun hlow hhigh hp => ?fenced⟩
  case badarg =>
    unfold State.answerJoin
    rw [refuseLease_bad hbad, State.transact_refused s p _ _ _ _ ho hs]
    exact ⟨respond_answers s s p _ _ _ _ _ rfl, rfl⟩
  case offline =>
    have hcode : [(s.members[p]).state.code] = [0x00] := by rw [show (s.members[p]).state = .offline from hp]; rfl
    rw [State.answerJoin_good ho hs hlow hhigh, State.joinBy_offline hp, hcode]
    refine ⟨respond_answers s _ p _ _ _ _ _ (by simp [State.joinFresh, State.loadLease]), ?_, fun a ha => ?_, fun b => ?_, ?_⟩
    · exact (congrArg (·[p]) (joinFresh_members s p _)).trans (vec_get_set_same _ _ _)
    · exact (congrArg (·[a]) (joinFresh_members s p _)).trans (vec_get_set_ne _ _ _ _ (Ne.symm ha))
    · by_cases hb : b = p
      · rw [if_neg (by simpa using hb)]
        subst hb
        exact offerPeers_self (s.loadLease b period.toNat) b (.peerJoined b)
      · rw [if_pos (by simpa using hb)]
        exact joinFresh_told s p b _ hb
    · apply State.ext_fields <;> simp [State.joinFresh, State.loadLease]
  case fenced =>
    have hcode : [(s.members[p]).state.code] = [0x03] := by rw [show (s.members[p]).state = .fenced from hp]; rfl
    rw [State.answerJoin_good ho hs hlow hhigh, State.joinBy_fenced hp, hcode]
    obtain ⟨hself, hother⟩ := joinResumed_members s p period.toNat
    obtain ⟨hnotices, hlatches⟩ := joinResumed_placed s p period.toNat
    refine ⟨respond_answers s _ p _ _ _ _ _ (by simp [State.joinResumed, State.loadLease]), hself, hother, hnotices, hlatches,
      fun b hb => joinResumed_told s p b _ hb, ?_⟩
    apply State.ext_fields <;> simp [State.joinResumed, State.loadLease]

/-! ## PROPOSE (R160 to R163) -/

/-- R160 written out. -/
theorem valid_iff (x : Table) : x.valid = true ↔
    (∀ (a : Agent) (k : MsgClass), (x.reserved[a]).get k ≤ 64) ∧
    (∑ a : Agent, ((x.reserved[a]).express + (x.reserved[a]).standard + (x.reserved[a]).bulk)) ≤ 352 ∧
    (∀ a : Agent, x.cap[a] ≤ 384 ∧ 1 ≤ x.descLimit[a] ∧ x.descLimit[a] ≤ 128) ∧
    (∀ k : MsgClass, x.lifetime.get k ≤ 65535 ∧ 1 ≤ x.redelivery.get k ∧ x.redelivery.get k ≤ 7) ∧
    (x.prescale = 1 ∨ x.prescale = 4 ∨ x.prescale = 16 ∨ x.prescale = 64) ∧ 1 ≤ x.period ∧ x.period ≤ 256 ∧
    1 ≤ x.postscale ∧ x.postscale ≤ 16 ∧ 10 ≤ x.window ∧ x.window ≤ 1000 := by
  unfold Table.valid
  rw [sumReserved_eq]
  simp only [Bool.and_eq_true, Bool.or_eq_true, List.all_eq_true, decide_eq_true_eq, beq_iff_eq, mem_agents, mem_classes,
    true_implies, forall_and]
  tauto

/-- An offer reads port states, queues and latches alone. -/
theorem told_congr {s u t : State} {who : Agent → Bool} {n : Notice} (h : told u t who n) (hm : u.members = s.members)
    (hn : u.notices = s.notices) (hl : u.latches = s.latches) : told s t who n := by
  intro b
  have hb := h b
  obtain ⟨hnotices, hlatches⟩ := State.offer_notices_congr s u b n (by rw [hm]) (by rw [hn]) (by rw [hl])
  rw [hnotices, hlatches, hn, hl] at hb
  exact hb

theorem requiredSet_get (s : State) (p b : Agent) : (s.requiredSet p)[b] = s.requiredFor p b := by
  fin_cases b <;> rfl

theorem noAgents_get (b : Agent) : noAgents[b] = false := by revert b; decide

theorem requiredSet_eq_noAgents (s : State) (p : Agent) :
    s.requiredSet p = noAgents ↔ ∀ b, s.requiredFor p b = false := by
  refine ⟨fun h b => by rw [← requiredSet_get, h, noAgents_get], fun h => ?_⟩
  unfold State.requiredSet noAgents
  rw [h, h, h, h]

/-- R163: the state in which the offers of an opened proposal are made. -/
def State.opened (s : State) (p : Agent) (x : Table) : State :=
  { s with
    voting := some (s.newProposal p x), lastProposal := s.nextProposal, nextProposal := proposalAfter s.nextProposal }

theorem openProposal_open {s : State} {p : Agent} (x : Table) (h : ∃ b, s.requiredFor p b = true) :
    s.openProposal p x = (s.opened p x).offerAll (setMembers (s.requiredSet p)) (.proposalOpen p s.nextProposal) := by
  have hne : ¬ noAgents = s.requiredSet p := by
    intro e
    obtain ⟨b, hb⟩ := h
    rw [(requiredSet_eq_noAgents s p).mp e.symm b] at hb
    exact absurd hb (by simp)
  have hvoting : ((s.opened p x).offerAll (setMembers (s.requiredSet p)) (.proposalOpen p s.nextProposal)).voting =
      some (s.newProposal p x) := by simp [State.opened]
  show ((s.opened p x).offerAll _ _).testConsents = _
  unfold State.testConsents
  rw [hvoting]
  exact if_neg hne

theorem openProposal_alone {s : State} {p : Agent} (x : Table) (h : s.requiredSet p = noAgents) :
    s.openProposal p x = (s.opened p x).endRound (s.newProposal p x) .committed none := by
  have hnone : setMembers noAgents = [] := by decide
  show ((s.opened p x).offerAll (setMembers (s.requiredSet p)) _).testConsents = _
  rw [h, hnone]
  show (s.opened p x).testConsents = _
  exact if_pos h.symm

/-- R181: the slot that a committed table leaves (R170). -/
theorem slotCode_committed {s t : State} {v : Proposal} (h : committed s t v) (hfits : t.fits v.table = s.fits v.table) :
    slotCode t.slot = if s.fits v.table then 0x00 else 0x01 := by
  unfold committed at h
  rw [hfits] at h
  cases hf : s.fits v.table with
  | true =>
    rw [hf] at h
    obtain ⟨-, hslot, -⟩ := h
    rw [hslot]
    rfl
  | false =>
    rw [hf] at h
    obtain ⟨hslot, -⟩ := h
    rw [hslot]
    rfl

/-- A response leaves what it does not frame. -/
theorem respond_frame {w f : State} (h : w = f) (p : Agent) (code : Byte) (len : Nat) (r : Result) (data : List Byte)
    (tag : Option Half) : w.respond p code len r data tag = { f with frames := (w.respond p code len r data tag).frames } := by
  subst h
  rfl

/-- R168, R170: a round that commits, with what a response says of it. -/
theorem endRound_commits {s u w : State} (v : Proposal) (hu : u = { s with
      voting := u.voting, lastProposal := u.lastProposal, nextProposal := u.nextProposal })
    (hw : u.endRound v .committed none = w) :
    w.voting = none ∧ committed s w v ∧ (∀ b : Agent, commitTold s w v [] [] b) ∧
      slotCode w.slot = (if s.fits v.table then 0x00 else 0x01) ∧ w.frames = s.frames := by
  subst hw
  obtain ⟨hcommitted, htold⟩ := endRound_committed
    { s with lastProposal := u.lastProposal, nextProposal := u.nextProposal } u v hu
  have hused : u.used = s.used := by rw [hu]
  have hinUse : u.inUse = s.inUse := by rw [hu]
  have hframes : u.frames = s.frames := by rw [hu]
  refine ⟨endRound_voting u v _ _, hcommitted, fun b => ?_,
    slotCode_committed hcommitted (fits_congr s _ v.table (by simp [hused]) (by simp [hinUse])), by simp [hframes]⟩
  obtain ⟨hoffers, heval⟩ := htold b
  exact ⟨toldEach_of_eq hoffers rfl rfl rfl rfl rfl, heval⟩

/-- Settles O40: `valid_iff`, then the outcomes in the order of R162 and R163. -/
theorem proposeOpensARound : Obligations.ProposeOpensARound := by
  refine ⟨valid_iff, fun s p image ⟨⟨hq, ho⟩, hs⟩ hp hlen => ?_⟩
  have hexec : exec (.propose p image) s = .next (s.answerPropose p image) := quiet_next hq (·.answerPropose p image)
  have hbody : s.answerPropose p image = s.proposeBy p (tableOfImage image) :=
    (if_pos hlen).trans (State.transact_active ho hs hp _ _ _)
  rw [hbody] at hexec
  set x := tableOfImage image with hx
  refine ⟨_, hexec, fun hbad => ?invalid, fun hgood hvoting => ?busy, fun hgood hvoting => ?_⟩
  case invalid =>
    have h : s.proposeBy p x = s.respond p codePropose 39 .invalidTable [] none := if_pos (by simp [hbad])
    rw [h]
    exact ⟨respond_answers s s p _ _ _ _ _ rfl, rfl⟩
  case busy =>
    have h : s.proposeBy p x = s.respond p codePropose 39 .busy [] none :=
      (if_neg (by simp [hgood])).trans (if_pos (Option.isSome_iff_ne_none.mpr hvoting))
    rw [h]
    exact ⟨respond_answers s s p _ _ _ _ _ rfl, rfl⟩
  have h : s.proposeBy p x = (s.openProposal p x).respond p codePropose 39 .ok
      [s.nextProposal, roundStateCode (s.openProposal p x).voting, slotCode (s.openProposal p x).slot] none :=
    (if_neg (by simp [hgood])).trans (if_neg (by simp [hvoting]))
  rw [h]
  refine ⟨by simp [State.openProposal], by simp [State.openProposal, proposalAfter], fun hsome => ?opened,
    fun hnone => ?alone⟩
  case opened =>
    rw [openProposal_open x hsome]
    set u := (s.opened p x).offerAll (setMembers (s.requiredSet p)) (.proposalOpen p s.nextProposal) with hu
    have huv : u.voting = some (s.newProposal p x) := by simp [hu, State.opened]
    have hcodes : [s.nextProposal, roundStateCode u.voting, slotCode u.slot] =
        [s.nextProposal, 0x01, if s.slot = none then 0 else 1] := by
      rw [huv, ← slotCode_eq]
      simp [hu, State.opened, roundStateCode, codeVotingOpen]
    have hmem (b : Agent) : (decide (b ≠ p) && decide ((s.members[b]).state = .active)) = true ↔
        b ∈ setMembers (s.requiredSet p) := by
      rw [setMembers, mem_agents_filter, requiredSet_get]
      rfl
    refine ⟨⟨s.newProposal p x, huv, rfl, rfl, rfl, fun b => ⟨requiredSet_get s p b, noAgents_get b⟩, rfl⟩, ?_, ?_, ?_⟩
    · exact told_congr (offerAll_told (s.opened p x) _ _ _ _ (agents_filter_nodup _) hmem rfl rfl) rfl rfl rfl
    · rw [hcodes]
      exact respond_answers s u p _ _ _ _ _ (by simp [hu, State.opened])
    · apply State.ext_fields <;> simp [hu, State.opened]
  case alone =>
    have hreq := (requiredSet_eq_noAgents s p).mpr hnone
    rw [openProposal_alone x hreq]
    set v : Proposal := ⟨s.nextProposal, p, x, noAgents, noAgents, s.table.window⟩ with hv
    have hnew : s.newProposal p x = v := by rw [State.newProposal, hreq]
    have hframe := State.endRound_frame (s.opened p x) (s.newProposal p x) .committed none
    generalize hw : (s.opened p x).endRound (s.newProposal p x) .committed none = w at hframe
    rw [hnew] at hw
    obtain ⟨hclosed, hcommitted, htold, hslot, hframes⟩ := endRound_commits (s := s) v rfl hw
    rw [hclosed, hslot]
    refine ⟨hclosed, ⟨hcommitted, htold, respond_answers s w p _ _ _ _ _ hframes⟩, ?_⟩
    have hlast : w.lastProposal = (s.opened p x).lastProposal := by rw [hframe]
    have hnext : w.nextProposal = (s.opened p x).nextProposal := by rw [hframe]
    rw [hclosed, ← hvoting, ← hlast, ← hnext] at hframe
    exact respond_frame hframe p _ _ _ _ _

/-! ## CONSENT and VETO (R164, R165) -/

theorem namedProposal_none {s : State} {num : Byte} (h : ∀ v, s.voting = some v → v.number ≠ num) :
    s.namedProposal num = none := by
  unfold State.namedProposal
  cases hv : s.voting with
  | none => rfl
  | some v => exact if_neg (h v hv)

theorem namedProposal_some {s : State} {num : Byte} {v : Proposal} (hv : s.voting = some v) (hnum : v.number = num) :
    s.namedProposal num = some v := by
  unfold State.namedProposal
  rw [hv]
  exact if_pos hnum

/-- Settles O41. -/
theorem consentIsRecordedOrCommits : Obligations.ConsentIsRecordedOrCommits := by
  intro s p num ⟨⟨hq, ho⟩, hs⟩ hp
  have hexec : exec (.consent p num) s = .next (s.answerConsent p num) := quiet_next hq (·.answerConsent p num)
  have hbody : s.answerConsent p num = s.consentBy p num := State.transact_active ho hs hp _ _ _
  rw [hbody] at hexec
  refine ⟨_, hexec, fun hstale => ?_, fun v hv hnum => ?_⟩
  · unfold State.consentBy
    rw [namedProposal_none hstale]
    exact ⟨respond_answers s s p _ _ _ _ _ rfl, rfl⟩
  have hnamed := namedProposal_some hv hnum
  have hby (u : State) (h : (if v.consented[p] then s else s.addConsent p v) = u) (hr : v.required[p] = true) :
      s.consentBy p num = u.respond p codeConsent 2 .ok [roundStateCode u.voting, slotCode u.slot] none := by
    unfold State.consentBy
    rw [hnamed, ← h]
    exact if_neg (by simp [hr])
  refine ⟨fun hr => ?outsider, fun hr hc => ?again, fun hr hc hmore => ?recorded, fun hr hc hall => ?complete⟩
  case outsider =>
    have h : s.consentBy p num = s.respond p codeConsent 2 .notRequired [] none := by
      unfold State.consentBy
      rw [hnamed]
      exact if_pos (by simp [hr])
    rw [h]
    exact ⟨respond_answers s s p _ _ _ _ _ rfl, rfl⟩
  case again =>
    have hcode : roundStateCode s.voting = 0x01 := by rw [hv]; rfl
    rw [hby s (if_pos hc) hr, hcode, slotCode_eq]
    exact ⟨respond_answers s s p _ _ _ _ _ rfl, rfl⟩
  case recorded =>
    have hadd : s.addConsent p v = { s with voting := some { v with consented := v.consented.set p true } } :=
      if_neg hmore
    rw [hby _ (if_neg (by simp [hc])) hr, hadd]
    refine ⟨rfl, ?_, rfl⟩
    rw [← slotCode_eq]
    exact respond_answers s _ p _ _ _ _ _ rfl
  case complete =>
    set v' : Proposal := { v with consented := v.consented.set p true } with hv'
    have hadd : s.addConsent p v = ({ s with voting := some v' } : State).endRound v' .committed none := if_pos hall
    have hframe := State.endRound_frame { s with voting := some v' } v' .committed none
    generalize hw : ({ s with voting := some v' } : State).endRound v' .committed none = w at hadd hframe
    obtain ⟨hclosed, hcommitted, htold, hslot, hframes⟩ := endRound_commits (s := s) v' rfl hw
    rw [hby w ((if_neg (by simp [hc])).trans hadd) hr, hclosed, hslot]
    exact ⟨hclosed, hcommitted, htold, respond_answers s w p _ _ _ _ _ hframes,
      respond_frame hframe p _ _ _ _ _⟩

/-- R165: a VETO that ends the round. -/
theorem veto_ends {s : State} {p : Agent} {num : Byte} {v : Proposal} {o : RoundOutcome} (ho : o ≠ .committed)
    (hnum : v.number = num)
    (h : s.vetoBy p num = (s.endRound v o (some p)).respond p codeVeto 2 .ok [o.code] none) :
    answers s (s.vetoBy p num) p codeVeto 2 .ok none [o.code] ∧ (s.vetoBy p num).voting = none ∧
      told s (s.vetoBy p num) (fun b => b = v.proposer || v.required[b]) (.proposalClosed (some p) num o) ∧
      s.vetoBy p num = { s with
        voting := none, notices := (s.vetoBy p num).notices, latches := (s.vetoBy p num).latches
        frames := (s.vetoBy p num).frames } := by
  obtain ⟨htold, hframe⟩ := endRound_told s v (some p) ho
  have hvoting := endRound_voting s v o (some p)
  have hframes : (s.endRound v o (some p)).frames = s.frames := by simp
  generalize s.endRound v o (some p) = w at h htold hframe hvoting hframes
  rw [h, ← hnum]
  exact ⟨respond_answers s w p _ _ _ _ _ hframes, hvoting, htold, respond_frame hframe p _ _ _ _ _⟩

/-- Settles O42. -/
theorem vetoEndsTheRound : Obligations.VetoEndsTheRound := by
  intro s p num ⟨⟨hq, ho⟩, hs⟩ hp
  have hexec : exec (.veto p num) s = .next (s.answerVeto p num) := quiet_next hq (·.answerVeto p num)
  have hbody : s.answerVeto p num = s.vetoBy p num := State.transact_active ho hs hp _ _ _
  rw [hbody] at hexec
  refine ⟨_, hexec, fun hstale => ?stale, fun v hv hnum => ?_⟩
  case stale =>
    unfold State.vetoBy
    rw [namedProposal_none hstale]
    exact ⟨respond_answers s s p _ _ _ _ _ rfl, rfl⟩
  have hnamed := namedProposal_some hv hnum
  have hby : s.vetoBy p num = if v.required[p] then
      (s.endRound v .rejected (some p)).respond p codeVeto 2 .ok [RoundOutcome.rejected.code] none
    else if v.proposer = p then
      (s.endRound v .withdrawn (some p)).respond p codeVeto 2 .ok [RoundOutcome.withdrawn.code] none
    else s.respond p codeVeto 2 .notRequired [] none := by
    unfold State.vetoBy
    rw [hnamed]
  by_cases hr : v.required[p] = true
  · obtain ⟨hanswers, hvoting, htold, hframe⟩ := veto_ends RoundOutcome.noConfusion hnum (hby.trans (if_pos hr))
    refine ⟨fun _ => ⟨hanswers, hvoting, htold⟩, fun h => absurd hr (by simp [h]), fun h => absurd hr (by simp [h]), ?_⟩
    rw [hvoting]
    exact hframe
  rw [if_neg hr] at hby
  by_cases hself : v.proposer = p
  · obtain ⟨hanswers, hvoting, htold, hframe⟩ := veto_ends RoundOutcome.noConfusion hnum (hby.trans (if_pos hself))
    refine ⟨fun h => absurd h hr, fun _ _ => ⟨hanswers, hvoting, htold⟩, fun _ h => absurd hself h, ?_⟩
    rw [hvoting]
    exact hframe
  · rw [hby.trans (if_neg hself)]
    exact ⟨fun h => absurd h hr, fun _ h => absurd h hself, fun _ _ => ⟨respond_answers s s p _ _ _ _ _ rfl, rfl⟩, rfl⟩

end Sys2Proof.Machine

/-! The edges of CSN (O10, O11) and the end of a staging (O22, O23). -/

namespace Sys2Proof.Machine

/-! ## The edges of CSN -/

/-- A readout that ends inside its OVERRUN record (R151). -/
theorem unlatch_latched {s : State} {p : Agent} {l : OverrunLatch} {q : List Notice} {n : Nat}
    (hl : s.latches[p] = some l) (hq : s.notices[p] = q ++ [.overrun n]) :
    s.unlatch p = (s.setNotices p (q ++ [.overrun (min 255 (l.latched + l.since))])).setLatch p none := by
  have hlast : mapLast (withOverrunCount (min Config.overrunMax (l.latched + l.since))) s.notices[p] =
      q ++ [.overrun (min 255 (l.latched + l.since))] := by
    rw [hq, mapLast_append]
    rfl
  rw [← hlast]
  unfold State.unlatch
  rw [hl]

theorem unlatch_none {s : State} {p : Agent} (h : s.latches[p] = none) : s.unlatch p = s := by
  unfold State.unlatch
  rw [h]

theorem unlatch_other (s : State) {p b : Agent} (h : b ≠ p) :
    (s.unlatch p).notices[b] = s.notices[b] ∧ (s.unlatch p).latches[b] = s.latches[b] := by
  unfold State.unlatch
  split
  · exact ⟨rfl, rfl⟩
  · exact ⟨vec_get_set_ne _ _ _ _ (Ne.symm h), vec_get_set_ne _ _ _ _ (Ne.symm h)⟩

theorem raiseCsn_low {s : State} {p : Agent} (hr : s.rstnLow = false) (hc : (s.frames[p]).csnLow = true) :
    s.raiseCsn p = ((s.cutStaging p).unlatch p).idlePort p :=
  (if_neg (by simp [-Fin.getElem_fin, hc])).trans (if_neg (by simp [hr]))

/-- Settles O10. -/
theorem csnEdgesStartAndEndTransactions : Obligations.CsnEdgesStartAndEndTransactions := by
  intro s p hq
  have hfall : exec (.csnFall p) s = .next (s.fallCsn p) := quiet_next hq (·.fallCsn p)
  have hrise : exec (.csnRise p) s = .next (s.raiseCsn p) := quiet_next hq (·.raiseCsn p)
  refine ⟨fun hc => ?low, fun hc => ⟨_, hfall, fun q hqp => ?other, State.fallCsn_frame s p, fun hr => ?reset,
    fun hr hi => ?start⟩, fun hr hc hst => ?rise⟩
  case low =>
    rw [hfall]
    exact congrArg _ (if_pos hc)
  case other =>
    unfold State.fallCsn
    dsimp only
    repeat' split
    all_goals first | rfl | exact vec_get_set_ne _ _ _ _ (Ne.symm hqp)
  case reset =>
    have h : s.fallCsn p = s.setFrame p { s.frames[p] with csnLow := true } :=
      (if_neg (by simp [-Fin.getElem_fin, hc])).trans (if_pos hr)
    rw [h]
    exact vec_get_set_same _ _ _
  case start =>
    have h : s.fallCsn p = s.setFrame p ⟨true, .request, 0, none, (s.frames[p]).last, [], 0, 0, 0, [], false⟩ := by
      refine (if_neg (by simp [-Fin.getElem_fin, hc])).trans ((if_neg (by simp [hr])).trans ?_)
      rw [hi]
    rw [h]
    exact vec_get_set_same _ _ _
  case rise =>
    have hcut : s.cutStaging p = s := by
      unfold State.cutStaging
      rw [hst]
    rw [raiseCsn_low hr hc, hcut] at hrise
    refine ⟨_, hrise, ?_, fun q hqp => ?_, fun hl => ?_, fun l q n hl hn => ?_, fun b hb => unlatch_other s hb, ?_⟩
    · refine (vec_get_set_same _ _ _).trans ?_
      simp
    · refine (vec_get_set_ne _ _ _ _ (Ne.symm hqp)).trans ?_
      simp [-Fin.getElem_fin]
    · rw [unlatch_none hl]
      exact ⟨rfl, rfl⟩
    · rw [unlatch_latched hl hn]
      exact ⟨vec_get_set_same _ _ _, vec_get_set_same _ _ _⟩
    · apply State.ext_fields <;> simp

/-! ## The release of a staged message, and the transaction that ends with it -/

/-- A release whose notices have been told stays so where framing alone changes, and another agent's queue. -/
theorem releaseTold_after {s t u : State} {left : Option Agent} {first : List Notice} {b : Agent}
    (h : releaseTold s t left first b) (hn : u.notices[b] = t.notices[b]) (hl : u.latches[b] = t.latches[b])
    (hw : u.watches = t.watches) (ht : u.table = t.table) (hs : u.slot = t.slot) (he : u.epoch = t.epoch)
    (hu : u.used = t.used) (hi : u.inUse = t.inUse) : releaseTold s u left first b := by
  have hfits (x : Table) : u.fits x = t.fits x := fits_congr t u x hu hi
  have happlies : s.appliesTo u = s.appliesTo t := by simp only [State.appliesTo, hfits]
  have hconfig : u.configNotice true = t.configNotice true := by simp only [State.configNotice, he]
  obtain ⟨hcredits, hleft⟩ := credits_congr (s := s) (s' := s) b rfl ht hs hu
  have htold {ns : List Notice} (hx : toldEach s t b ns) : toldEach s u b ns := toldEach_of_eq hx rfl rfl rfl hn hl
  unfold releaseTold at h ⊢
  rw [happlies]
  split_ifs at h ⊢ with hgone happly
  · rw [hn, hl, hw]
    exact h
  · obtain ⟨hoffers, heval⟩ := h
    refine ⟨?_, fun k => ?_⟩
    · rw [hcredits, hconfig]
      exact htold hoffers
    · rw [hw, hleft]
      exact heval k
  · rw [hw]
    exact ⟨htold h.1, h.2⟩

/-- An offer latches no count. -/
theorem offer_latch_none {s : State} {a : Agent} (n : Notice) (h : s.latches[a] = none) :
    (s.offer a n).latches[a] = none := by
  unfold State.offer
  split
  · split
    · unfold State.foldOffer
      rw [h]
      exact h
    · split <;> exact h
  · exact h

theorem toldEach_latch_none {s t : State} {b : Agent} {ns : List Notice} (h : toldEach s t b ns)
    (hl : s.latches[b] = none) : t.latches[b] = none := by
  have hoffers (ns : List Notice) (u : State) (hu : u.latches[b] = none) :
      (u.offerEach (ns.map (fun n => (b, n)))).latches[b] = none := by
    induction ns generalizing u with
    | nil => exact hu
    | cons n rest ih => exact ih (u.offer b n) (offer_latch_none n hu)
  exact h.2.trans (hoffers ns s hl)

theorem releaseTold_latch_none {s t : State} {first : List Notice} {b : Agent} (h : releaseTold s t none first b)
    (hl : s.latches[b] = none) : t.latches[b] = none := by
  unfold releaseTold at h
  rw [if_neg (by simp)] at h
  split at h
  · exact toldEach_latch_none h.1 hl
  · exact toldEach_latch_none h.1 hl

/-- Settles O11. -/
theorem csnRiseCutsStaging : Obligations.CsnRiseCutsStaging := by
  intro s p c m hq hr hc hst hd
  have hrise : exec (.csnRise p) s = .next (s.raiseCsn p) := quiet_next hq (·.raiseCsn p)
  set w := (s.dropRecord c.desc m).runFitTest with hw
  have hcut : s.cutStaging p = (w.setStaging p none).record p codePost .cut none := by
    unfold State.cutStaging
    rw [hst]
    exact congrArg (fun u : State => (u.setStaging p none).record p codePost .cut none)
      (release_staging s c.desc m .unadmitted hd)
  rw [raiseCsn_low hr hc, hcut] at hrise
  obtain ⟨hfit, htold⟩ := drop_told s c.desc m
  rw [← hw] at hfit htold
  have hdropped : dropped s w c.desc m :=
    dropped_congr (dropRecord_dropped s c.desc m) (by simp [hw]) (by simp [hw]) (by simp [hw]) (by simp [hw])
      (by simp [hw]) (by simp [hw])
  have hframes : w.frames = s.frames := by simp [hw]
  set u := (w.setStaging p none).record p codePost .cut none with hu
  refine ⟨_, hrise, ?_, ?_, fun q hqp => ?_, ?_, fun q hqp => ?_, ?_, fun b hb => ?_, ?_⟩
  · exact dropped_congr hdropped (by simp [hu]) (by simp [hu]) (by simp [hu]) (by simp [hu]) (by simp [hu]) (by simp [hu])
  · simp [hu]
  · have hother : ((u.unlatch p).idlePort p).stagings = s.stagings.set p none := by simp [hu, hw]
    rw [hother]
    exact vec_get_set_ne _ _ _ _ (Ne.symm hqp)
  · have hlast : (u.unlatch p).frames[p] = { s.frames[p] with last := some ⟨codePost, .cut, none⟩ } := by
      simp [-Fin.getElem_fin, hu, State.record, hframes]
    refine (vec_get_set_same _ _ _).trans ?_
    rw [hlast]
  · have hother : (u.unlatch p).frames[q] = s.frames[q] := by
      simp only [State.unlatch_untouched]
      exact (vec_get_set_ne _ _ _ _ (Ne.symm hqp)).trans (by simp [-Fin.getElem_fin, hframes])
    exact (vec_get_set_ne _ _ _ _ (Ne.symm hqp)).trans hother
  · exact fitTested_congr hfit rfl rfl rfl rfl rfl rfl (by simp [hu]) (by simp [hu]) (by simp [hu]) (by simp [hu])
      (by simp [hu]) (by simp [hu]) (by simp [hu]) (by simp [hu])
  · have hkept : ((u.unlatch p).idlePort p).notices[b] = w.notices[b] ∧
        ((u.unlatch p).idlePort p).latches[b] = w.latches[b] := by
      by_cases hbp : b = p
      · subst hbp
        have hl : u.latches[b] = none := releaseTold_latch_none (htold b) (hb.resolve_left (fun h => h rfl))
        rw [unlatch_none hl]
        exact ⟨rfl, rfl⟩
      · exact unlatch_other u hbp
    exact releaseTold_after (htold b) hkept.1 hkept.2 (by simp [hu]) (by simp [hu]) (by simp [hu]) (by simp [hu])
      (by simp [hu]) (by simp [hu])
  · apply State.ext_fields <;> simp [hu, hw]

/-! ## The last check byte (R63) -/

theorem loadedStaging_some {s : State} {p : Agent} {c : StagingContext} {m : Message} (hr : s.rstnLow = false)
    (hc : s.stagings[p] = some c) (hd : s.descs[c.desc] = .staging m) : s.loadedStaging p = some (c, m) := by
  unfold State.loadedStaging
  rw [if_neg (by simp [hr]), hc]
  dsimp only
  rw [hd]

/-- R63: the check of a staging whose last check byte comes. -/
theorem takeLastCheck_of {s : State} {p : Agent} {c : StagingContext} {m : Message} {hi b : Byte} (hr : s.rstnLow = false)
    (hc : s.stagings[p] = some c) (hd : s.descs[c.desc] = .staging m) (hcorr : c.corrToCome = 0)
    (hlen : m.length ≤ c.payloadReceived) (hone : c.checkReceived = 1) (hhi : c.checkHigh = some hi) :
    s.takeLastCheck p b = if half hi b ≠ c.checkRegister then s.endStaging p c .badcheck
      else if (s.members[m.dest]).state ≠ .active then s.endStaging p c .peerGone else s.admitStaging p c m := by
  have hat : c.atLastCheck m = true := by simp [StagingContext.atLastCheck, hcorr, hone, hlen]
  unfold State.takeLastCheck
  rw [loadedStaging_some hr hc hd]
  dsimp only
  rw [if_neg (by simp [hat]), hhi]
  rfl

/-- Settles O22. -/
theorem lastCheckByteRefuses : Obligations.LastCheckByteRefuses := by
  intro s p c m hi b r hq hr hc hd hcorr hlen hone hhi hbad
  have hexec : exec (.postLastCheckByte p b) s = .next (s.takeLastCheck p b) := quiet_next hq (·.takeLastCheck p b)
  have hend : s.takeLastCheck p b = s.endStaging p c r := by
    rw [takeLastCheck_of hr hc hd hcorr hlen hone hhi]
    rcases hbad with ⟨hne, rfl⟩ | ⟨heq, hgone, rfl⟩
    · exact if_pos hne
    · exact (if_neg (not_not.mpr heq)).trans (if_pos hgone)
  set w := (s.dropRecord c.desc m).runFitTest with hw
  have hbody : s.endStaging p c r = (w.setStaging p none).respond p codePost ((s.frames[p]).bytePos + 1) r [] none :=
    congrArg (fun u : State => (u.setStaging p none).respond p codePost ((s.frames[p]).bytePos + 1) r [] none)
      (release_staging s c.desc m .unadmitted hd)
  rw [hend, hbody] at hexec
  obtain ⟨hfit, htold⟩ := drop_told s c.desc m
  rw [← hw] at hfit htold
  have hdropped : dropped s w c.desc m :=
    dropped_congr (dropRecord_dropped s c.desc m) (by simp [hw]) (by simp [hw]) (by simp [hw]) (by simp [hw])
      (by simp [hw]) (by simp [hw])
  have hstagings : w.stagings = s.stagings := by simp [hw]
  have hframes : w.frames = s.frames := by simp [hw]
  refine ⟨_, hexec, hdropped, vec_get_set_same _ _ _, fun q hqp => ?_, respond_answers s _ p _ _ _ _ _ hframes, hfit, htold,
    ?_⟩
  · exact (vec_get_set_ne _ _ _ _ (Ne.symm hqp)).trans (by rw [hstagings])
  · apply State.ext_fields <;> simp [hw]

/-- Settles O23. -/
theorem lastCheckByteAdmits : Obligations.LastCheckByteAdmits := by
  intro s p c m hi b hq hr hc hd hcorr hlen hone hhi hcheck hactive
  have hexec : exec (.postLastCheckByte p b) s = .next (s.takeLastCheck p b) := quiet_next hq (·.takeLastCheck p b)
  have hend : s.takeLastCheck p b = s.admitStaging p c m := by
    rw [takeLastCheck_of hr hc hd hcorr hlen hone hhi, if_neg (not_not.mpr hcheck), if_neg (not_not.mpr hactive)]
  rw [hend] at hexec
  unfold State.admitStaging at hexec
  dsimp only at hexec ⊢
  generalize s.assignTag m.source = tag at hexec ⊢
  set w := s.admitMessage c.desc m tag with hw
  have hdescs : w.descs = s.descs.set c.desc (.queued m ⟨tag, s.ticks⟩) := rfl
  have hqueues : w.queues = (s.setQueue m.dest m.cls ((s.queues[m.dest]).get m.cls ++ [c.desc])).queues := rfl
  have hnext : w.nextTag = s.nextTag.set m.source (tagAfter tag) := rfl
  have hstagings : w.stagings = s.stagings := rfl
  have hframes : w.frames = s.frames := rfl
  have hframe : w = { s with
      descs := w.descs, queues := w.queues, nextTag := w.nextTag, stagings := w.stagings } := rfl
  clear_value w
  refine ⟨_, hexec, ⟨?_, fun y hy => ?_, ?_, fun a k hak => ?_, ?_, fun a ha => ?_, vec_get_set_same _ _ _,
    fun q hqp => ?_, respond_answers s _ p _ _ _ _ _ hframes⟩, ?_⟩
  · exact (congrArg (·[c.desc]) hdescs).trans (vec_get_set_same _ _ _)
  · exact (congrArg (·[y]) hdescs).trans (vec_get_set_ne _ _ _ _ (Ne.symm hy))
  · refine (congrArg (fun v => (v[m.dest]).get m.cls) hqueues).trans ?_
    exact (setQueue_get s m.dest m.dest m.cls m.cls _).trans (if_pos ⟨rfl, rfl⟩)
  · refine (congrArg (fun v => (v[a]).get k) hqueues).trans ?_
    exact (setQueue_get s m.dest a m.cls k _).trans (if_neg (fun h => hak.elim (· h.1.symm) (· h.2.symm)))
  · exact (congrArg (·[m.source]) hnext).trans (vec_get_set_same _ _ _)
  · exact (congrArg (·[a]) hnext).trans (vec_get_set_ne _ _ _ _ (Ne.symm ha))
  · exact (vec_get_set_ne _ _ _ _ (Ne.symm hqp)).trans (by rw [hstagings])
  · have hset : w.setStaging p none = { s with
        descs := w.descs, queues := w.queues, nextTag := w.nextTag, stagings := w.stagings.set p none } :=
      congrArg (State.setStaging · p none) hframe
    exact respond_frame hset p _ _ _ _ _

end Sys2Proof.Machine

/-! The header of a POST, judged and staged (O19, O20), and the staged bytes (O21, O25). -/

namespace Sys2Proof.Machine

/-! ## The steps of the judgement (R52) -/

/-- A reserved flag bit is 1 exactly where the test of R52 step 3 sees one. -/
theorem reservedFlagSet_iff (flags : Byte) :
    reservedFlagSet flags = true ↔ ∃ i : Nat, 2 ≤ i ∧ i ≤ 7 ∧ flags.getLsbD i = true := by
  have hbits : reservedFlagSet flags = false ↔ ∀ j, j < 6 → flags.getLsbD (2 + j) = false := by
    unfold reservedFlagSet
    rw [bne_eq_false_iff_eq, BitVec.eq_of_getLsbD_eq_iff]
    refine forall₂_congr fun j hj => ?_
    rw [BitVec.getLsbD_extractLsb', decide_eq_true hj, Bool.true_and]
    exact Iff.of_eq (congrArg _ BitVec.getLsbD_zero)
  rw [← not_iff_not, Bool.not_eq_true, hbits]
  refine ⟨fun h => ?_, fun h j hj => ?_⟩
  · rintro ⟨i, h2, h7, hi⟩
    have := h (i - 2) (by omega)
    rw [Nat.add_sub_cancel' h2, hi] at this
    exact absurd this (by simp)
  · exact Bool.eq_false_iff.mpr fun hi => h ⟨2 + j, by omega, by omega, hi⟩

theorem judgeHeader_badarg {s : State} {p : Agent} {dest cls flags : Byte} {len : Nat}
    (h : reservedFlagSet flags = true ∨ 2 < cls.toNat) : s.judgeHeader p dest cls flags len = .refused .badarg := by
  unfold State.judgeHeader
  cases hc : classOfCode cls with
  | none => rfl
  | some k =>
    have hcls : ¬ 2 < cls.toNat := fun e => by simp [(classOfCode_eq_none cls).mpr e] at hc
    exact if_pos (h.resolve_right hcls)

/-- The judgement of a header whose flags and class pass (R52 steps 4 to 8). -/
theorem judgeHeader_class {s : State} {p : Agent} {dest cls flags : Byte} {len : Nat} {k : MsgClass}
    (hf : reservedFlagSet flags = false) (hk : classOfCode cls = some k) :
    s.judgeHeader p dest cls flags len =
      match agentOfCode dest with
      | none => .refused .baddest
      | some d =>
        if d = p then .refused .baddest
        else if len = 0 || maxLength k < len then .refused .badlen
        else
          match s.refuseDest d with
          | some r => .refused r
          | none => s.judgeRoom p d k flags len := by
  unfold State.judgeHeader
  rw [hk]
  exact if_neg (by simp [hf])

theorem judgeHeader_baddest {s : State} {p : Agent} {dest cls flags : Byte} {len : Nat} {k : MsgClass}
    (hf : reservedFlagSet flags = false) (hk : classOfCode cls = some k) (hd : 3 < dest.toNat ∨ dest.toNat = p.val) :
    s.judgeHeader p dest cls flags len = .refused .baddest := by
  rw [judgeHeader_class hf hk]
  cases hc : agentOfCode dest with
  | none => rfl
  | some d =>
    have hval := (agentOfCode_eq_some dest d).mp hc
    have hle := d.isLt
    exact if_pos (Fin.ext (by omega))

/-- The judgement of a header whose flags, class and destination pass (R52 steps 5 to 8). -/
theorem judgeHeader_dest {s : State} {p d : Agent} {dest cls flags : Byte} {len : Nat} {k : MsgClass}
    (hf : reservedFlagSet flags = false) (hk : classOfCode cls = some k) (hd : agentOfCode dest = some d) (hp : d ≠ p) :
    s.judgeHeader p dest cls flags len =
      if len = 0 || maxLength k < len then .refused .badlen
      else
        match s.refuseDest d with
        | some r => .refused r
        | none => s.judgeRoom p d k flags len := by
  rw [judgeHeader_class hf hk, hd]
  exact if_neg hp

theorem judgeHeader_badlen {s : State} {p d : Agent} {dest cls flags : Byte} {len : Nat} {k : MsgClass}
    (hf : reservedFlagSet flags = false) (hk : classOfCode cls = some k) (hd : agentOfCode dest = some d) (hp : d ≠ p)
    (hlen : len = 0 ∨ maxLength k < len) : s.judgeHeader p dest cls flags len = .refused .badlen := by
  rw [judgeHeader_dest hf hk hd hp]
  exact if_pos (by simpa using hlen)

theorem judgeHeader_absent {s : State} {p d : Agent} {dest cls flags : Byte} {len : Nat} {k : MsgClass} {r : Result}
    (hf : reservedFlagSet flags = false) (hk : classOfCode cls = some k) (hd : agentOfCode dest = some d) (hp : d ≠ p)
    (hpos : 0 < len) (hle : len ≤ maxLength k) (hr : s.refuseDest d = some r) :
    s.judgeHeader p dest cls flags len = .refused r := by
  rw [judgeHeader_dest hf hk hd hp, if_neg (by simp; omega), hr]

theorem judgeHeader_room {s : State} {p d : Agent} {dest cls flags : Byte} {len : Nat} {k : MsgClass}
    (hf : reservedFlagSet flags = false) (hk : classOfCode cls = some k) (hd : agentOfCode dest = some d) (hp : d ≠ p)
    (hpos : 0 < len) (hle : len ≤ maxLength k) (hactive : s.portIs d .active) :
    s.judgeHeader p dest cls flags len = s.judgeRoom p d k flags len := by
  have hr : s.refuseDest d = none := by
    unfold State.refuseDest
    rw [hactive]
  rw [judgeHeader_dest hf hk hd hp, if_neg (by simp; omega), hr]

/-! ### Descriptor and credit (R52 steps 7 and 8) -/

theorem freeDesc_eq_some {s : State} {x : DescId} :
    s.freeDesc = some x ↔ s.descs[x] = .free ∧ ∀ y : DescId, y < x → s.descs[y] ≠ .free := by
  unfold State.freeDesc
  rw [← Fin.find?_eq_find?_finRange, Fin.find?_eq_some_iff]
  simp

theorem freeDesc_eq_none {s : State} : s.freeDesc = none ↔ ∀ x : DescId, s.descs[x] ≠ .free := by
  unfold State.freeDesc
  simp

theorem atDescLimit_iff (s : State) (p : Agent) :
    s.atDescLimit p = true ↔ s.table.descLimit[p] ≤ s.inUse[p] ∨
      ∃ h, s.slot = some h ∧ h.table.descLimit[p] ≤ s.inUse[p] := by
  unfold State.atDescLimit
  cases s.slot <;> simp

theorem judgeRoom_noSlot {s : State} {p d : Agent} {k : MsgClass} {flags : Byte} {len : Nat}
    (h : s.freeDesc = none ∨ s.atDescLimit p = true) : s.judgeRoom p d k flags len = .refused .noSlot := by
  unfold State.judgeRoom
  cases hd : s.freeDesc with
  | none => rfl
  | some x => exact if_pos (h.resolve_left (by simp [hd]))

theorem judgeRoom_credit {s : State} {p d : Agent} {k : MsgClass} {flags : Byte} {len : Nat} {x : DescId}
    (hx : s.freeDesc = some x) (hl : s.atDescLimit p = false) :
    s.judgeRoom p d k flags len =
      match s.judgeCredit p k (cellsFor len) with
      | none => .refused .noCredit
      | some c => .accepted x (s.stagedMessage p d k flags len c) := by
  unfold State.judgeRoom
  rw [hx]
  exact if_neg (by simp [hl])

/-- The answer to a header past the caller-state check. -/
theorem State.answerHeader_active {s : State} {p : Agent} (ho : s.requestOpen p = true) (hs : s.starting = false)
    (hp : s.portIs p .active) (dest cls flags : Byte) (len : Half) :
    s.answerHeader p dest cls flags len =
      match s.judgeHeader p dest cls flags len.toNat with
      | .refused r => s.respond p codePost 6 r [] none
      | .accepted d m => s.stage p d m flags := State.transact_active ho hs hp _ _ _

/-- Settles O19. -/
theorem headerIsRefusedAtItsFirstFailingStep : Obligations.HeaderIsRefusedAtItsFirstFailingStep := by
  intro s p dest cls flags len ⟨⟨hq, ho⟩, hs⟩ hp r hr
  have hexec : exec (.postHeader p dest cls flags len) s = .next (s.answerHeader p dest cls flags len) :=
    quiet_next hq (·.answerHeader p dest cls flags len)
  suffices hrefused : s.judgeHeader p dest cls flags len.toNat = .refused r by
    rw [State.answerHeader_active ho hs hp, hrefused] at hexec
    exact ⟨_, hexec, respond_answers s s p _ _ _ _ _ rfl, rfl⟩
  dsimp only at hr
  rw [← reservedFlagSet_iff, Bool.not_eq_true] at hr
  rcases hr with ⟨hbad, rfl⟩ | ⟨hf, hcls, hdest, rfl⟩ | ⟨k, d, hf, hk, hd, hne, hr⟩
  · exact judgeHeader_badarg hbad
  · obtain ⟨k, hk⟩ : ∃ k, classOfCode cls = some k :=
      Option.ne_none_iff_exists'.mp fun h => absurd ((classOfCode_eq_none cls).mp h) (Nat.not_lt.mpr hcls)
    exact judgeHeader_baddest hf hk hdest
  have hcls : classOfCode cls = some k := (classOfCode_eq_some cls k).mpr hk
  have hagent : agentOfCode dest = some d := (agentOfCode_eq_some dest d).mpr hd
  rcases hr with ⟨hlen, rfl⟩ | ⟨hpos, hle, hr⟩
  · exact judgeHeader_badlen hf hcls hagent hne hlen
  have habsent {r : Result} (h : s.refuseDest d = some r) : s.judgeHeader p dest cls flags len.toNat = .refused r :=
    judgeHeader_absent hf hcls hagent hne hpos hle h
  rcases hr with ⟨hoff | hfen, rfl⟩ | ⟨hclosing, rfl⟩ | ⟨hactive, hr⟩
  · exact habsent (by unfold State.refuseDest; rw [hoff])
  · exact habsent (by unfold State.refuseDest; rw [hfen])
  · exact habsent (by unfold State.refuseDest; rw [hclosing])
  rw [judgeHeader_room hf hcls hagent hne hpos hle hactive]
  rw [← freeDesc_eq_none, ← atDescLimit_iff] at hr
  rcases hr with ⟨hno, rfl⟩ | ⟨hyes, hcommon, hreserved, rfl⟩
  · exact judgeRoom_noSlot hno
  · obtain ⟨hsome, hlimit⟩ := not_or.mp hyes
    obtain ⟨x, hx⟩ := Option.ne_none_iff_exists'.mp hsome
    have hcredit : s.judgeCredit p k (cellsFor len.toNat) = none :=
      (if_neg (Nat.not_le.mpr hcommon)).trans (if_neg (Nat.not_le.mpr hreserved))
    rw [judgeRoom_credit hx (Bool.eq_false_iff.mpr hlimit), hcredit]

/-! ## The staging (R56) -/

theorem stage_frames (s : State) (p : Agent) (d : DescId) (m : Message) (flags : Byte) :
    (s.stage p d m flags).frames = s.frames.set p { s.frames[p] with
      bytePos := 6, opcode := some codePost, bitPos := 0, shiftIn := 0, received := [] } := by
  simp [-Fin.getElem_fin, State.stage]

/-- R21: the watches are evaluated under the counts that have risen, and nobody is offered anything else. -/
theorem stage_told (s : State) (p : Agent) (d : DescId) (m : Message) (flags : Byte) (b : Agent) :
    toldAndEvaluated s (s.stage p d m flags) b [] [] := by
  unfold State.stage
  exact evaluated_after (toldEach_nil (by simp) (by simp)) (by simp) (by simp) (evaluateWatches_told _ b)

theorem rise_common (u : UsedCounts) (a : Agent) (n : Nat) :
    (u.rise (.common a) n).commonTotal = u.commonTotal + n ∧ (u.rise (.common a) n).commonBy[a] = u.commonBy[a] + n ∧
      (∀ b : Agent, b ≠ a → (u.rise (.common a) n).commonBy[b] = u.commonBy[b]) ∧
      (u.rise (.common a) n).reserved = u.reserved :=
  ⟨rfl, vec_get_set_same _ _ _, fun _ hb => vec_get_set_ne _ _ _ _ (Ne.symm hb), rfl⟩

theorem rise_reserved (u : UsedCounts) (a : Agent) (k : MsgClass) (n : Nat) :
    (u.rise (.reserved a k) n).commonTotal = u.commonTotal ∧ (u.rise (.reserved a k) n).commonBy = u.commonBy ∧
      ((u.rise (.reserved a k) n).reserved[a]).get k = (u.reserved[a]).get k + n ∧
      ∀ (b : Agent) (j : MsgClass), b ≠ a ∨ j ≠ k →
        ((u.rise (.reserved a k) n).reserved[b]).get j = (u.reserved[b]).get j := by
  refine ⟨rfl, rfl, ?_, fun b j hbj => ?_⟩
  · exact (congrArg (PerClass.get · k) (vec_get_set_same _ _ _)).trans (by rw [PerClass.get_set, if_pos rfl])
  · by_cases hb : b = a
    · subst hb
      exact (congrArg (PerClass.get · j) (vec_get_set_same _ _ _)).trans
        (by rw [PerClass.get_set, if_neg (Ne.symm (hbj.resolve_left (fun h => h rfl)))])
    · exact congrArg (PerClass.get · j) (vec_get_set_ne _ _ _ _ (Ne.symm hb))

/-- R52: the header that passes every step. -/
theorem judgeHeader_passes {s : State} {p d : Agent} {k : MsgClass} {flags : Byte} {len : Nat} {x : DescId} {c : Charge}
    (hne : d ≠ p) (hactive : s.portIs d .active) (hflags : ∀ i : Nat, 2 ≤ i → i ≤ 7 → flags.getLsbD i = false)
    (hpos : 0 < len) (hle : len ≤ maxLength k) (hx : s.freeDesc = some x) (hlimit : s.inUse[p] < s.table.descLimit[p])
    (hheld : ∀ h, s.slot = some h → s.inUse[p] < h.table.descLimit[p])
    (hcredit : s.judgeCredit p k (cellsFor len) = some c) :
    s.judgeHeader p (BitVec.ofNat 8 d.val) (classCode k) flags len = .accepted x (s.stagedMessage p d k flags len c) := by
  have hf : reservedFlagSet flags = false := Bool.eq_false_iff.mpr fun h => by
    obtain ⟨i, h2, h7, hi⟩ := (reservedFlagSet_iff flags).mp h
    exact absurd hi (by simp [hflags i h2 h7])
  have hroom : s.atDescLimit p = false := Bool.eq_false_iff.mpr fun h => by
    rcases (atDescLimit_iff s p).mp h with h | ⟨y, hy, h⟩
    · exact absurd h (Nat.not_le.mpr hlimit)
    · exact absurd h (Nat.not_le.mpr (hheld y hy))
  rw [judgeHeader_room hf (classOfCode_code k) (agentOfCode_code d) hne hpos hle hactive, judgeRoom_credit hx hroom, hcredit]

/-- Settles O20. -/
theorem headerThatPassesIsStaged : Obligations.HeaderThatPassesIsStaged := by
  intro s p d k flags len x c ⟨⟨hq, ho⟩, hs⟩ hp hnodup hne hactive hflags hpos hle hx hlow hlimit hheld hcharge
  have hexec : exec (.postHeader p (BitVec.ofNat 8 d.val) (classCode k) flags len) s =
      .next (s.answerHeader p (BitVec.ofNat 8 d.val) (classCode k) flags len) :=
    quiet_next hq (·.answerHeader p (BitVec.ofNat 8 d.val) (classCode k) flags len)
  have hcredit : s.judgeCredit p k (cellsFor len.toNat) = some c := by
    rcases hcharge with ⟨hcommon, rfl⟩ | ⟨hcommon, hreserved, rfl⟩
    · exact if_pos hcommon
    · exact (if_neg (Nat.not_le.mpr hcommon)).trans (if_pos hreserved)
  rw [State.answerHeader_active ho hs hp, judgeHeader_passes hne hactive hflags hpos hle
    (freeDesc_eq_some.mpr ⟨hx, hlow⟩) hlimit hheld hcredit] at hexec
  set m := s.stagedMessage p d k flags len.toNat c with hm
  change _ = Host.Outcome.next (s.stage p x m flags) at hexec
  have hdescs := State.stage_descs s p x m flags
  have hfree := State.stage_freeList s p x m flags
  have hcells := State.stage_cellMap s p x m flags
  have hused := State.stage_used s p x m flags
  have hinUse := State.stage_inUse s p x m flags
  have hstagings := State.stage_stagings s p x m flags
  have hframes := stage_frames s p x m flags
  have htold := stage_told s p x m flags
  have hframe := State.stage_frame s p x m flags
  generalize s.stage p x m flags = t at *
  have hlength : m.length = len.toNat := rfl
  have hcharged : m.charge = c := rfl
  have hlist : m.cells = s.freeList.take (cellsFor len.toNat) := rfl
  rw [hlength] at hfree hused
  rw [hcharged] at hused hcells
  rw [hlist] at hcells
  have hstaged : Descriptor.staging m = .staging
      { source := p, dest := d, cls := k, length := len.toNat, cells := s.freeList.take (cellsFor len.toNat)
        charge := c, redeliveries := 0, receipt := flags.getLsbD 0
        corr := if flags.getLsbD 1 = true then .awaited else .absent } := rfl
  have hnodup' : (s.freeList.take (cellsFor len.toNat)).Nodup := hnodup.sublist (List.take_sublist _ _)
  rw [hstaged] at hdescs
  refine ⟨t, hexec, ⟨?_, fun y hy => ?_, hfree, fun i y hy => ?_, fun y hy => ?_, fun hc => ?_, fun hc => ?_⟩, ?_,
    fun a ha => ?_, ?_, fun q hqp => ?_, ?_, fun q hqp => ?_, htold, hframe⟩
  · rw [hdescs, vec_get_set_same]
  · rw [hdescs, vec_get_set_ne _ _ _ _ (Ne.symm hy)]
  · rw [hcells]
    exact (bindCells_get s c x 0 _ hnodup' i y hy).trans (by rw [Nat.zero_add])
  · rw [hcells]
    exact bindCells_ne s c x 0 _ y hy
  · rw [hused, hc]
    exact rise_common s.used p _
  · rw [hused, hc]
    exact rise_reserved s.used p k _
  · rw [hinUse, vec_get_set_same]
  · rw [hinUse, vec_get_set_ne _ _ _ _ (Ne.symm ha)]
  · rw [hstagings, vec_get_set_same]
    rfl
  · rw [hstagings, vec_get_set_ne _ _ _ _ (Ne.symm hqp)]
  · rw [hframes, vec_get_set_same]
    rfl
  · rw [hframes, vec_get_set_ne _ _ _ _ (Ne.symm hqp)]

end Sys2Proof.Machine

/-! The staged bytes (O21), and the payload they make (O25). -/

namespace Sys2Proof.Machine

/-! ## One staged byte (R58 to R62) -/

theorem takeStagingByte_corr {s : State} {p : Agent} {c : StagingContext} {m : Message} (b : Byte)
    (hl : s.loadedStaging p = some (c, m)) (h : 0 < c.corrToCome) : s.takeStagingByte p b = s.takeCorrByte p c m b := by
  unfold State.takeStagingByte
  rw [hl]
  exact if_pos h

theorem takeStagingByte_payload {s : State} {p : Agent} {c : StagingContext} {m : Message} (b : Byte)
    (hl : s.loadedStaging p = some (c, m)) (hcorr : c.corrToCome = 0) (h : c.payloadReceived < m.length) :
    s.takeStagingByte p b = s.takePayloadByte p c m b := by
  unfold State.takeStagingByte
  rw [hl]
  exact (if_neg (by omega)).trans (if_pos h)

theorem takeStagingByte_check {s : State} {p : Agent} {c : StagingContext} {m : Message} (b : Byte)
    (hl : s.loadedStaging p = some (c, m)) (hcorr : c.corrToCome = 0) (hlen : m.length ≤ c.payloadReceived)
    (h : c.checkReceived = 0) : s.takeStagingByte p b = s.takeCheckHigh p c b := by
  unfold State.takeStagingByte
  rw [hl]
  exact (if_neg (by omega)).trans ((if_neg (by omega)).trans (if_pos h))

/-- The port, and what a byte of a staging never touches (R178). -/
theorem advanceByte_spec (s : State) (p : Agent) :
    (s.advanceByte p).frames[p] =
        { s.frames[p] with bytePos := (s.frames[p]).bytePos + 1, bitPos := 0, shiftIn := 0 } ∧
      ∀ q : Agent, q ≠ p → (s.advanceByte p).frames[q] = s.frames[q] :=
  ⟨vec_get_set_same _ _ _, fun _ hq => vec_get_set_ne _ _ _ _ (Ne.symm hq)⟩

/-- R60: the memory after a payload byte. -/
theorem memRead_takePayloadByte {s : State} (hm : MemoryLaw s) (p : Agent) {c : StagingContext} {m : Message} (b : Byte)
    {x : CellId} (hx : m.cells[c.payloadReceived / 32]? = some x) (a : Nat) :
    memRead (s.takePayloadByte p c m b).mem a =
      if a = cellAddr x (c.payloadReceived % 32) then b else memRead s.mem a := by
  have hmem : (s.takePayloadByte p c m b).mem = memWrite s.mem (cellAddr x (c.payloadReceived % 32)) b := by
    have hwrite : s.writePayload m c.payloadReceived b =
        { s with mem := memWrite s.mem (cellAddr x (c.payloadReceived % Config.cellBytes)) b } := by
      unfold State.writePayload
      rw [show m.cells[c.payloadReceived / Config.cellBytes]? = some x from hx]
    unfold State.takePayloadByte
    rw [hwrite]
    rfl
  rw [hmem, memRead_memWrite _ _ _ _ hm]

theorem takePayloadByte_stagings (s : State) (p : Agent) (c : StagingContext) (m : Message) (b : Byte) :
    (s.takePayloadByte p c m b).stagings = s.stagings.set p (some { c with
      payloadReceived := c.payloadReceived + 1, checkRegister := checkByte c.checkRegister b }) := by
  simp [State.takePayloadByte]

theorem takePayloadByte_port (s : State) (p : Agent) (c : StagingContext) (m : Message) (b : Byte) :
    (s.takePayloadByte p c m b).frames = (s.advanceByte p).frames := by
  simp [State.takePayloadByte, State.advanceByte]

/-- Settles O21. -/
theorem stagedBytesAreTakenInOrder : Obligations.StagedBytesAreTakenInOrder := by
  intro s p c m b hq hr hc hd hmem hcome
  have hexec : exec (.postStagingByte p b) s = .next (s.takeStagingByte p b) := quiet_next hq (·.takeStagingByte p b)
  have hloaded := loadedStaging_some hr hc hd
  obtain ⟨hport, hother⟩ := advanceByte_spec s p
  rcases Nat.eq_zero_or_pos c.corrToCome with hcorr | hcorr
  · rcases Nat.lt_or_ge c.payloadReceived m.length with hlen | hlen
    · rw [takeStagingByte_payload b hloaded hcorr hlen] at hexec
      have hframes := takePayloadByte_port s p c m b
      have hstagings := takePayloadByte_stagings s p c m b
      refine ⟨_, hexec, ?_, fun q hqp => ?_, fun q hqp => ?_, fun h => absurd h (by omega), fun _ _ => ⟨?_, by simp,
        fun x hx => memRead_takePayloadByte hmem p b hx⟩, fun _ h => absurd h (Nat.not_le.mpr hlen), ?_⟩
      · rw [hframes]
        exact hport
      · rw [hframes]
        exact hother q hqp
      · rw [hstagings, vec_get_set_ne _ _ _ _ (Ne.symm hqp)]
      · rw [hstagings, vec_get_set_same]
      · apply State.ext_fields <;> simp
    · have hcheck : c.checkReceived = 0 := by omega
      rw [takeStagingByte_check b hloaded hcorr hlen hcheck] at hexec
      refine ⟨_, hexec, hport, hother, fun q hqp => vec_get_set_ne _ _ _ _ (Ne.symm hqp), fun h => absurd h (by omega),
        fun _ h => absurd h (Nat.not_lt.mpr hlen), fun _ _ _ => ⟨vec_get_set_same _ _ _, rfl, rfl⟩, rfl⟩
  · rw [takeStagingByte_corr b hloaded hcorr] at hexec
    by_cases hone : c.corrToCome = 1
    · have hbody : s.takeCorrByte p c m b = (((s.setDesc c.desc (.staging { m with
          corr := .word (c.corrBytes <<< 8 ||| b.zeroExtend 32) })).setStaging p (some { c with
            corrToCome := c.corrToCome - 1, corrBytes := c.corrBytes <<< 8 ||| b.zeroExtend 32
            checkRegister := checkByte c.checkRegister b })).advanceByte p) := by
        unfold State.takeCorrByte
        dsimp only
        rw [if_pos hone]
      rw [hbody] at hexec
      exact ⟨_, hexec, hport, hother, fun q hqp => vec_get_set_ne _ _ _ _ (Ne.symm hqp),
        fun _ => ⟨vec_get_set_same _ _ _, fun h => absurd hone (by omega),
          fun _ => ⟨vec_get_set_same _ _ _, fun y hy => vec_get_set_ne _ _ _ _ (Ne.symm hy)⟩, rfl⟩,
        fun h => absurd h (by omega), fun h => absurd h (by omega), rfl⟩
    · have hbody : s.takeCorrByte p c m b = ((s.setStaging p (some { c with
            corrToCome := c.corrToCome - 1, corrBytes := c.corrBytes <<< 8 ||| b.zeroExtend 32
            checkRegister := checkByte c.checkRegister b })).advanceByte p) := by
        unfold State.takeCorrByte
        dsimp only
        rw [if_neg hone]
      rw [hbody] at hexec
      exact ⟨_, hexec, hport, hother, fun q hqp => vec_get_set_ne _ _ _ _ (Ne.symm hqp),
        fun _ => ⟨vec_get_set_same _ _ _, fun _ => rfl, fun h => absurd h hone, rfl⟩,
        fun h => absurd h (by omega), fun h => absurd h (by omega), rfl⟩

/-! ## The payload (R60, R79) -/

/-- Port `p` is receiving the payload of message `m`, and the cells of the message are its own. -/
structure Receives (s : State) (p : Agent) (c : StagingContext) (m : Message) : Prop where
  quiet : s.quiet
  rstn : s.rstnLow = false
  loaded : s.stagings[p] = some c
  staged : s.descs[c.desc] = .staging m
  corr : c.corrToCome = 0
  memory : MemoryLaw s
  nodup : m.cells.Nodup
  cells : ∀ j, j < m.length → ∃ x, m.cells[j / 32]? = some x
  cleared : ∀ x ∈ m.cells, s.cellMap[x] ≠ .awaitingClear

theorem receives_of_part {s : State} {p : Agent} {c : StagingContext} {m : Message} (hq : s.quiet) (hr : s.rstnLow = false)
    (hp : PartLaw s) (hm : MemoryLaw s) (hc : s.stagings[p] = some c) (hd : s.descs[c.desc] = .staging m)
    (hcorr : c.corrToCome = 0) : Receives s p c m := by
  obtain ⟨-, -, -, -, hcell, -, hmessage, -⟩ := hp
  have hmsg : s.message c.desc = some m := message_staging hd
  obtain ⟨-, -, -, hcells, -⟩ := hmessage _ _ hmsg
  refine ⟨hq, hr, hc, hd, hcorr, hm, hcell.nodup_cells hmsg, fun j hj => ?_, fun x hx => ?_⟩
  · have hlen : m.cells.length = cellsFor m.length := hcells
    exact ⟨_, List.getElem?_eq_getElem (by rw [hlen, cellsFor]; omega)⟩
  · obtain ⟨pos, hpos⟩ := (hcell.mem_cells hmsg x).mp hx
    rw [hpos]
    simp

/-- The byte that a memory holds of a message whose cells are cleared. -/
theorem Receives.payloadByte {s : State} {p : Agent} {c : StagingContext} {m : Message} (h : Receives s p c m) {j : Nat}
    {x : CellId} (hx : m.cells[j / 32]? = some x) : s.payloadByte m j = memRead s.mem (cellAddr x (j % 32)) := by
  unfold State.payloadByte
  rw [show m.cells[j / Config.cellBytes]? = some x from hx]
  exact if_neg (h.cleared x (List.mem_of_getElem? hx))

/-- One payload byte of a message goes to its own place. -/
theorem payloadAddr_inj {m : Message} (hnodup : m.cells.Nodup) {i j : Nat} {x y : CellId}
    (hx : m.cells[i / 32]? = some x) (hy : m.cells[j / 32]? = some y)
    (h : cellAddr x (i % 32) = cellAddr y (j % 32)) : i = j := by
  have hi : i % 32 < 32 := Nat.mod_lt _ (by norm_num)
  have hj : j % 32 < 32 := Nat.mod_lt _ (by norm_num)
  have hxy : x = y := cellAddr_cell hi hj h
  subst hxy
  have hpos : i / 32 = j / 32 := by
    obtain ⟨hilt, hix⟩ := List.getElem?_eq_some_iff.mp hx
    obtain ⟨hjlt, hjx⟩ := List.getElem?_eq_some_iff.mp hy
    exact hnodup.getElem_inj_iff.mp (hix.trans hjx.symm)
  have hoff : i % 32 = j % 32 := by
    have : 32 * x.val + i % 32 = 32 * x.val + j % 32 := h
    omega
  omega

/-- What a payload byte received leaves: the reception one byte further, with that byte in its place. -/
theorem Receives.step {s : State} {p : Agent} {c : StagingContext} {m : Message} (h : Receives s p c m)
    (hlen : c.payloadReceived < m.length) (b : Byte) :
    ∃ t, exec (.postStagingByte p b) s = .next t ∧
      Receives t p { c with payloadReceived := c.payloadReceived + 1, checkRegister := checkByte c.checkRegister b } m ∧
      (∀ j, j < m.length → t.payloadByte m j = if j = c.payloadReceived then b else s.payloadByte m j) ∧
      t = { s with mem := t.mem, stagings := t.stagings, frames := t.frames } := by
  have hexec : exec (.postStagingByte p b) s = .next (s.takeStagingByte p b) := quiet_next h.quiet (·.takeStagingByte p b)
  rw [takeStagingByte_payload b (loadedStaging_some h.rstn h.loaded h.staged) h.corr hlen] at hexec
  have hframe : s.takePayloadByte p c m b = { s with
      mem := (s.takePayloadByte p c m b).mem, stagings := (s.takePayloadByte p c m b).stagings
      frames := (s.takePayloadByte p c m b).frames } := by
    apply State.ext_fields <;> simp
  obtain ⟨x, hx⟩ := h.cells _ hlen
  have hread := memRead_takePayloadByte h.memory p b hx
  have hnext : Receives (s.takePayloadByte p c m b) p
      { c with payloadReceived := c.payloadReceived + 1, checkRegister := checkByte c.checkRegister b } m :=
    { quiet := by rw [hframe]; exact h.quiet
      rstn := by simp [h.rstn]
      loaded := by rw [takePayloadByte_stagings, vec_get_set_same]
      staged := by simp only [State.takePayloadByte_untouched]; exact h.staged
      corr := h.corr
      memory := (Move.payloadByteTaken p c m b (loadedStaging_some h.rstn h.loaded h.staged)).memoryLaw h.memory
      nodup := h.nodup
      cells := h.cells
      cleared := by simpa only [State.takePayloadByte_untouched] using h.cleared }
  refine ⟨_, hexec, hnext, fun j hj => ?_, hframe⟩
  obtain ⟨y, hy⟩ := h.cells j hj
  rw [hnext.payloadByte hy, h.payloadByte hy, hread]
  refine if_congr ⟨payloadAddr_inj h.nodup hy hx, fun hji => ?_⟩ rfl rfl
  subst hji
  rw [hx] at hy
  rw [Option.some.inj hy]

/-- Payload bytes sent one after another. -/
theorem Receives.run (bs : List Byte) {s : State} {p : Agent} {c : StagingContext} {m : Message} (h : Receives s p c m)
    (hlen : c.payloadReceived + bs.length = m.length) :
    ∃ t, runAll (bs.map (.postStagingByte p)) s = some t ∧
      t.stagings[p] = some { c with
        payloadReceived := m.length, checkRegister := bs.foldl checkByte c.checkRegister } ∧
      (∀ j, j < c.payloadReceived → t.payloadByte m j = s.payloadByte m j) ∧
      (∀ j b, bs[j]? = some b → t.payloadByte m (c.payloadReceived + j) = b) ∧
      t = { s with mem := t.mem, stagings := t.stagings, frames := t.frames } := by
  induction bs generalizing s c with
  | nil =>
    have hlen : c.payloadReceived = m.length := hlen
    exact ⟨s, rfl, by rw [h.loaded, ← hlen]; rfl, fun _ _ => rfl, fun j b hj => by simp at hj, rfl⟩
  | cons b rest ih =>
    rw [List.length_cons] at hlen
    obtain ⟨u, hexec, hu, hbytes, hframe⟩ := h.step (by omega) b
    obtain ⟨t, hrun, hloaded, hbefore, hafter, hframe'⟩ := ih hu (by dsimp only; omega)
    refine ⟨t, ?_, hloaded, fun j hj => ?_, fun j x hj => ?_, ?_⟩
    · rw [List.map_cons, runAll, hexec]
      exact hrun
    · rw [hbefore j (by dsimp only; omega), hbytes j (by omega), if_neg (by omega)]
    · cases j with
      | zero =>
        have hxb : b = x := by simpa using hj
        rw [Nat.add_zero, hbefore _ (by dsimp only; omega), hbytes _ (by omega), if_pos rfl, hxb]
      | succ j =>
        have := hafter j x (by simpa using hj)
        rwa [show c.payloadReceived + (j + 1) = c.payloadReceived + 1 + j by omega]
    · rw [hframe] at hframe'
      exact hframe'

/-- Settles O25. -/
theorem stagedPayloadReadsBack : Obligations.StagedPayloadReadsBack := by
  intro s p c m bs hq hr hpart hmem hc hd hcorr hzero hlen
  obtain ⟨t, hrun, hloaded, -, hbytes, hframe⟩ :=
    (receives_of_part hq hr hpart hmem hc hd hcorr).run bs (by rw [hzero, Nat.zero_add, hlen])
  refine ⟨t, hrun, ?_, hloaded, hframe⟩
  unfold State.payload
  refine List.ext_getElem (by simp [hlen]) fun j h1 h2 => ?_
  have := hbytes j bs[j] (List.getElem?_eq_getElem h2)
  rw [hzero, Nat.zero_add] at this
  simpa using this

end Sys2Proof.Machine

/-! The clears: the completion of a scrub (O48) and the start-up clear (O7). -/

namespace Sys2Proof.Machine

/-! ## A cell cleared (R97) -/

/-- R97: a cell made FREE with its bytes cleared reads 0x00, and every other cell as before. -/
theorem cellByte_cleared {s t : State} {c : CellId} (hmap : t.cellMap = s.cellMap.set c .free)
    (hmem : t.mem = memClear s.mem c) (x : CellId) {j : Nat} (hj : j < 32) :
    t.cellByte x j = if x = c then 0 else s.cellByte x j := by
  unfold State.cellByte
  rw [hmap, hmem, memRead_memClear_cell _ _ _ hj]
  by_cases hx : x = c
  · subst hx
    rw [vec_get_set_same, if_pos rfl, if_pos rfl]
    exact if_neg (by decide)
  · rw [vec_get_set_ne _ _ _ _ (Ne.symm hx), if_neg hx, if_neg hx]

/-! ## The completion of a scrub (R98, R99) -/

/-- What an agent was offered, and its watches after it, with other blocks changed on either side. -/
theorem toldAndEvaluated_congr {s u t v : State} {b : Agent} {first last : List Notice}
    (h : toldAndEvaluated s t b first last) (hm : (u.members[b]).state = (s.members[b]).state)
    (hn : u.notices[b] = s.notices[b]) (hl : u.latches[b] = s.latches[b]) (hw : u.watches[b] = s.watches[b])
    (hn' : v.notices = t.notices) (hl' : v.latches = t.latches) (hw' : v.watches = t.watches) (ht : v.table = t.table)
    (hs : v.slot = t.slot) (hu : v.used = t.used) : toldAndEvaluated u v b first last := by
  obtain ⟨hc, hleft⟩ := credits_congr (s := s) (s' := u) (t := t) (t' := v) b hw ht hs hu
  refine ⟨?_, fun k => ?_⟩
  · rw [hc]
    exact toldEach_of_eq h.1 hm hn hl (by rw [hn']) (by rw [hl'])
  · rw [hleft k, hw']
    exact h.2 k

theorem completeScrub_other {s : State} (h : ∀ c, s.engine ≠ .clearing c) : s.completeScrub = s := by
  unfold State.completeScrub
  cases he : s.engine with
  | startUp p => rfl
  | idle => rfl
  | clearing c => exact absurd he (h c)

theorem completeScrub_clearing {s : State} {c : CellId} (h : s.engine = .clearing c) :
    s.completeScrub = (s.returnCell c).fitThenWatches.nextScrub := by
  unfold State.completeScrub
  rw [h]

theorem nextScrub_nil {s : State} (h : s.scrubQueue = []) : s.nextScrub.engine = .idle := by
  unfold State.nextScrub
  rw [h]

theorem nextScrub_cons {s : State} {c : CellId} {rest : List CellId} (h : s.scrubQueue = c :: rest) :
    s.nextScrub.engine = .clearing c ∧ s.nextScrub.clearLeft = 32 := by
  unfold State.nextScrub
  rw [h]
  exact ⟨rfl, rfl⟩

theorem fall_common {u v : UsedCounts} {ch : Charge} (h : v = u.fall ch) (a : Agent) (hch : ch = .common a) :
    v.commonTotal = u.commonTotal - 1 ∧ v.commonBy[a] = u.commonBy[a] - 1 ∧
      (∀ b : Agent, b ≠ a → v.commonBy[b] = u.commonBy[b]) ∧ v.reserved = u.reserved := by
  subst h hch
  exact ⟨rfl, vec_get_set_same _ _ _, fun b hb => vec_get_set_ne _ _ _ _ (Ne.symm hb), rfl⟩

theorem fall_reserved {u v : UsedCounts} {ch : Charge} (h : v = u.fall ch) (a : Agent) (k : MsgClass)
    (hch : ch = .reserved a k) :
    v.commonTotal = u.commonTotal ∧ v.commonBy = u.commonBy ∧
      (v.reserved[a]).get k = (u.reserved[a]).get k - 1 ∧
      ∀ (b : Agent) (j : MsgClass), b ≠ a ∨ j ≠ k → (v.reserved[b]).get j = (u.reserved[b]).get j := by
  subst h hch
  have hset : (u.fall (.reserved a k)).reserved =
      u.reserved.set a ((u.reserved[a]).set k ((u.reserved[a]).get k - 1)) := rfl
  refine ⟨rfl, rfl, ?_, fun b j hbj => ?_⟩
  · rw [hset, vec_get_set_same, PerClass.get_set_same]
  · rw [hset]
    by_cases hb : b = a
    · subst hb
      rw [vec_get_set_same, PerClass.get_set_ne _ _ _ _ (hbj.resolve_left (fun h => h rfl)).symm]
    · rw [vec_get_set_ne _ _ _ _ (Ne.symm hb)]

/-- Settles O48. -/
theorem scrubReturnsCellAndCredit : Obligations.ScrubReturnsCellAndCredit := by
  intro s hq
  have hexec : exec .scrubCompletion s = .next s.completeScrub := quiet_next hq State.completeScrub
  refine ⟨fun h => by rw [hexec, completeScrub_other h], fun c rest ch hengine hqueue hcell => ?_⟩
  rw [completeScrub_clearing hengine] at hexec
  obtain ⟨hfit, htold⟩ := fitThenWatches_spec (s.returnCell c)
  have hdone := scrubbed_spec hqueue hcell rfl
  have hmem : (s.returnCell c).fitThenWatches.nextScrub.mem = memClear s.mem c := by
    simp [State.returnCell]
  have htail : (s.returnCell c).fitThenWatches.scrubQueue = rest := by
    simp [State.returnCell, hqueue]
  have hframe : (s.returnCell c).fitThenWatches.nextScrub = { s with
      mem := (s.returnCell c).fitThenWatches.nextScrub.mem
      cellMap := (s.returnCell c).fitThenWatches.nextScrub.cellMap
      freeList := (s.returnCell c).fitThenWatches.nextScrub.freeList
      scrubQueue := (s.returnCell c).fitThenWatches.nextScrub.scrubQueue
      engine := (s.returnCell c).fitThenWatches.nextScrub.engine
      clearLeft := (s.returnCell c).fitThenWatches.nextScrub.clearLeft
      used := (s.returnCell c).fitThenWatches.nextScrub.used
      table := (s.returnCell c).fitThenWatches.nextScrub.table
      slot := (s.returnCell c).fitThenWatches.nextScrub.slot
      epoch := (s.returnCell c).fitThenWatches.nextScrub.epoch
      prescaleCount := (s.returnCell c).fitThenWatches.nextScrub.prescaleCount
      periodCount := (s.returnCell c).fitThenWatches.nextScrub.periodCount
      postscaleCount := (s.returnCell c).fitThenWatches.nextScrub.postscaleCount
      notices := (s.returnCell c).fitThenWatches.nextScrub.notices
      latches := (s.returnCell c).fitThenWatches.nextScrub.latches
      watches := (s.returnCell c).fitThenWatches.nextScrub.watches } := by
    apply State.ext_fields <;> simp
  have happlies : s.appliesTo (s.returnCell c).fitThenWatches.nextScrub =
      (s.returnCell c).appliesTo (s.returnCell c) := by
    have hfits (x : Table) : (s.returnCell c).fitThenWatches.nextScrub.fits x = (s.returnCell c).fits x :=
      fits_congr _ _ _ (by simp) (by simp)
    unfold State.appliesTo
    simp only [State.returnCell_untouched, hfits]
  have hepoch : (s.returnCell c).fitThenWatches.nextScrub.epoch = (s.returnCell c).fitThenWatches.epoch := by simp
  have hmembers : (s.returnCell c).members = s.members := by simp
  have hfit' : fitTested s (s.returnCell c).fitThenWatches.nextScrub :=
    fitTested_congr hfit (by simp) (by simp) (by simp) (by simp) (by simp) (by simp) (by simp) (by simp) (by simp)
      (by simp) (by simp) (by simp) (by simp) (by simp)
  have htold' (b : Agent) : toldAndEvaluated s (s.returnCell c).fitThenWatches.nextScrub b
      ((s.returnCell c).fitThenWatches.nextScrub.configNotice
        (s.appliesTo (s.returnCell c).fitThenWatches.nextScrub)) [] := by
    rw [happlies]
    unfold State.configNotice
    rw [hepoch]
    refine toldAndEvaluated_congr (htold b) (by rw [hmembers]) ?_ ?_ ?_ ?_ ?_ ?_ ?_ ?_ ?_ <;> simp
  have hnil := nextScrub_nil (s := (s.returnCell c).fitThenWatches)
  have hcons := fun x more => nextScrub_cons (s := (s.returnCell c).fitThenWatches) (c := x) (rest := more)
  rw [htail] at hnil hcons
  generalize (s.returnCell c).fitThenWatches.nextScrub = t at *
  refine ⟨t, hexec, ?_, fun x hx => ?_, fun x j hj => cellByte_cleared hdone.cellMap hmem x hj, hdone.freeList,
    hdone.scrubQueue, hnil, hcons, fun a => fall_common hdone.used a, fun a k => fall_reserved hdone.used a k,
    hfit', htold', hframe⟩
  · rw [hdone.cellMap, vec_get_set_same]
  · rw [hdone.cellMap, vec_get_set_ne _ _ _ _ (Ne.symm hx)]

/-! ## The start-up clear (R102) -/

theorem engineAfterStartUp_next {p q : CellId} (h : q.val = p.val + 1) : engineAfterStartUp p = .startUp q := by
  unfold engineAfterStartUp
  rw [dif_pos (by omega)]
  exact congrArg _ (Fin.ext h.symm)

theorem engineAfterStartUp_last {p : CellId} (h : p.val = 383) : engineAfterStartUp p = .idle :=
  dif_neg (by omega)

theorem completeStartUp_of {s : State} {p : CellId} (hr : s.rstnLow = false) (he : s.engine = .startUp p) :
    s.completeStartUp = s.finishStartUp p := by
  unfold State.completeStartUp
  rw [he, hr]
  rfl

theorem completeStartUp_low {s : State} (hr : s.rstnLow = true) : s.completeStartUp = s := by
  unfold State.completeStartUp
  rw [hr]
  cases s.engine <;> rfl

/-- R102: the start-up clear from cell `p` on is over. -/
structure StartedUp (s t : State) (p : Nat) : Prop where
  engine : t.engine = .idle
  clearLeft : t.clearLeft = 0
  freeList : t.freeList = s.freeList ++ (List.finRange 384).drop p
  cellMap : ∀ c : CellId, t.cellMap[c] = if p ≤ c.val then .free else s.cellMap[c]
  bytes : ∀ (c : CellId) (j : Nat), j < 32 → t.cellByte c j = if p ≤ c.val then 0 else s.cellByte c j
  frame : t = { s with
    mem := t.mem, cellMap := t.cellMap, freeList := t.freeList, engine := t.engine, clearLeft := t.clearLeft }

theorem finishStartUp_exec {s : State} {p : CellId} (hq : s.quiet) (hr : s.rstnLow = false) (he : s.engine = .startUp p) :
    exec .startupClearCompletion s = .next (s.finishStartUp p) := by
  rw [← completeStartUp_of hr he]
  exact quiet_next hq State.completeStartUp

theorem finishStartUp_cellMap (s : State) (p c : CellId) :
    (s.finishStartUp p).cellMap[c] = if c = p then .free else s.cellMap[c] := by
  have hset : (s.finishStartUp p).cellMap = s.cellMap.set p .free := rfl
  rw [hset]
  split_ifs with h
  · rw [h, vec_get_set_same]
  · exact vec_get_set_ne _ _ _ _ (Ne.symm h)

theorem finishStartUp_bytes (s : State) (p c : CellId) {j : Nat} (hj : j < 32) :
    (s.finishStartUp p).cellByte c j = if c = p then 0 else s.cellByte c j :=
  cellByte_cleared rfl rfl c hj

theorem finRange_drop (p : CellId) : (List.finRange 384).drop p.val = p :: (List.finRange 384).drop (p.val + 1) := by
  rw [List.drop_eq_getElem_cons (by simp)]
  simp

/-- The last cell of the start-up clear. -/
theorem startedUp_last {s : State} {p : CellId} (hp : p.val = 383) : StartedUp s (s.finishStartUp p) p.val where
  engine := engineAfterStartUp_last hp
  clearLeft := congrArg clearPeriodsOf (engineAfterStartUp_last hp)
  freeList := by
    rw [finRange_drop, List.drop_of_length_le (by simp [hp])]
    rfl
  cellMap c := (finishStartUp_cellMap s p c).trans (if_congr (by rw [Fin.ext_iff]; omega) rfl rfl)
  bytes c j hj := (finishStartUp_bytes s p c hj).trans (if_congr (by rw [Fin.ext_iff]; omega) rfl rfl)
  frame := rfl

theorem ite_from_next {α : Type} (p c : CellId) (x y : α) :
    (if p.val + 1 ≤ c.val then x else if c = p then x else y) = if p.val ≤ c.val then x else y := by
  by_cases h : c = p
  · simp [h]
  · have hne : c.val ≠ p.val := fun e => h (Fin.ext e)
    rw [if_neg h]
    exact if_congr (by omega) rfl rfl

/-- One cell of the start-up clear more. -/
theorem startedUp_cons {s t : State} {p : CellId} (h : StartedUp (s.finishStartUp p) t (p.val + 1)) :
    StartedUp s t p.val where
  engine := h.engine
  clearLeft := h.clearLeft
  freeList := by
    rw [h.freeList, finRange_drop]
    exact List.append_assoc s.freeList [p] _
  cellMap c := by
    rw [h.cellMap, finishStartUp_cellMap, ite_from_next]
  bytes c j hj := by
    rw [h.bytes c j hj, finishStartUp_bytes _ _ _ hj, ite_from_next]
  frame := h.frame

/-- R102: the completions from cell `p` to the last. -/
theorem startUp_run (n : Nat) {s : State} {p : CellId} (hn : p.val + n = 383) (hq : s.quiet) (hr : s.rstnLow = false)
    (he : s.engine = .startUp p) :
    ∃ t, runAll (List.replicate (n + 1) .startupClearCompletion) s = some t ∧ StartedUp s t p.val := by
  induction n generalizing s p with
  | zero =>
    refine ⟨s.finishStartUp p, ?_, startedUp_last hn⟩
    rw [List.replicate_one, runAll, finishStartUp_exec hq hr he]
    rfl
  | succ n ih =>
    obtain ⟨t, hrun, ht⟩ := ih (s := s.finishStartUp p) (p := ⟨p.val + 1, by omega⟩) (by simp only; omega) hq hr
      (engineAfterStartUp_next rfl)
    refine ⟨t, ?_, startedUp_cons ht⟩
    rw [List.replicate_succ, runAll, finishStartUp_exec hq hr he]
    exact hrun

/-- Settles O7. -/
theorem startupClearGoesCellByCell : Obligations.StartupClearGoesCellByCell := by
  intro s hq
  have hstart : exec .startupClearStart s = .next s.releaseReset := quiet_next hq State.releaseReset
  have hcomplete : exec .startupClearCompletion s = .next s.completeStartUp := quiet_next hq State.completeStartUp
  refine ⟨fun hlow => ⟨?_, ?_⟩, fun hr => ?_, fun p hr he => ?_, fun hr he hfree => ?_⟩
  · rw [hstart, State.releaseReset, if_pos hlow]
    rfl
  · rw [hcomplete, completeStartUp_low hlow]
  · rw [hstart, State.releaseReset, if_neg (by rw [hr]; decide)]
  · refine ⟨s.finishStartUp p, finishStartUp_exec hq hr he, ?_, fun c hc => ?_,
      fun c j hj => finishStartUp_bytes s p c hj, rfl, fun q hpq => ⟨?_, ?_⟩, fun hp => ⟨?_, ?_⟩, rfl⟩
    · exact (finishStartUp_cellMap s p p).trans (if_pos rfl)
    · exact (finishStartUp_cellMap s p c).trans (if_neg hc)
    · exact engineAfterStartUp_next hpq
    · exact congrArg clearPeriodsOf (engineAfterStartUp_next hpq)
    · exact engineAfterStartUp_last hp
    · exact congrArg clearPeriodsOf (engineAfterStartUp_last hp)
  · obtain ⟨t, hrun, ht⟩ := startUp_run 383 (s := s) (p := 0) rfl hq hr he
    refine ⟨t, hrun, ht.engine, ht.clearLeft, ?_, fun c => (ht.cellMap c).trans (if_pos (Nat.zero_le _)),
      fun c j hj => (ht.bytes c j hj).trans (if_pos (Nat.zero_le _)), ht.frame⟩
    rw [ht.freeList, hfree, List.nil_append]
    exact List.drop_zero

end Sys2Proof.Machine

/-! The drain test (O18), and what a zero-fill leaves of a response (R184). -/

namespace Sys2Proof.Machine

/-! ## The zero-fill (R184) -/

theorem keepFirstBits_getLsbD (n : Nat) (b : Byte) {i : Nat} (hi : i < 8) :
    (keepFirstBits n b).getLsbD i = (b.getLsbD i && decide (8 - n ≤ i)) := by
  have hones : ∀ j : Nat, j < 8 → (0xFF#8).getLsbD j = true := by decide
  unfold keepFirstBits
  rw [BitVec.getLsbD_and, BitVec.getLsbD_shiftLeft, hones _ (by omega)]
  by_cases h : 8 - n ≤ i
  · simp [h, hi, Nat.not_lt.mpr h]
  · simp [h, Nat.lt_of_not_le h]

theorem zeroed_zeroFilled (f : Framing) : zeroed f f.zeroFilled := by
  refine ⟨rfl, fun h => ?_, fun b rest hbit hskip hout => ⟨keepFirstBits f.bitPos b, ?_, fun i hi => ?_⟩⟩
  · unfold Framing.zeroFilled
    rcases h with h | h | h <;> simp [h]
  · unfold Framing.zeroFilled
    simp [hbit, hskip, hout]
  · exact keepFirstBits_getLsbD _ _ hi

theorem zeroFill_frame {s : State} {p : Agent} (h : (s.frames[p]).phase = .turnaround ∨ (s.frames[p]).phase = .response) :
    zeroed s.frames[p] (s.zeroFill p).frames[p] := by
  have hset : s.zeroFill p = s.setFrame p (s.frames[p]).zeroFilled := by
    unfold State.zeroFill
    rcases h with h | h <;> rw [h]
  rw [hset, State.setFrame, vec_get_set_same]
  exact zeroed_zeroFilled _

theorem zeroFill_still {s : State} {p : Agent} (h : ¬((s.frames[p]).phase = .turnaround ∨ (s.frames[p]).phase = .response)) :
    s.zeroFill p = s := by
  unfold State.zeroFill
  split
  · rfl
  · rfl
  · next h' => exact absurd (.inl h') h
  · next h' => exact absurd (.inr h') h

theorem zeroFillReadout_drained (s : State) (p : Agent) : drainedFrame s.frames[p] (s.zeroFillReadout p).frames[p] := by
  unfold drainedFrame State.zeroFillReadout
  by_cases hcode : (s.frames[p]).opcode = some codeNotices
  · rw [if_pos hcode]
    by_cases hphase : (s.frames[p]).phase = .turnaround ∨ (s.frames[p]).phase = .response
    · rw [if_pos ⟨hcode, hphase⟩]
      exact zeroFill_frame hphase
    · rw [if_neg (fun h => hphase h.2), zeroFill_still hphase]
  · rw [if_neg hcode, if_neg (fun h => hcode h.1)]

/-! ## The drain test (R135, R136) -/

theorem drainTest_drains {s : State} {a : Agent} (hc : s.portIs a .closing) (hn : s.holdsNothing a = true) :
    s.drainTest a = (s.goOffline a).offerPeers a (.peerLeft a) := by
  rw [State.portIs] at hc
  unfold State.drainTest
  rw [if_pos (by simp [-Fin.getElem_fin, hc, hn])]

theorem drainTest_still {s : State} {a : Agent} (h : ¬s.portIs a .closing ∨ s.holdsNothing a = false) :
    s.drainTest a = s := by
  unfold State.drainTest
  rw [if_neg]
  rcases h with h | h
  · rw [State.portIs] at h
    simp [-Fin.getElem_fin, h]
  · simp [h]

theorem goOffline_drainedFrame (s : State) (a : Agent) : drainedFrame s.frames[a] (s.goOffline a).frames[a] := by
  have h := zeroFillReadout_drained (((s.setMember a { s.members[a] with state := .offline, leaseLeft := 0 }).clearNotices
    a).setSnapshot a (.all false)) a
  simpa only [State.goOffline, State.disarm, State.setSnapshot_frames, State.clearNotices, State.setLatch_frames,
    State.setNotices_frames, State.setMember_frames] using h

/-- R152: the port of an agent that the drain test brings to OFFLINE. -/
theorem drainTest_drainedFrame {s : State} {a : Agent} (hc : s.portIs a .closing) (hn : s.holdsNothing a = true) :
    drainedFrame s.frames[a] (s.drainTest a).frames[a] := by
  rw [drainTest_drains hc hn, State.offerPeers_frame]
  exact goOffline_drainedFrame s a

/-- Settles O18. -/
theorem drainEndsClosing : Obligations.DrainEndsClosing := by
  intro s a hq
  have hexec : exec (.drainCompletion a) s = .next (s.drainTest a) := quiet_next hq (·.drainTest a)
  refine ⟨fun hc hn => ?_, fun h => by rw [hexec, drainTest_still h]⟩
  obtain ⟨hothers, hspec⟩ := drain_spec s a
  rw [if_pos ⟨hc, hn⟩] at hspec
  have htold := fun b => drainTest_told s a b
  simp only [if_pos (And.intro hc hn)] at htold
  have hport := drainTest_drainedFrame hc hn
  have hframes := fun b => drainTest_frames_ne s a b
  have hframe := State.drainTest_frame s a
  generalize s.drainTest a = t at *
  refine ⟨t, hexec, hspec.1, ((htold a).1 rfl).2.1, fun b hb => ?_, hport, hframe⟩
  obtain ⟨hmember, hsnapshot⟩ := hothers b hb
  obtain ⟨⟨hnotices, hlatches⟩, hwatches⟩ := (htold b).2 hb
  exact ⟨hmember, hsnapshot, hwatches, hframes b hb, hnotices, hlatches⟩

end Sys2Proof.Machine

/-! LEAVE (O17): the round told, with what is offered before and after it. -/

namespace Sys2Proof.Machine

/-! ## The offers of a departure (R134, R138) -/

theorem commitsAt_congr {s u : State} (h : u.voting = s.voting) (a : Agent) : u.commitsAt a = s.commitsAt a := by
  unfold State.commitsAt
  rw [h]

theorem withdrawnTo_congr {s u : State} (h : u.voting = s.voting) (a b : Agent) : u.withdrawnTo a b = s.withdrawnTo a b := by
  unfold State.withdrawnTo
  rw [h]

/-- R134, R138: what agent `b` is offered before the round is told and after it joins the offers of the round. -/
theorem leaveTold_between {s u w t : State} {a b : Agent} {first last : List Notice} (h : leaveTold u w a [] [] b)
    (hfirst : toldEach s u b first) (hlast : toldEach w t b last) (hvoting : u.voting = s.voting)
    (hwatches : u.watches[b] = s.watches[b]) (hm : (u.members[b]).state = (s.members[b]).state)
    (hm' : (w.members[b]).state = (u.members[b]).state)
    (ht : t = { w with notices := t.notices, latches := t.latches, frames := t.frames }) :
    leaveTold s t a first last b := by
  have htw : t.watches = w.watches := by rw [ht]
  have htable : t.table = w.table := by rw [ht]
  have hslot : t.slot = w.slot := by rw [ht]
  have hused : t.used = w.used := by rw [ht]
  have hinUse : t.inUse = w.inUse := by rw [ht]
  have hepoch : t.epoch = w.epoch := by rw [ht]
  unfold leaveTold at h ⊢
  rw [commitsAt_congr hvoting, withdrawnTo_congr hvoting] at h
  cases hc : s.commitsAt a with
  | none =>
    simp only [hc] at h ⊢
    obtain ⟨htold, hw⟩ := h
    refine ⟨?_, by rw [htw, hw, hwatches]⟩
    have hall := toldEach_append (toldEach_append hfirst htold hm) hlast (hm'.trans hm)
    simpa using hall
  | some v =>
    simp only [hc] at h ⊢
    obtain ⟨htold, heval⟩ := h
    obtain ⟨hcredits, hleft⟩ := credits_congr (s := u) (s' := s) (t := w) (t' := t) b hwatches.symm htable hslot hused
    have hfits : t.fits v.table = w.fits v.table := fits_congr _ _ _ hused hinUse
    have hconfig (x : Bool) : t.configNotice x = w.configNotice x := by
      unfold State.configNotice
      rw [hepoch]
    refine ⟨?_, fun k => ?_⟩
    · rw [hcredits, hfits, hconfig]
      have hall := toldEach_append (toldEach_append hfirst htold hm) hlast (hm'.trans hm)
      simpa using hall
    · rw [hleft k, htw]
      exact heval k

/-- A commit, seen from before a change that leaves the tables. -/
theorem committed_of_kept {s u t : State} {v : Proposal} (h : tableKept s u) (hc : committed u t v) : committed s t v := by
  obtain ⟨htable, hslot, hepoch, hprescale, hperiod, hpostscale⟩ := h
  unfold committed applied at hc ⊢
  rwa [htable, hepoch, hprescale, hperiod, hpostscale] at hc

theorem tableKept_trans {s u t : State} (h : tableKept s u) (ht : tableKept u t) : tableKept s t := by
  obtain ⟨htable, hslot, hepoch, hprescale, hperiod, hpostscale⟩ := h
  unfold tableKept at ht ⊢
  rwa [htable, hslot, hepoch, hprescale, hperiod, hpostscale] at ht

theorem committed_congr {s t t' : State} {v : Proposal} (hc : committed s t v) (hk : tableKept t t')
    (hused : t'.used = t.used) (hinUse : t'.inUse = t.inUse) : committed s t' v := by
  obtain ⟨htable, hslot, hepoch, hprescale, hperiod, hpostscale⟩ := hk
  unfold committed applied at hc ⊢
  rwa [fits_congr _ _ _ hused hinUse, htable, hslot, hepoch, hprescale, hperiod, hpostscale]

/-- R134: the tables after agent `a` has left the round. -/
def leaveTables (s t : State) (a : Agent) : Prop :=
  match s.commitsAt a with
  | none => tableKept s t
  | some v => committed s t v

theorem leaveTables_none {s t : State} {a : Agent} (h : s.commitsAt a = none) : leaveTables s t a ↔ tableKept s t := by
  unfold leaveTables
  rw [h]

theorem leaveTables_some {s t : State} {a : Agent} {v : Proposal} (h : s.commitsAt a = some v) :
    leaveTables s t a ↔ committed s t v := by
  unfold leaveTables
  rw [h]

/-- The tables after the round was told, seen from before and after changes that leave them and the round. -/
theorem leaveRound_tables {s u t : State} (a : Agent) (hkept : tableKept s u) (hvoting : u.voting = s.voting)
    (hafter : tableKept (u.leaveRound a) t) (hused : t.used = u.used) (hinUse : t.inUse = u.inUse) : leaveTables s t a := by
  have htold := (leaveRound_told u a).1
  rw [commitsAt_congr hvoting] at htold
  cases hc : s.commitsAt a with
  | none =>
    simp only [hc] at htold
    rw [leaveTables_none hc]
    exact tableKept_trans hkept (tableKept_trans htold hafter)
  | some v =>
    simp only [hc] at htold
    rw [leaveTables_some hc]
    exact committed_congr (committed_of_kept hkept htold) hafter (by simp [hused]) (by simp [hinUse])

/-! ## LEAVE (R133, R134) -/

theorem holdsNothing_false {s : State} {p : Agent} (h : s.holdsNothing p = false) : ¬s.holdsNothing p = true := by
  rw [h]
  decide

theorem leaveBy_closing {s : State} {p : Agent} (h : s.portIs p .closing) :
    s.leaveBy p = s.respond p codeLeave 1 .ok [PortState.closing.code] none :=
  if_pos h

theorem leaveBy_offline {s : State} {p : Agent} (h : s.portIs p .active) (hn : s.holdsNothing p = true) :
    s.leaveBy p = (s.leaveToOffline p).respond p codeLeave 1 .ok [PortState.offline.code] none :=
  (if_neg (by rw [State.portIs] at h; rw [h]; decide)).trans (if_pos hn)

theorem leaveBy_holding {s : State} {p : Agent} (h : s.portIs p .active) (hn : s.holdsNothing p = false) :
    s.leaveBy p = (s.leaveToClosing p).respond p codeLeave 1 .ok [PortState.closing.code] none :=
  (if_neg (by rw [State.portIs] at h; rw [h]; decide)).trans (if_neg (holdsNothing_false hn))

/-- R136: what reaching OFFLINE leaves of the other agents. -/
theorem goOffline_other (s : State) {a b : Agent} (h : b ≠ a) :
    (s.goOffline a).members[b] = s.members[b] ∧ (s.goOffline a).notices[b] = s.notices[b] ∧
      (s.goOffline a).latches[b] = s.latches[b] ∧ (s.goOffline a).watches[b] = s.watches[b] ∧
      (s.goOffline a).snapshots[b] = s.snapshots[b] := by
  have hn := Ne.symm h
  simp [-Fin.getElem_fin, State.goOffline, State.disarm, State.clearNotices, vec_get_set_ne _ _ _ _ hn]

theorem goOffline_kept (s : State) (a : Agent) : tableKept s (s.goOffline a) := by
  refine ⟨?_, ?_, ?_, ?_, ?_, ?_⟩ <;> simp

theorem goOffline_frames_request {s : State} {a : Agent} (h : (s.frames[a]).phase = .request) :
    (s.goOffline a).frames = s.frames := by
  simp only [State.goOffline, State.disarm]
  rw [zeroFillReadout_request _ _ (by simpa [-Fin.getElem_fin] using h)]
  rfl

/-- LEAVE into OFFLINE, before its response. -/
structure LeftOffline (s t : State) (p : Agent) : Prop where
  offline : wentOffline s t p
  latch : t.latches[p] = none
  told : ∀ b : Agent, b ≠ p → leaveTold s t p [] [.peerLeft p] b
  round : leftRound s t p
  tables : leaveTables s t p
  others : ∀ a : Agent, a ≠ p → t.members[a] = s.members[a] ∧ t.snapshots[a] = s.snapshots[a]
  frames : t.frames = s.frames
  frame : t = { s with
    members := t.members, snapshots := t.snapshots, voting := t.voting, table := t.table, slot := t.slot
    epoch := t.epoch, prescaleCount := t.prescaleCount, periodCount := t.periodCount
    postscaleCount := t.postscaleCount, notices := t.notices, latches := t.latches, watches := t.watches }

theorem offerPeers_frames_latches (w : State) (p : Agent) (n : Notice) : w.offerPeers p n = { w with
    notices := (w.offerPeers p n).notices, latches := (w.offerPeers p n).latches, frames := (w.offerPeers p n).frames } := by
  apply State.ext_fields <;> simp

theorem toldEach_peer (w : State) {p b : Agent} (n : Notice) (h : b ≠ p) : toldEach w (w.offerPeers p n) b [n] :=
  offerPeers_other w w p b n h rfl rfl rfl

theorem leaveTold_latch_none {s t : State} {a b : Agent} {first last : List Notice} (h : leaveTold s t a first last b)
    (hl : s.latches[b] = none) : t.latches[b] = none := by
  unfold leaveTold at h
  cases hc : s.commitsAt a with
  | none =>
    simp only [hc] at h
    exact toldEach_latch_none h.1 hl
  | some v =>
    simp only [hc] at h
    exact toldEach_latch_none h.1 hl

theorem leftOffline_spec {s : State} {p : Agent} (hphase : (s.frames[p]).phase = .request) (hn : s.holdsNothing p = true) :
    LeftOffline s (s.leaveToOffline p) p := by
  obtain ⟨hmember, -, hlatch, -⟩ := goOffline_offline s s p rfl
  have hvoting : (s.goOffline p).voting = s.voting := by simp
  have hdeparts := departs_leaveToOffline s p hn
  have hkept : tableKept ((s.goOffline p).leaveRound p) (s.leaveToOffline p) := by
    unfold tableKept
    simp [State.leaveToOffline]
  obtain ⟨-, hselfLatch⟩ := offerPeers_self ((s.goOffline p).leaveRound p) p (.peerLeft p)
  refine ⟨⟨?_, hdeparts.notices, hdeparts.snapshot, hdeparts.watches⟩, ?_, fun b hb => ?_, hdeparts.round, ?_,
    fun a ha => ?_, ?_, ?_⟩
  · simpa [-Fin.getElem_fin, State.leaveToOffline] using hmember
  · exact hselfLatch.trans (leaveTold_latch_none ((leaveRound_told (s.goOffline p) p).2 p) hlatch)
  · obtain ⟨hm, hn, hl, hw, -⟩ := goOffline_other s hb
    exact leaveTold_between ((leaveRound_told (s.goOffline p) p).2 b) (toldEach_nil hn hl) (toldEach_peer _ _ hb) hvoting
      hw (by rw [hm]) (by simp) (offerPeers_frames_latches _ _ _)
  · exact leaveRound_tables p (goOffline_kept s p) hvoting hkept (by simp [State.leaveToOffline]) (by simp [State.leaveToOffline])
  · obtain ⟨hm, -, -, -, hs⟩ := goOffline_other s ha
    exact ⟨by simpa [-Fin.getElem_fin, State.leaveToOffline] using hm,
      by simpa [-Fin.getElem_fin, State.leaveToOffline] using hs⟩
  · simpa [State.leaveToOffline] using goOffline_frames_request hphase
  · have hframes := goOffline_frames_request hphase
    apply State.ext_fields <;> simp [State.leaveToOffline, hframes]

/-- An agent that stays a member, in another state, is offered the same (R123). -/
theorem offer_of_isMember {s u : State} {b : Agent} (n : Notice) (hm : u.isMember b = s.isMember b)
    (hn : u.notices[b] = s.notices[b]) (hl : u.latches[b] = s.latches[b]) :
    (u.offer b n).notices[b] = (s.offer b n).notices[b] ∧ (u.offer b n).latches[b] = (s.offer b n).latches[b] := by
  unfold State.offer State.foldOffer State.setNotices State.setLatch
  rw [hm, hn, hl]
  split_ifs
  · cases hs : s.latches[b] with
    | none => simp [-Fin.getElem_fin, hs, hl]
    | some l => simp [-Fin.getElem_fin, hn]
  · simp [-Fin.getElem_fin, hl]
  · simp [-Fin.getElem_fin, hl]
  · exact ⟨hn, hl⟩

theorem toldEach_of_isMember {s u t : State} {b : Agent} {ns : List Notice} (h : toldEach u t b ns)
    (hm : u.isMember b = s.isMember b) (hn : u.notices[b] = s.notices[b]) (hl : u.latches[b] = s.latches[b]) :
    toldEach s t b ns := by
  have hoffers (s u : State) (hm : u.isMember b = s.isMember b) (hn : u.notices[b] = s.notices[b])
      (hl : u.latches[b] = s.latches[b]) :
      (u.offerEach (ns.map (fun n => (b, n)))).notices[b] = (s.offerEach (ns.map (fun n => (b, n)))).notices[b] ∧
        (u.offerEach (ns.map (fun n => (b, n)))).latches[b] = (s.offerEach (ns.map (fun n => (b, n)))).latches[b] := by
    clear h
    induction ns generalizing s u with
    | nil => exact ⟨hn, hl⟩
    | cons n rest ih =>
      obtain ⟨hnext, hnextLatch⟩ := offer_of_isMember n hm hn hl
      exact ih (s.offer b n) (u.offer b n)
        ((isMember_congr b (by simp)).trans (hm.trans (isMember_congr b (by simp)).symm)) hnext hnextLatch
  obtain ⟨hnotices, hlatches⟩ := hoffers s u hm hn hl
  exact ⟨h.1.trans hnotices, h.2.trans hlatches⟩

/-- The offers of a departure that follow a change of member records in which agent `b` stays what it was to offers. -/
theorem leaveTold_of_isMember {s t : State} {a b : Agent} {first last : List Notice} (records : Vector Member 4)
    (h : leaveTold { s with members := records } t a first last b)
    (hm : ({ s with members := records } : State).isMember b = s.isMember b) : leaveTold s t a first last b := by
  unfold leaveTold at h ⊢
  rw [commitsAt_congr (s := s) (u := { s with members := records }) rfl,
    withdrawnTo_congr (s := s) (u := { s with members := records }) rfl] at h
  cases hc : s.commitsAt a with
  | none =>
    simp only [hc] at h ⊢
    exact ⟨toldEach_of_isMember h.1 hm rfl rfl, h.2⟩
  | some v =>
    simp only [hc] at h ⊢
    exact ⟨toldEach_of_isMember h.1 hm rfl rfl, h.2⟩

theorem isMember_closing {s : State} {p : Agent} (h : s.portIs p .active) (b : Agent) :
    (s.setMember p { s.members[p] with state := .closing }).isMember b = s.isMember b := by
  rw [State.portIs] at h
  unfold State.isMember State.setMember
  by_cases hb : b = p
  · subst hb
    rw [vec_get_set_same, h]
  · rw [vec_get_set_ne _ _ _ _ (Ne.symm hb)]

/-- LEAVE into CLOSING, before its response. -/
structure LeftClosing (s t : State) (p : Agent) : Prop where
  member : t.members[p] = { s.members[p] with state := .closing }
  snapshots : t.snapshots = s.snapshots
  told : ∀ b : Agent, leaveTold s t p [] [] b
  round : leftRound s t p
  tables : leaveTables s t p
  others : ∀ a : Agent, a ≠ p → t.members[a] = s.members[a]
  frames : t.frames = s.frames
  frame : t = { s with
    members := t.members, snapshots := t.snapshots, voting := t.voting, table := t.table, slot := t.slot, epoch := t.epoch
    prescaleCount := t.prescaleCount, periodCount := t.periodCount, postscaleCount := t.postscaleCount
    notices := t.notices, latches := t.latches, watches := t.watches }

theorem leftClosing_spec {s : State} {p : Agent} (h : s.portIs p .active) : LeftClosing s (s.leaveToClosing p) p := by
  have hkept : tableKept s (s.setMember p { s.members[p] with state := .closing }) := ⟨rfl, rfl, rfl, rfl, rfl, rfl⟩
  refine ⟨?_, ?_, fun b => ?_, ?_, ?_, fun a ha => ?_, ?_, ?_⟩
  · simp [-Fin.getElem_fin, State.leaveToClosing]
  · simp [State.leaveToClosing]
  · exact leaveTold_of_isMember _ ((leaveRound_told (s.setMember p { s.members[p] with state := .closing }) p).2 b)
      (isMember_closing h b)
  · exact leftRound_congr (leaveRound_leftRound s (s.setMember p { s.members[p] with state := .closing }) p rfl) rfl rfl
  · exact leaveRound_tables p hkept rfl ⟨rfl, rfl, rfl, rfl, rfl, rfl⟩ (by simp [State.leaveToClosing]) (by simp [State.leaveToClosing])
  · simp [-Fin.getElem_fin, State.leaveToClosing, vec_get_set_ne _ _ _ _ (Ne.symm ha)]
  · simp [State.leaveToClosing]
  · apply State.ext_fields <;> simp [State.leaveToClosing]

/-- Settles O17. -/
theorem leaveEndsMembership : Obligations.LeaveEndsMembership := by
  intro s p ⟨⟨hq, ho⟩, hs⟩ hj
  obtain ⟨-, hphase, -⟩ := (State.requestOpen_iff s p).mp ho
  have hexec : exec (.leave p) s = .next (s.leaveBy p) := by
    rw [← State.transact_joined ho hs hj codeLeave 1 (s.leaveBy p)]
    exact quiet_next hq (·.answerLeave p)
  rcases hj with hactive | hclosing
  · have hnot : ¬s.portIs p .closing := by
      rw [State.portIs] at hactive ⊢
      rw [hactive]
      decide
    cases hn : s.holdsNothing p with
    | true =>
      rw [leaveBy_offline hactive hn] at hexec
      have hleft := leftOffline_spec hphase hn
      generalize s.leaveToOffline p = w at hexec hleft
      exact ⟨_, hexec, fun h => absurd h hnot,
        fun _ _ => ⟨respond_answers s w p _ _ _ _ _ hleft.frames, hleft.offline, hleft.latch, hleft.told⟩,
        fun _ h => absurd h (by decide), fun _ => ⟨hleft.round, hleft.tables⟩, hleft.others,
        respond_frame hleft.frame p _ _ _ _ _⟩
    | false =>
      rw [leaveBy_holding hactive hn] at hexec
      have hleft := leftClosing_spec hactive
      generalize s.leaveToClosing p = w at hexec hleft
      exact ⟨_, hexec, fun h => absurd h hnot, fun _ h => absurd h (by decide),
        fun _ _ => ⟨respond_answers s w p _ _ _ _ _ hleft.frames, hleft.member, hleft.snapshots, hleft.told⟩,
        fun _ => ⟨hleft.round, hleft.tables⟩, fun a ha => ⟨hleft.others a ha, by rw [← hleft.snapshots]; rfl⟩,
        respond_frame hleft.frame p _ _ _ _ _⟩
  · have hnot : ¬s.portIs p .active := by
      rw [State.portIs] at hclosing ⊢
      rw [hclosing]
      decide
    rw [leaveBy_closing hclosing] at hexec
    exact ⟨_, hexec, fun _ => ⟨respond_answers s s p _ _ _ _ _ rfl, rfl⟩, fun h => absurd h hnot, fun h => absurd h hnot,
      fun h => absurd h hnot, fun a ha => ⟨rfl, rfl⟩, rfl⟩

end Sys2Proof.Machine

/-! ACK, NACK and RECALL (O28, O29, O30): the release of one admitted message, as its transaction sees it. -/

namespace Sys2Proof.Machine

/-! ## The release of one admitted message (R42) -/

/-- The state of the store, the descriptors and the tables that a release of an admitted message leaves, with what it
offers; `first` is the notice of its path. -/
structure Released (s t : State) (d : DescId) (m : Message) (first : Agent → List Notice) : Prop where
  dropped : dropped s t d m
  drained : drained s t m.dest
  fitTested : fitTested s t
  told : ∀ b : Agent, releaseTold s t (s.leaverAt t m.dest) (first b) b
  frames : ∀ b : Agent, b ≠ m.dest → t.frames[b] = s.frames[b]
  port : if s.leaverAt t m.dest = some m.dest then drainedFrame s.frames[m.dest] t.frames[m.dest]
    else t.frames[m.dest] = s.frames[m.dest]

theorem leaverAt_eq_some {s t : State} {a : Agent} :
    s.leaverAt t a = some a ↔ s.portIs a .closing ∧ t.holdsNothing a = true := by
  unfold State.leaverAt
  split_ifs with h
  · exact iff_of_true rfl h
  · exact iff_of_false not_false h

theorem finishRelease_frames (u : State) (d : DescId) (m : Message) (adm : Admission) (path : RemovalPath) :
    (∀ b : Agent, b ≠ m.dest → (u.finishRelease d m adm path).frames[b] = u.frames[b]) ∧
      if u.leaverAt (u.finishRelease d m adm path) m.dest = some m.dest then
        drainedFrame u.frames[m.dest] (u.finishRelease d m adm path).frames[m.dest]
      else (u.finishRelease d m adm path).frames[m.dest] = u.frames[m.dest] := by
  set v := (u.dropRecord d m).offerOptional m.source (removalNotice path m adm) with hv
  have ht : u.finishRelease d m adm path = (v.drainTest m.dest).runFitTest := rfl
  have hframes : (u.finishRelease d m adm path).frames = (v.drainTest m.dest).frames := by rw [ht]; simp
  have hvframes : v.frames = u.frames := by simp [hv]
  have hvmembers : v.members = u.members := by simp [hv]
  have hholds : (u.finishRelease d m adm path).holdsNothing m.dest = v.holdsNothing m.dest := by
    rw [ht]
    simp [-Fin.getElem_fin, State.holdsNothing]
  have hleaver : u.leaverAt (u.finishRelease d m adm path) m.dest = some m.dest ↔
      v.portIs m.dest .closing ∧ v.holdsNothing m.dest = true := by
    rw [leaverAt_eq_some, hholds, State.portIs, State.portIs, hvmembers]
  rw [hframes, ← hvframes]
  refine ⟨fun b hb => drainTest_frames_ne v m.dest b hb, ?_⟩
  by_cases h : v.portIs m.dest .closing ∧ v.holdsNothing m.dest = true
  · rw [if_pos (hleaver.mpr h)]
    exact drainTest_drainedFrame h.1 h.2
  · rw [if_neg (fun hl => h (hleaver.mp hl))]
    have hstill := (drain_spec v m.dest).2
    rw [if_neg h] at hstill
    rw [hstill]

theorem finishRelease_released (u : State) (d : DescId) (m : Message) (adm : Admission) (path : RemovalPath) :
    Released u (u.finishRelease d m adm path) d m (removalTo path m adm) := by
  obtain ⟨hfit, htold⟩ := finish_told u d m adm path
  obtain ⟨hframes, hport⟩ := finishRelease_frames u d m adm path
  exact ⟨finish_dropped u d m adm path, finish_drained u d m adm path, hfit, htold, hframes, hport⟩

/-- A release is seen alike from before the message has left its queue or its hand slot. -/
theorem Released.before {s u t : State} {d : DescId} {m : Message} {first : Agent → List Notice}
    (h : Released u t d m first) (hu : u = { s with queues := u.queues, hands := u.hands }) : Released s t d m first := by
  obtain ⟨queues, hands, rfl⟩ : ∃ q h, u = { s with queues := q, hands := h } := ⟨_, _, hu⟩
  obtain ⟨hdropped, hdrained, hfit, htold, hframes, hport⟩ := h
  exact ⟨hdropped, hdrained, hfit, fun b => releaseTold_congr (htold b) rfl rfl rfl rfl rfl, hframes, hport⟩

theorem release_inHand_released {s : State} {d : DescId} {m : Message} {adm : Admission} (path : RemovalPath)
    (hd : s.descs[d] = .inHand m adm) : Released s (s.release d path) d m (removalTo path m adm) := by
  rw [release_inHand s d m adm path hd]
  exact (finishRelease_released _ d m adm path).before rfl

theorem release_queued_released {s : State} {d : DescId} {m : Message} {adm : Admission} (path : RemovalPath)
    (hd : s.descs[d] = .queued m adm) : Released s (s.release d path) d m (removalTo path m adm) := by
  rw [release_queued s d m adm path hd]
  exact (finishRelease_released _ d m adm path).before rfl

/-- A caller whose request has just completed has nothing to zero-fill. -/
theorem drainedFrame_request {f g : Framing} (h : f.phase = .request) (hd : drainedFrame f g) : g = f := by
  unfold drainedFrame at hd
  rwa [if_neg (by rw [h]; simp)] at hd

theorem Released.frames_request {s t : State} {d : DescId} {m : Message} {first : Agent → List Notice}
    (h : Released s t d m first) (hp : (s.frames[m.dest]).phase = .request) : t.frames = s.frames := by
  have hport := h.port
  have hdest : t.frames[m.dest] = s.frames[m.dest] := by
    split_ifs at hport
    · exact drainedFrame_request hp hport
    · exact hport
  refine Vector.ext fun i hi => ?_
  by_cases hb : (⟨i, hi⟩ : Agent) = m.dest
  · exact (congrArg (fun a : Agent => t.frames[a] = s.frames[a]) hb).mpr hdest
  · exact h.frames ⟨i, hi⟩ hb

/-! ## ACK (R82, R83) -/

theorem namedInHand_none {s : State} {p : Agent} {k : MsgClass} {tag : Half}
    (h : ∀ d m adm, (s.hands[p]).get k = some d → s.descs[d] = .inHand m adm → adm.tag ≠ tag) :
    s.namedInHand p k tag = none := by
  cases hn : s.namedInHand p k tag with
  | none => rfl
  | some x =>
    obtain ⟨d, m, adm⟩ := x
    obtain ⟨hhand, htag⟩ := namedInHand_spec hn
    exact absurd htag (h d m adm (handMessage_slot hhand) (handMessage_inHand hhand))

theorem namedInHand_some {s : State} {p : Agent} {k : MsgClass} {d : DescId} {m : Message} {adm : Admission}
    (h : (s.hands[p]).get k = some d) (hd : s.descs[d] = .inHand m adm) :
    s.namedInHand p k adm.tag = some (d, m, adm) := by
  unfold State.namedInHand
  rw [handMessage_of s p k d m adm h hd]
  exact if_pos rfl

theorem exec_ack {s : State} {p : Agent} (h : s.ready p) (hj : s.joined p) (cls : Byte) (tag : Half) :
    exec (.ack p cls tag) s = .next (s.ackBy p cls tag) := by
  obtain ⟨⟨hq, ho⟩, hs⟩ := h
  rw [← State.transact_joined ho hs hj codeAck 4 (s.ackBy p cls tag)]
  exact quiet_next hq (·.answerAck p cls tag)

theorem ackBy_badarg {s : State} {p : Agent} {cls : Byte} (tag : Half) (h : 2 < cls.toNat) :
    s.ackBy p cls tag = s.respond p codeAck 4 .badarg [] none := by
  unfold State.ackBy
  rw [(classOfCode_eq_none cls).mpr h]

theorem ackBy_notInHand {s : State} {p : Agent} {k : MsgClass} {tag : Half} (h : s.namedInHand p k tag = none) :
    s.ackBy p (classCode k) tag = s.respond p codeAck 4 .notInHand [] none := by
  unfold State.ackBy
  rw [classOfCode_code]
  simp only [h]

theorem ackBy_accepted {s : State} {p : Agent} {k : MsgClass} {tag : Half} {d : DescId} {m : Message} {adm : Admission}
    (h : s.namedInHand p k tag = some (d, m, adm)) :
    s.ackBy p (classCode k) tag = (s.release d .acked).respond p codeAck 4 .ok [] none := by
  unfold State.ackBy
  rw [classOfCode_code]
  simp only [h]

theorem removalTo_acked (m : Message) (adm : Admission) (b : Agent) : removalTo .acked m adm b =
    if m.receipt = true ∧ b = m.source then [.delivered m.dest m.cls adm.tag] else [] := by
  unfold removalTo removalNotice
  cases hr : m.receipt <;> simp

theorem removalTo_rejected (m : Message) (adm : Admission) (b : Agent) :
    removalTo .rejected m adm b = if b = m.source then [.rejected m.dest m.cls adm.tag] else [] := rfl

/-- What the release of an in-hand message leaves of the hand slots and the queues, and what it can touch. -/
theorem release_inHand_slots {s : State} {d : DescId} {m : Message} {adm : Admission} (path : RemovalPath)
    (hd : s.descs[d] = .inHand m adm) :
    ((s.release d path).hands[m.dest]).get m.cls = none ∧
      (∀ (a : Agent) (j : MsgClass), a ≠ m.dest ∨ j ≠ m.cls →
        ((s.release d path).hands[a]).get j = (s.hands[a]).get j) ∧
      s.release d path = { s with
        cellMap := (s.release d path).cellMap, scrubQueue := (s.release d path).scrubQueue
        engine := (s.release d path).engine, clearLeft := (s.release d path).clearLeft
        descs := (s.release d path).descs, inUse := (s.release d path).inUse, hands := (s.release d path).hands
        members := (s.release d path).members, snapshots := (s.release d path).snapshots
        frames := (s.release d path).frames, table := (s.release d path).table, slot := (s.release d path).slot
        epoch := (s.release d path).epoch, prescaleCount := (s.release d path).prescaleCount
        periodCount := (s.release d path).periodCount, postscaleCount := (s.release d path).postscaleCount
        notices := (s.release d path).notices, latches := (s.release d path).latches
        watches := (s.release d path).watches } := by
  rw [release_inHand s d m adm path hd]
  obtain ⟨hslot, hothers⟩ := hands_without s ((s.setHand m.dest m.cls none).finishRelease d m adm path) m.dest m.cls
    (by simp)
  refine ⟨hslot, hothers, ?_⟩
  apply State.ext_fields <;> simp

/-- Settles O28. -/
theorem ackReleasesTheMessageInHand : Obligations.AckReleasesTheMessageInHand := by
  intro s p cls tag hready hj hplace
  have hexec := exec_ack hready hj cls tag
  obtain ⟨-, hphase, -⟩ := (State.requestOpen_iff s p).mp hready.1.2
  refine ⟨fun hcls => ?_, fun k hk => ⟨fun hnone => ?_, fun d m adm hslot hd htag => ?_⟩⟩
  · rw [ackBy_badarg tag hcls] at hexec
    exact ⟨_, hexec, respond_answers s s p _ _ _ _ _ rfl, rfl⟩
  · rw [← hk, ackBy_notInHand (namedInHand_none hnone)] at hexec
    rw [← hk]
    exact ⟨_, hexec, respond_answers s s p _ _ _ _ _ rfl, rfl⟩
  · obtain ⟨m', adm', hd', rfl, rfl⟩ := hplace.hand hslot
    obtain ⟨rfl, rfl⟩ : m = m' ∧ adm = adm' := by simpa [hd] using hd'
    subst htag hk
    rw [ackBy_accepted (namedInHand_some hslot hd)] at hexec
    have hreleased := release_inHand_released .acked hd
    obtain ⟨hempty, hothers, hframe⟩ := release_inHand_slots .acked hd
    have hframes := hreleased.frames_request hphase
    generalize s.release d .acked = w at *
    refine ⟨_, hexec, respond_answers s w _ _ _ _ _ _ hframes, hreleased.dropped, hempty, hothers, hreleased.drained,
      hreleased.fitTested, fun b => ?_, respond_frame hframe _ _ _ _ _ _⟩
    rw [← removalTo_acked]
    exact hreleased.told b

/-! ## NACK (R84 to R86) -/

theorem exec_nack {s : State} {p : Agent} (h : s.ready p) (hj : s.joined p) (cls : Byte) (tag : Half) :
    exec (.nack p cls tag) s = .next (s.nackBy p cls tag) := by
  obtain ⟨⟨hq, ho⟩, hs⟩ := h
  rw [← State.transact_joined ho hs hj codeNack 4 (s.nackBy p cls tag)]
  exact quiet_next hq (·.answerNack p cls tag)

theorem nackBy_badarg {s : State} {p : Agent} {cls : Byte} (tag : Half) (h : 2 < cls.toNat) :
    s.nackBy p cls tag = s.respond p codeNack 4 .badarg [] none := by
  unfold State.nackBy
  rw [(classOfCode_eq_none cls).mpr h]

theorem nackBy_notInHand {s : State} {p : Agent} {k : MsgClass} {tag : Half} (h : s.namedInHand p k tag = none) :
    s.nackBy p (classCode k) tag = s.respond p codeNack 4 .notInHand [] none := by
  unfold State.nackBy
  rw [classOfCode_code]
  simp only [h]

theorem nackBy_accepted {s : State} {p : Agent} {k : MsgClass} {tag : Half} {d : DescId} {m : Message} {adm : Admission}
    (h : s.namedInHand p k tag = some (d, m, adm)) :
    s.nackBy p (classCode k) tag = (s.returnOrReject d m adm).respond p codeNack 4 .ok (s.nackBytes m) none := by
  unfold State.nackBy
  rw [classOfCode_code]
  simp only [h]

theorem returnOrReject_returned {s : State} {m : Message} (d : DescId) (adm : Admission)
    (h : m.redeliveries + 1 ≤ s.table.redelivery.get m.cls) :
    s.returnOrReject d m adm = s.returnToQueue d m adm ∧ s.nackBytes m = [0x00, BitVec.ofNat 8 (m.redeliveries + 1)] := by
  have hwithin : s.pastLimit m = false := decide_eq_false (Nat.not_lt.mpr h)
  unfold State.returnOrReject State.nackBytes
  rw [hwithin]
  exact ⟨rfl, rfl⟩

theorem returnOrReject_rejected {s : State} {m : Message} (d : DescId) (adm : Admission)
    (h : s.table.redelivery.get m.cls < m.redeliveries + 1) :
    s.returnOrReject d m adm = s.release d .rejected ∧
      s.nackBytes m = [0x01, BitVec.ofNat 8 (m.redeliveries + 1)] := by
  have hpast : s.pastLimit m = true := decide_eq_true h
  unfold State.returnOrReject State.nackBytes
  rw [hpast]
  exact ⟨rfl, rfl⟩

/-- Settles O29. -/
theorem nackReturnsOrRejects : Obligations.NackReturnsOrRejects := by
  intro s p cls tag hready hj hplace
  have hexec := exec_nack hready hj cls tag
  obtain ⟨-, hphase, -⟩ := (State.requestOpen_iff s p).mp hready.1.2
  have hnamed {k : MsgClass} {d : DescId} {m : Message} {adm : Admission} (hslot : (s.hands[p]).get k = some d)
      (hd : s.descs[d] = .inHand m adm) : m.dest = p ∧ m.cls = k := by
    obtain ⟨m', adm', hd', hdest, hcls⟩ := hplace.hand hslot
    obtain ⟨rfl, rfl⟩ : m = m' ∧ adm = adm' := by simpa [hd] using hd'
    exact ⟨hdest, hcls⟩
  refine ⟨fun hcls => ?badarg, fun k hk => ⟨fun hnone => ?notInHand, fun d m adm hslot hd htag hlimit => ?returned,
    fun d m adm hslot hd htag hlimit => ?rejected⟩⟩
  case badarg =>
    rw [nackBy_badarg tag hcls] at hexec
    exact ⟨_, hexec, respond_answers s s p _ _ _ _ _ rfl, rfl⟩
  case notInHand =>
    rw [← hk, nackBy_notInHand (namedInHand_none hnone)] at hexec
    rw [← hk]
    exact ⟨_, hexec, respond_answers s s p _ _ _ _ _ rfl, rfl⟩
  case returned =>
    obtain ⟨rfl, rfl⟩ := hnamed hslot hd
    obtain ⟨hreturn, hbytes⟩ := returnOrReject_returned d adm hlimit
    subst htag hk
    rw [nackBy_accepted (namedInHand_some hslot hd), hreturn, hbytes] at hexec
    obtain ⟨hdesc, hdescs, hqueue, hqueues⟩ := return_spec s d m adm
    obtain ⟨hempty, hothers⟩ := hands_without s (s.returnToQueue d m adm) m.dest m.cls rfl
    have hframe := State.returnToQueue_frame s d m adm
    have hframes : (s.returnToQueue d m adm).frames = s.frames := by simp
    generalize s.returnToQueue d m adm = w at *
    exact ⟨_, hexec, respond_answers s w _ _ _ _ _ _ hframes, hdesc, hdescs, hqueue, hempty,
      fun a j haj => ⟨hqueues a j haj, hothers a j haj⟩, respond_frame hframe _ _ _ _ _ _⟩
  case rejected =>
    obtain ⟨rfl, rfl⟩ := hnamed hslot hd
    obtain ⟨hreject, hbytes⟩ := returnOrReject_rejected d adm hlimit
    subst htag hk
    rw [nackBy_accepted (namedInHand_some hslot hd), hreject, hbytes] at hexec
    have hreleased := release_inHand_released .rejected hd
    obtain ⟨hempty, hothers, hframe⟩ := release_inHand_slots .rejected hd
    have hframes := hreleased.frames_request hphase
    generalize s.release d .rejected = w at *
    refine ⟨_, hexec, respond_answers s w _ _ _ _ _ _ hframes, hreleased.dropped, hempty, hothers, hreleased.drained,
      hreleased.fitTested, fun b => ?_, respond_frame hframe _ _ _ _ _ _⟩
    rw [← removalTo_rejected]
    exact hreleased.told b

/-! ## RECALL (R46, R47) -/

theorem exec_recall {s : State} {p : Agent} (h : s.ready p) (hj : s.joined p) (dest cls : Byte) (tag : Half) :
    exec (.recallMessage p dest cls tag) s = .next (s.recallBy p dest cls tag) := by
  obtain ⟨⟨hq, ho⟩, hs⟩ := h
  rw [← State.transact_joined ho hs hj codeRecall 5 (s.recallBy p dest cls tag)]
  exact quiet_next hq (·.answerRecall p dest cls tag)

theorem recallBy_badarg {s : State} {p : Agent} {cls : Byte} (dest : Byte) (tag : Half) (h : 2 < cls.toNat) :
    s.recallBy p dest cls tag = s.respond p codeRecall 5 .badarg [] none := by
  unfold State.recallBy
  rw [(classOfCode_eq_none cls).mpr h]

theorem recallBy_baddest {s : State} {p : Agent} {dest cls : Byte} (tag : Half) (hcls : cls.toNat ≤ 2)
    (h : 3 < dest.toNat ∨ dest.toNat = p.val) :
    s.recallBy p dest cls tag = s.respond p codeRecall 5 .baddest [] none := by
  unfold State.recallBy
  cases hk : classOfCode cls with
  | none => exact absurd ((classOfCode_eq_none cls).mp hk) (Nat.not_lt.mpr hcls)
  | some k =>
    rcases h with h | h
    · simp only [(agentOfCode_eq_none dest).mpr h]
    · simp only [(agentOfCode_eq_some dest p).mpr h.symm, if_true]

theorem recallBy_search {s : State} {p d : Agent} {k : MsgClass} {dest : Byte} (tag : Half) (hd : d.val = dest.toNat)
    (hne : d ≠ p) : s.recallBy p dest (classCode k) tag = s.recallSearch p d k tag := by
  unfold State.recallBy
  rw [classOfCode_code]
  simp only [(agentOfCode_eq_some dest d).mpr hd]
  exact if_neg hne

theorem isRecalled_queued {s : State} {p : Agent} {tag : Half} {x : DescId} {m : Message} {adm : Admission}
    (h : s.descs[x] = .queued m adm) : s.isRecalled p tag x = true ↔ m.source = p ∧ adm.tag = tag := by
  unfold State.isRecalled
  rw [h]
  simp

/-- R47: no queued message is the one named. -/
theorem recallFind_none {s : State} (hplace : PlaceLaw s) {p d : Agent} {k : MsgClass} {tag : Half}
    (h : ∀ (x : DescId) m adm, s.descs[x] = .queued m adm → m.source = p → m.dest = d → m.cls = k → adm.tag ≠ tag) :
    ((s.queues[d]).get k).find? (s.isRecalled p tag) = none := by
  refine List.find?_eq_none.mpr fun x hx => ?_
  obtain ⟨m, adm, hdesc, hdest, hcls⟩ := hplace.queue hx
  rw [isRecalled_queued hdesc]
  exact fun ⟨hsource, htag⟩ => h x m adm hdesc hsource hdest hcls htag

/-- R32: the queued message named is found, and no other. -/
theorem recallFind_some {s : State} (hplace : PlaceLaw s) (htags : TagLaw s) {x : DescId} {m : Message} {adm : Admission}
    (h : s.descs[x] = .queued m adm) :
    ((s.queues[m.dest]).get m.cls).find? (s.isRecalled m.source adm.tag) = some x := by
  cases hf : ((s.queues[m.dest]).get m.cls).find? (s.isRecalled m.source adm.tag) with
  | none => exact absurd ((isRecalled_queued h).mpr ⟨rfl, rfl⟩) (List.find?_eq_none.mp hf x (hplace.queued h))
  | some y =>
    obtain ⟨m', adm', hy, -⟩ := hplace.queue (List.mem_of_find?_eq_some hf)
    obtain ⟨hsource, htag⟩ := (isRecalled_queued hy).mp (List.find?_some hf)
    obtain ⟨-, -, hapart⟩ := htags
    rw [hapart x y m m' adm adm' (admitted_queued h) (admitted_queued hy) hsource.symm htag.symm]

theorem heldByDest_iff {s : State} (hplace : PlaceLaw s) (p d : Agent) (k : MsgClass) (tag : Half) :
    s.heldByDest p d k tag = true ↔ ∃ (x : DescId) (m : Message) (adm : Admission), s.descs[x] = .inHand m adm ∧
      m.source = p ∧ m.dest = d ∧ m.cls = k ∧ adm.tag = tag := by
  unfold State.heldByDest
  constructor
  · intro h
    cases hh : s.handMessage d k with
    | none => simp [hh] at h
    | some y =>
      obtain ⟨x, m, adm⟩ := y
      have hdesc := handMessage_inHand hh
      obtain ⟨m', adm', hdesc', hdest, hcls⟩ := hplace.hand (handMessage_slot hh)
      obtain ⟨rfl, rfl⟩ : m = m' ∧ adm = adm' := by simpa [hdesc] using hdesc'
      obtain ⟨hsource, htag⟩ : m.source = p ∧ adm.tag = tag := by simpa [hh] using h
      exact ⟨x, m, adm, hdesc, hsource, hdest, hcls, htag⟩
  · rintro ⟨x, m, adm, hdesc, rfl, rfl, rfl, rfl⟩
    rw [handMessage_of s m.dest m.cls x m adm (hplace.inHand hdesc) hdesc]
    simp

theorem recallSearch_found {s : State} {p d : Agent} {k : MsgClass} {tag : Half} {x : DescId}
    (h : ((s.queues[d]).get k).find? (s.isRecalled p tag) = some x) :
    s.recallSearch p d k tag = (s.release x .recalled).respond p codeRecall 5 .ok [] none := by
  unfold State.recallSearch
  rw [h]

theorem recallSearch_none {s : State} {p d : Agent} {k : MsgClass} {tag : Half}
    (h : ((s.queues[d]).get k).find? (s.isRecalled p tag) = none) :
    s.recallSearch p d k tag =
      s.respond p codeRecall 5 (if s.heldByDest p d k tag = true then .inHand else .unknownTag) [] none := by
  unfold State.recallSearch
  rw [h]
  exact (apply_ite (fun r => s.respond p codeRecall 5 r [] none) _ _ _).symm

/-- What the release of a queued message leaves of the queues, and what it can touch. -/
theorem release_queued_queues {s : State} {d : DescId} {m : Message} {adm : Admission} (path : RemovalPath)
    (hd : s.descs[d] = .queued m adm) :
    ((s.release d path).queues[m.dest]).get m.cls = ((s.queues[m.dest]).get m.cls).filter (fun x => x ≠ d) ∧
      (∀ (a : Agent) (j : MsgClass), a ≠ m.dest ∨ j ≠ m.cls →
        ((s.release d path).queues[a]).get j = (s.queues[a]).get j) ∧
      s.release d path = { s with
        cellMap := (s.release d path).cellMap, scrubQueue := (s.release d path).scrubQueue
        engine := (s.release d path).engine, clearLeft := (s.release d path).clearLeft
        descs := (s.release d path).descs, inUse := (s.release d path).inUse, queues := (s.release d path).queues
        members := (s.release d path).members, snapshots := (s.release d path).snapshots
        frames := (s.release d path).frames, table := (s.release d path).table, slot := (s.release d path).slot
        epoch := (s.release d path).epoch, prescaleCount := (s.release d path).prescaleCount
        periodCount := (s.release d path).periodCount, postscaleCount := (s.release d path).postscaleCount
        notices := (s.release d path).notices, latches := (s.release d path).latches
        watches := (s.release d path).watches } := by
  rw [release_queued s d m adm path hd]
  generalize hq : ((s.queues[m.dest]).get m.cls).filter (fun x => x ≠ d) = q
  have hqueues : ((s.setQueue m.dest m.cls q).finishRelease d m adm path).queues = (s.setQueue m.dest m.cls q).queues := by
    simp
  refine ⟨?_, fun a j haj => ?_, ?_⟩
  · rw [hqueues, setQueue_get, if_pos ⟨rfl, rfl⟩]
  · rw [hqueues, setQueue_get, if_neg]
    rintro ⟨rfl, rfl⟩
    simp at haj
  · apply State.ext_fields <;> simp

/-- Settles O30. -/
theorem recallReleasesAQueuedMessage : Obligations.RecallReleasesAQueuedMessage := by
  intro s p dest cls tag hready hj hplace htags r
  have hexec := exec_recall hready hj dest cls tag
  refine ⟨fun hr => ?refused, fun x m adm hdesc hsource hne hdest hcls htag => ?recalled⟩
  case refused =>
    have hby : s.recallBy p dest cls tag = s.respond p codeRecall 5 r [] none := by
      rcases hr with ⟨hcls, rfl⟩ | ⟨hcls, hdest, rfl⟩ | ⟨k, d, rfl, hd, hne, hqueued, hr⟩
      · exact recallBy_badarg dest tag hcls
      · exact recallBy_baddest tag hcls hdest
      · rw [recallBy_search tag hd hne, recallSearch_none (recallFind_none hplace hqueued)]
        rcases hr with ⟨hhand, rfl⟩ | ⟨hhand, rfl⟩
        · rw [if_pos ((heldByDest_iff hplace p d k tag).mpr hhand)]
        · rw [if_neg fun h => ?_]
          obtain ⟨x, m, adm, hdesc, hsource, hdest, hcls, htag⟩ := (heldByDest_iff hplace p d k tag).mp h
          exact hhand x m adm hdesc hsource hdest hcls htag
    rw [hby] at hexec
    exact ⟨_, hexec, respond_answers s s p _ _ _ _ _ rfl, rfl⟩
  case recalled =>
    obtain ⟨-, hphase, -⟩ := (State.requestOpen_iff s p).mp hready.1.2
    subst hsource hcls htag
    rw [recallBy_search _ hdest hne, recallSearch_found (recallFind_some hplace htags hdesc)] at hexec
    have hreleased := release_queued_released .recalled hdesc
    obtain ⟨hqueue, hqueues, hframe⟩ := release_queued_queues .recalled hdesc
    have hcaller := hreleased.frames m.source (Ne.symm hne)
    generalize s.release x .recalled = w at *
    obtain ⟨hport, hothers⟩ := respond_answers w w m.source codeRecall 5 .ok [] none rfl
    refine ⟨_, hexec, hreleased.dropped, hqueue, hqueues, ?_, fun q hq hqd => ?_, hreleased.drained, ?_,
      hreleased.fitTested, hreleased.told, respond_frame hframe _ _ _ _ _ _⟩
    · rw [hport, hcaller]
      rfl
    · rw [hothers q hq]
      exact hreleased.frames q hqd
    · rw [hothers m.dest hne]
      exact hreleased.port

end Sys2Proof.Machine

/-! FETCH (O27). -/

namespace Sys2Proof.Machine

/-! ## The class a selector names (R73, R76) -/

theorem exec_fetch {s : State} {p : Agent} (h : s.ready p) (hj : s.joined p) (sel : Byte) :
    exec (.fetch p sel) s = .next (s.answerFetch p sel) ∧
      s.answerFetch p sel = match selectorOfCode sel with
        | none => s.respond p codeFetch 2 .badarg [] none
        | some x => s.fetchBy p x := by
  obtain ⟨⟨hq, ho⟩, hs⟩ := h
  exact ⟨quiet_next hq (·.answerFetch p sel), State.transact_joined ho hs hj codeFetch 2 _⟩

theorem selectorOfCode_three : selectorOfCode 3 = some .any := rfl

theorem selectorOfCode_of_class {sel : Byte} {k : MsgClass} (h : classOfCode sel = some k) :
    selectorOfCode sel = some (.one k) := by
  have hcode := (classOfCode_eq_some sel k).mp h
  have hne : sel ≠ 3 := by
    rintro rfl
    cases k <;> exact absurd hcode (by decide)
  unfold selectorOfCode
  rw [if_neg hne, h]
  rfl

theorem selectorOfCode_none {sel : Byte} (h : 3 < sel.toNat) : selectorOfCode sel = none := by
  have hne : sel ≠ 3 := by
    rintro rfl
    exact absurd h (by decide)
  unfold selectorOfCode
  rw [if_neg hne, (classOfCode_eq_none sel).mpr (by omega)]
  rfl

/-- What class `k` has for agent `p`: a message in hand or one waiting. -/
theorem offersClass_iff (s : State) (p : Agent) (k : MsgClass) :
    (((s.hands[p]).get k).isSome || !((s.queues[p]).get k).isEmpty) = true ↔
      (s.hands[p]).get k ≠ none ∨ (s.queues[p]).get k ≠ [] := by
  simp [-Fin.getElem_fin, Option.isSome_iff_ne_none]

theorem fetch_class {s : State} {p : Agent} {sel : Byte} {k : MsgClass} (h : s.ready p) (hj : s.joined p)
    (hsel : selects s p sel k) : exec (.fetch p sel) s = .next (s.fetchClass p k) := by
  obtain ⟨hexec, hbody⟩ := exec_fetch h hj sel
  rcases hsel with hclass | ⟨rfl, hoffers, hfirst⟩
  · rw [hexec, hbody, selectorOfCode_of_class hclass]
    rfl
  · have hany : s.selectAny p = some k := by
      refine selectFirst_eq _ k ((offersClass_iff s p k).mpr hoffers) fun j hj => ?_
      obtain ⟨hhand, hqueue⟩ := hfirst j hj
      simp [-Fin.getElem_fin, hhand, hqueue]
    rw [hexec, hbody, selectorOfCode_three]
    refine congrArg _ ?_
    unfold State.fetchBy State.selectClass
    rw [hany]

/-! ## The delivery response (R78, R190) -/

/-- R190: the flags byte of a delivery. -/
theorem fetchFlags_eq (m : Message) (repeated : Bool) : fetchFlags m repeated = BitVec.ofNat 8
    ((if m.receipt then 1 else 0) + (if m.corr = .absent then 0 else 2) + (if repeated then 4 else 0)) := by
  unfold fetchFlags
  cases m.receipt <;> cases repeated <;> by_cases hc : m.corr = .absent <;> simp [hc]

/-- R78, R190: the response of a delivery, written out. -/
theorem deliveryBytes_eq (s : State) (m : Message) (adm : Admission) (repeated : Bool) : s.deliveryBytes m adm repeated =
    [BitVec.ofNat 8 m.source.val, classCode m.cls] ++ bytes16 adm.tag ++ bytes16 (BitVec.ofNat 16 m.length) ++
      [BitVec.ofNat 8 m.redeliveries,
        BitVec.ofNat 8 ((if m.receipt then 1 else 0) + (if m.corr = .absent then 0 else 2) + (if repeated then 4 else 0)),
        m.charge.code, BitVec.ofNat 8 ((s.queues[m.dest]).get m.cls).length] ++
      (corrBytesOf m.corr ++ s.payload m) ++ bytes16 (checkWord (corrBytesOf m.corr ++ s.payload m)) := by
  unfold State.deliveryBytes
  rw [fetchFlags_eq]
  rfl

/-- R75: what taking the head of a queue into hand leaves. -/
theorem takeIntoHand_spec (s : State) (p : Agent) (k : MsgClass) (d : DescId) (m : Message) (adm : Admission)
    (rest : List DescId) :
    (s.takeIntoHand p k d m adm rest).descs[d] = .inHand m adm ∧
      (∀ y : DescId, y ≠ d → (s.takeIntoHand p k d m adm rest).descs[y] = s.descs[y]) ∧
      ((s.takeIntoHand p k d m adm rest).queues[p]).get k = rest ∧
      ((s.takeIntoHand p k d m adm rest).hands[p]).get k = some d ∧
      (∀ (a : Agent) (j : MsgClass), a ≠ p ∨ j ≠ k →
        ((s.takeIntoHand p k d m adm rest).queues[a]).get j = (s.queues[a]).get j ∧
          ((s.takeIntoHand p k d m adm rest).hands[a]).get j = (s.hands[a]).get j) ∧
      s.takeIntoHand p k d m adm rest = { s with
        descs := (s.takeIntoHand p k d m adm rest).descs, queues := (s.takeIntoHand p k d m adm rest).queues
        hands := (s.takeIntoHand p k d m adm rest).hands } := by
  have hqueues : (s.takeIntoHand p k d m adm rest).queues = (s.setQueue p k rest).queues := by
    simp [State.takeIntoHand]
  have hhands : (s.takeIntoHand p k d m adm rest).hands = (s.setHand p k (some d)).hands := by
    simp [State.takeIntoHand]
  have hdescs : (s.takeIntoHand p k d m adm rest).descs = s.descs.set d (.inHand m adm) := by
    simp [State.takeIntoHand]
  rw [hdescs, hqueues, hhands]
  refine ⟨vec_get_set_same _ _ _, fun y hy => vec_get_set_ne _ _ _ _ (Ne.symm hy), ?_, ?_, fun a j haj => ⟨?_, ?_⟩, ?_⟩
  · rw [setQueue_get, if_pos ⟨rfl, rfl⟩]
  · rw [setHand_get, if_pos ⟨rfl, rfl⟩]
  · rw [setQueue_get, if_neg]
    rintro ⟨rfl, rfl⟩
    simp at haj
  · rw [setHand_get, if_neg]
    rintro ⟨rfl, rfl⟩
    simp at haj
  · rfl

/-! ## FETCH of one class (R74) -/

theorem fetchClass_repeated {s : State} {p : Agent} {k : MsgClass} {d : DescId} {m : Message} {adm : Admission}
    (h : (s.hands[p]).get k = some d) (hd : s.descs[d] = .inHand m adm) :
    s.fetchClass p k = s.respond p codeFetch 2 .ok (s.deliveryBytes m adm true) none := by
  unfold State.fetchClass
  rw [handMessage_of s p k d m adm h hd]

theorem fetchClass_empty {s : State} {p : Agent} {k : MsgClass} (h : (s.hands[p]).get k = none)
    (hq : (s.queues[p]).get k = []) : s.fetchClass p k = s.respond p codeFetch 2 .empty [] none := by
  have hhead : s.queueHead p k = none := by
    unfold State.queueHead
    rw [hq]
  unfold State.fetchClass
  rw [handMessage_none s p k h]
  simp only [hhead]

theorem fetchClass_head {s : State} {p : Agent} {k : MsgClass} {d : DescId} {m : Message} {adm : Admission}
    {rest : List DescId} (h : (s.hands[p]).get k = none) (hq : (s.queues[p]).get k = d :: rest)
    (hd : s.descs[d] = .queued m adm) :
    s.fetchClass p k = (s.takeIntoHand p k d m adm rest).respond p codeFetch 2 .ok
      ((s.takeIntoHand p k d m adm rest).deliveryBytes m adm false) none := by
  have hhead : s.queueHead p k = some (d, m, adm, rest) := by
    unfold State.queueHead
    rw [hq]
    simp only [hd]
  unfold State.fetchClass
  rw [handMessage_none s p k h]
  simp only [hhead]

/-- Settles O27. -/
theorem fetchDelivers : Obligations.FetchDelivers := by
  intro s p sel hready hj hplace
  refine ⟨fun hsel => ?badarg, fun hsel hnothing => ?nothing, fun k hsel => ⟨fun hhand hqueue => ?empty,
    fun d m adm hhand hd => ?again, fun d rest m adm hhand hqueue hd => ?head⟩⟩
  case badarg =>
    obtain ⟨hexec, hbody⟩ := exec_fetch hready hj sel
    rw [hbody, selectorOfCode_none hsel] at hexec
    exact ⟨_, hexec, respond_answers s s p _ _ _ _ _ rfl, rfl⟩
  case nothing =>
    obtain ⟨hexec, hbody⟩ := exec_fetch hready hj sel
    have hany : s.selectAny p = none := by
      refine List.find?_eq_none.mpr fun k _ => ?_
      rw [offersClass_iff]
      obtain ⟨hhand, hqueue⟩ := hnothing k
      exact fun h => h.elim (fun h => h hhand) (fun h => h hqueue)
    have hby : s.fetchBy p .any = s.respond p codeFetch 2 .empty [] none := by
      unfold State.fetchBy State.selectClass
      rw [hany]
    rw [hbody, hsel, selectorOfCode_three] at hexec
    simp only [hby] at hexec
    rw [hsel]
    exact ⟨_, hexec, respond_answers s s p _ _ _ _ _ rfl, rfl⟩
  case empty =>
    have hexec := fetch_class hready hj hsel
    rw [fetchClass_empty hhand hqueue] at hexec
    exact ⟨_, hexec, respond_answers s s p _ _ _ _ _ rfl, rfl⟩
  case again =>
    obtain ⟨m', adm', hd', rfl, rfl⟩ := hplace.hand hhand
    obtain ⟨rfl, rfl⟩ : m = m' ∧ adm = adm' := by simpa [hd] using hd'
    have hexec := fetch_class hready hj hsel
    rw [fetchClass_repeated hhand hd] at hexec
    rw [deliveryBytes_eq] at hexec
    exact ⟨_, hexec, respond_answers s s m.dest _ _ _ _ _ rfl, rfl⟩
  case head =>
    obtain ⟨m', adm', hd', hdest, hcls⟩ := hplace.queue (hqueue ▸ List.mem_cons_self)
    obtain ⟨rfl, rfl⟩ : m = m' ∧ adm = adm' := by simpa [hd] using hd'
    subst hdest hcls
    have hexec := fetch_class hready hj hsel
    rw [fetchClass_head hhand hqueue hd, deliveryBytes_eq] at hexec
    obtain ⟨hdesc, hdescs, htaken, hheld, hothers, hframe⟩ := takeIntoHand_spec s m.dest m.cls d m adm rest
    have hframes : (s.takeIntoHand m.dest m.cls d m adm rest).frames = s.frames := by simp
    have hpayload : (s.takeIntoHand m.dest m.cls d m adm rest).payload m = s.payload m := by
      rw [hframe]
      rfl
    rw [hpayload] at hexec
    generalize s.takeIntoHand m.dest m.cls d m adm rest = w at *
    exact ⟨_, hexec, respond_answers s w _ _ _ _ _ _ hframes, hdesc, hdescs, htaken, hheld, hothers,
      respond_frame hframe _ _ _ _ _ _⟩

end Sys2Proof.Machine

/-! The wire formats: requests (O50) and table images (O51). -/

namespace Sys2Proof.Machine

/-! ## Fields of one and two bytes -/

theorem byteOf_toNat (b : Byte) : byteOf b.toNat = b := by simp [byteOf]

theorem bytes16Of_half (hi lo : Byte) : bytes16Of (half hi lo).toNat = [hi, lo] := by
  unfold bytes16Of
  rw [BitVec.ofNat_toNat, BitVec.setWidth_eq, bytes16_half]

theorem byteOf_small {n : Nat} (h : n ≤ 255) : (byteOf n).toNat = n := by
  unfold byteOf
  rw [BitVec.toNat_ofNat]
  exact Nat.mod_eq_of_lt (by omega)

/-- A count sent as one byte and received. -/
def read8 (n : Nat) : Nat := (byteOf n).toNat

/-- A count sent as two bytes and received. -/
def read16 (n : Nat) : Nat := (half ((BitVec.ofNat 16 n).extractLsb' 8 8) ((BitVec.ofNat 16 n).extractLsb' 0 8)).toNat

/-- A function over the three classes. -/
def PerClass.map (f : Nat → Nat) (v : PerClass Nat) : PerClass Nat := ⟨f v.express, f v.standard, f v.bulk⟩

theorem read8_small {n : Nat} (h : n ≤ 255) : read8 n = n := byteOf_small h

theorem read16_small {n : Nat} (h : n ≤ 65535) : read16 n = n := by
  unfold read16
  rw [half_bytes, BitVec.toNat_ofNat]
  exact Nat.mod_eq_of_lt (by omega)

/-! ## Requests (R188) -/

/-- A first byte that is no transaction code. -/
theorem decodeRequest_unknown (p : Agent) {code : Byte} (h : isTransactionCode code = false) :
    decodeRequest p [code] = some (.badop p code) := by
  have hne : ∀ c ∈ transactionCodes, code ≠ c := fun c hc e => by
    have : transactionCodes.contains code = true := List.contains_iff_mem.mpr (e ▸ hc)
    rw [isTransactionCode, this] at h
    cases h
  simp only [transactionCodes, List.forall_mem_cons] at hne
  unfold decodeRequest
  simp only [hne, if_false]

/-- Settles O50. -/
theorem requestsDecodeToThemselves : Obligations.RequestsDecodeToThemselves := by
  intro c p bytes hwf hbytes
  cases c <;> cases hbytes
  case ident => rfl
  case status => rfl
  case join period => exact congrArg (fun x => some (Instr.join p x)) (half_bytes period)
  case leave => rfl
  case renew => rfl
  case postHeader d c f len => exact congrArg (fun x => some (Instr.postHeader p d c f x)) (half_bytes len)
  case fetch => rfl
  case ack c tag => exact congrArg (fun x => some (Instr.ack p c x)) (half_bytes tag)
  case nack c tag => exact congrArg (fun x => some (Instr.nack p c x)) (half_bytes tag)
  case recallMessage d c tag => exact congrArg (fun x => some (Instr.recallMessage p d c x)) (half_bytes tag)
  case watch => rfl
  case notices => rfl
  case summary => rfl
  case readcfg => rfl
  case propose image =>
    have hlen : image.length = imageBytes := by simpa [Instr.wellFormed] using hwf
    simp [decodeRequest, codeIdent, codeStatus, codeJoin, codeLeave, codeRenew, codePost, codeFetch, codeAck, codeNack,
      codeRecall, codeWatch, codeNotices, codeSummary, codeReadcfg, codePropose, hlen]
  case consent => rfl
  case veto => rfl
  case badop code => exact decodeRequest_unknown p (by simpa [Instr.wellFormed] using hwf)

/-! ## The table image (R192) -/

/-- The bytes of an image, by their offsets. -/
theorem image_tableOfImage (image : List Byte) : (tableOfImage image).image = (List.range 38).map (image.getD · 0) := by
  simp [Table.image, tableOfImage, agents, classes, imageByte, imageHalf, imageReserved, byteOf_toNat, bytes16Of_half,
    PerClass.get, List.range_succ]

/-- Every field of a table, sent and received. -/
theorem tableOfImage_image_fields (x : Table) : tableOfImage x.image = {
    reserved := #v[PerClass.map read8 x.reserved[0], PerClass.map read8 x.reserved[1], PerClass.map read8 x.reserved[2],
      PerClass.map read8 x.reserved[3]]
    cap := #v[read16 x.cap[0], read16 x.cap[1], read16 x.cap[2], read16 x.cap[3]]
    descLimit := #v[read8 x.descLimit[0], read8 x.descLimit[1], read8 x.descLimit[2], read8 x.descLimit[3]]
    lifetime := PerClass.map read16 x.lifetime
    redelivery := PerClass.map read8 x.redelivery
    prescale := read8 x.prescale
    period := read8 (x.period - 1) + 1
    postscale := read8 (x.postscale - 1) + 1
    window := read16 x.window } := by
  simp [Table.image, tableOfImage, agents, classes, imageByte, imageHalf, imageReserved, bytes16Of, bytes16, PerClass.get,
    PerClass.map, read8, read16]

theorem vec4_of_map {α : Type} (f : α → α) (v : Vector α 4) (h : ∀ a : Agent, f v[a] = v[a]) :
    #v[f v[0], f v[1], f v[2], f v[3]] = v := by
  have h0 : f v[0] = v[0] := h 0
  have h1 : f v[1] = v[1] := h 1
  have h2 : f v[2] = v[2] := h 2
  have h3 : f v[3] = v[3] := h 3
  rw [h0, h1, h2, h3]
  refine Vector.ext fun i hi => ?_
  interval_cases i <;> rfl

theorem PerClass.map_of_fixed (f : Nat → Nat) (v : PerClass Nat) (h : ∀ k, f (v.get k) = v.get k) : PerClass.map f v = v :=
  PerClass.ext_get _ _ fun k => by
    cases k
    · exact h .express
    · exact h .standard
    · exact h .bulk

/-- R192: field by field, a valid table is read back from its image. -/
theorem tableOfImage_image {x : Table} (h : x.valid = true) : tableOfImage x.image = x := by
  obtain ⟨hreserved, -, hagents, hclasses, hprescale, hperiod, hperiod', hpostscale, hpostscale', hwindow, hwindow'⟩ :=
    (valid_iff x).mp h
  rw [tableOfImage_image_fields, vec4_of_map (PerClass.map read8) x.reserved, vec4_of_map read16 x.cap,
    vec4_of_map read8 x.descLimit, PerClass.map_of_fixed read16 x.lifetime, PerClass.map_of_fixed read8 x.redelivery,
    read8_small (by omega), read8_small (by omega), read8_small (by omega), read16_small (by omega)]
  · rw [Nat.sub_add_cancel hperiod, Nat.sub_add_cancel hpostscale]
  · exact fun k => read8_small ((hclasses k).2.2.trans (by decide))
  · exact fun k => read16_small (hclasses k).1
  · exact fun a => read8_small ((hagents a).2.2.trans (by decide))
  · exact fun a => read16_small ((hagents a).1.trans (by decide))
  · exact fun a => PerClass.map_of_fixed read8 _ fun k => read8_small ((hreserved a k).trans (by decide))

theorem image_length (x : Table) : x.image.length = 38 := rfl

/-- Settles O51. -/
theorem tableImageCarriesTheTable : Obligations.TableImageCarriesTheTable := by
  refine ⟨fun x h => ⟨image_length x, tableOfImage_image h⟩, fun image hlen _ => ?_, rfl⟩
  rw [image_tableOfImage]
  refine List.ext_getElem (by simp [hlen]) fun i _ hi => ?_
  simp [hi]

end Sys2Proof.Machine

/-! The step on an empty queue: one period of REFCLK (O3) or of the SCK of a port (O4). -/

namespace Sys2Proof.Machine

/-! ## The step on an empty queue -/

theorem step_idle {s : State} (h : s.pending = []) : step s = .next s.idle := by
  unfold step
  rw [h]

theorem idle_low {s : State} (hq : s.quiet) (h : s.rstnLow = true) : s.idle = s := by
  unfold State.idle
  rw [if_neg (by simp [hq]), if_pos h]

theorem idle_tickDue {s : State} (hq : s.quiet) (h : s.rstnLow = false) (hdue : s.table.postscale ≤ s.postscaleCount) :
    s.idle = s.tick := by
  have hnow : s.tickDue = true := decide_eq_true hdue
  unfold State.idle
  rw [if_neg (by simp [hq]), if_neg (by simp [h]), hnow]
  rfl

theorem idle_clock {s : State} (hq : s.quiet) (h : s.rstnLow = false) (hdue : s.postscaleCount < s.table.postscale) :
    s.idle = { s with choices := s.choices + 1 }.clockPeriod (Config.nextClock s.choices) (Config.tickFirst s.choices) := by
  have hnot : s.tickDue = false := decide_eq_false (Nat.not_le.mpr hdue)
  unfold State.idle
  rw [if_neg (by simp [hq]), if_neg (by simp [h]), hnot]
  exact if_neg (by decide)

theorem exec_ageTick {s : State} (hq : s.quiet) (h : s.rstnLow = false) : exec .ageTick s = .next s.tick := by
  have hexec : exec .ageTick s = .next (if s.rstnLow then s else s.tick) :=
    quiet_next hq (fun u => if u.rstnLow then u else u.tick)
  rw [hexec, if_neg (by simp [h])]

/-! ## A period of REFCLK (R107, R97) -/

/-- R107: the counts of the age clock after a period: stage 2 counts where stage 1 is complete, and stage 3 where stage 2
is. -/
theorem countPrescale_eq (s : State) :
    (let stage2 : Bool := decide (s.table.prescale ≤ s.prescaleCount + 1)
     let stage3 : Bool := stage2 && decide (s.table.period ≤ s.periodCount + 1)
     s.countPrescale = { s with
       prescaleCount := if stage2 then 0 else s.prescaleCount + 1
       periodCount := if stage3 then 0 else if stage2 then s.periodCount + 1 else s.periodCount
       postscaleCount := if stage3 then s.postscaleCount + 1 else s.postscaleCount }) := by
  unfold State.countPrescale State.countPeriod State.countPostscale
  by_cases h2 : s.table.prescale ≤ s.prescaleCount + 1
  · by_cases h3 : s.table.period ≤ s.periodCount + 1
    · simp [h2, h3]
    · simp [h2, h3]
  · simp [h2]

/-- R97, R102: the clear in progress advances. -/
theorem countScrub_eq {s : State} (h : s.pending = []) : s.countScrub = { s with
    clearLeft := if s.engine = .idle then s.clearLeft else s.clearLeft - 1
    pending := if s.clearLeft ≤ 1 then completionOf s.engine else [] } := by
  unfold State.countScrub
  by_cases hidle : s.engine = .idle
  · rw [if_pos hidle]
    apply State.ext_fields <;> simp [hidle, completionOf, h]
  · rw [if_neg hidle]
    by_cases hlast : s.clearLeft ≤ 1
    · rw [if_pos hlast]
      apply State.ext_fields <;> simp [hidle, hlast, h]
    · rw [if_neg hlast]
      apply State.ext_fields <;> simp [hidle, hlast, h]

/-- R107, R97: the counts after a period of REFCLK; a completed tick is taken at once where `first` holds (R111). -/
theorem refclkPeriod_eq {s : State} (hpending : s.pending = []) (hdue : s.postscaleCount < s.table.postscale) (first : Bool) :
    (let stage2 : Bool := decide (s.table.prescale ≤ s.prescaleCount + 1)
     let stage3 : Bool := stage2 && decide (s.table.period ≤ s.periodCount + 1)
     let tick : Bool := stage3 && decide (s.table.postscale ≤ s.postscaleCount + 1)
     let counted : State := { s with
       prescaleCount := if stage2 then 0 else s.prescaleCount + 1
       periodCount := if stage3 then 0 else if stage2 then s.periodCount + 1 else s.periodCount
       postscaleCount := if stage3 then s.postscaleCount + 1 else s.postscaleCount
       clearLeft := if s.engine = .idle then s.clearLeft else s.clearLeft - 1
       pending := if s.clearLeft ≤ 1 then completionOf s.engine else [] }
     s.refclkPeriod first = if (first && tick) = true then counted.tick else counted) := by
  intro stage2 stage3 tick counted
  have hcounted : s.countPrescale.countScrub = counted := by
    rw [countPrescale_eq]
    exact countScrub_eq hpending
  have htick : counted.tickDue = tick := by
    show decide (s.table.postscale ≤ if stage3 then s.postscaleCount + 1 else s.postscaleCount) = _
    cases h3 : stage3 with
    | true => simp [tick, h3]
    | false => simp [tick, h3, hdue]
  unfold State.refclkPeriod
  dsimp only
  rw [hcounted, htick]

/-- Settles O3. -/
theorem idleStepIsOneClockPeriod : Obligations.IdleStepIsOneClockPeriod := by
  intro s hpending hq
  refine ⟨fun hlow => ?_, fun hr hdue => ?_, fun hr hdue => ?_, fun hr hdue first => ?_, fun h hslot hfits hpos => ?_⟩
  · rw [step_idle hpending, idle_low hq hlow]
  · rw [step_idle hpending, idle_tickDue hq hr hdue, exec_ageTick hq hr]
  · rw [step_idle hpending, idle_clock hq hr hdue]
  · intro stage2 stage3 tick counted
    have hperiod : s.clockPeriod none first = if (first && tick) = true then counted.tick else counted :=
      refclkPeriod_eq hpending hdue first
    refine ⟨fun htick hfirst => ?_, fun h => ?_⟩
    · rw [hperiod, htick, hfirst]
      exact exec_ageTick hq hr
    · rw [hperiod]
      refine if_neg ?_
      rcases h with h | h <;> simp [h]
  · have hexec : exec .applyHeld s = .next s.runFitTest := quiet_next hq State.runFitTest
    have happly : s.runFitTest = s.applyTable h.table := by
      unfold State.runFitTest
      rw [hslot]
      exact if_pos hfits
    obtain ⟨htable, -, -, -, -, hpostscale⟩ := applyTable_applied s h.table
    refine ⟨_, hexec, by simp, ?_⟩
    rw [happly, htable, hpostscale]
    exact hpos

end Sys2Proof.Machine

/-! One period of the SCK of a port (O4). -/

namespace Sys2Proof.Machine

/-! ## The readout of an OVERRUN record (R151) -/

theorem answering_iff (s : State) (p : Agent) : s.answering p = true ↔
    s.rstnLow = false ∧ ((s.frames[p]).phase = .turnaround ∨ (s.frames[p]).phase = .response) := by
  unfold State.answering
  cases s.rstnLow <;> cases (s.frames[p]).phase <;> simp

theorem latchable_eq_some {s : State} {p : Agent} {n : Nat} : s.latchable p = some n ↔
    s.answering p = true ∧ (s.frames[p]).recordsLeft = 1 ∧ (s.frames[p]).beforeLastRecord = true ∧ s.latches[p] = none ∧
      ∃ q, s.notices[p] = .overrun n :: q := by
  have hhead : (match (s.notices[p]).head? with
      | some (.overrun n) => some n
      | _ => none) = some n ↔ ∃ q, s.notices[p] = .overrun n :: q := by
    cases hq : s.notices[p] with
    | nil => simp
    | cons x rest => cases x <;> simp
  unfold State.latchable
  dsimp only
  by_cases h : (s.answering p && (s.frames[p]).recordsLeft == 1 && (s.frames[p]).beforeLastRecord &&
      (s.latches[p]).isNone) = true
  · rw [if_pos h]
    simp only [Bool.and_eq_true, beq_iff_eq, Option.isNone_iff_eq_none] at h
    obtain ⟨⟨⟨h1, h2⟩, h3⟩, h4⟩ := h
    exact Iff.trans hhead ⟨fun hq => ⟨h1, h2, h3, h4, hq⟩, fun ⟨_, _, _, _, hq⟩ => hq⟩
  · rw [if_neg h]
    refine iff_of_false (by simp) fun ⟨h1, h2, h3, h4, _⟩ => h ?_
    simp [-Fin.getElem_fin, h1, h2, h3, h4]

/-- R151: the next bit of port `p` is the first of an OVERRUN record not yet latched. -/
theorem atOverrun_iff (s : State) (p : Agent) : s.atOverrun p = true ↔
    s.answering p = true ∧ (s.frames[p]).recordsLeft = 1 ∧ (s.frames[p]).out.length = 6 ∧ (s.frames[p]).bitPos = 0 ∧
      s.latches[p] = none ∧ ∃ n q, s.notices[p] = .overrun n :: q := by
  unfold State.atOverrun
  rw [Bool.and_eq_true, beq_iff_eq, Option.isSome_iff_exists]
  simp only [latchable_eq_some]
  constructor
  · rintro ⟨⟨n, h1, h2, h3, h4, h5⟩, h6⟩
    have h6 : (s.frames[p]).out.length = 6 := h6
    refine ⟨h1, h2, h6, ?_, h4, n, h5⟩
    simpa [-Fin.getElem_fin, Framing.beforeLastRecord, recordBytes, h6] using h3
  · rintro ⟨h1, h2, h6, h3, h4, n, h5⟩
    refine ⟨⟨n, h1, h2, ?_, h4, h5⟩, h6⟩
    simp [-Fin.getElem_fin, Framing.beforeLastRecord, recordBytes, h6, h3]

theorem latchOverrun_none {s : State} {p : Agent} (h : s.latchable p = none) : s.latchOverrun p = s := by
  unfold State.latchOverrun
  rw [h]

/-- R151: the latch, with the response brought to the record. -/
theorem latchOverrun_some {s : State} {p : Agent} {n : Nat} (h : s.latchable p = some n) :
    s.latchOverrun p = { s with
      frames := s.frames.set p { s.frames[p] with
        phase := .response, bytePos := (s.frames[p]).bytePos + ((s.frames[p]).out.length - 6)
        out := (Notice.overrun n).record, bitPos := 0 }
      latches := s.latches.set p (some ⟨n, 0⟩) } := by
  unfold State.latchOverrun
  rw [h]
  simp [State.shiftUntil, State.setFrame, State.setLatch, recordBytes]

/-- R150: the record gone, with the response brought to its end. -/
theorem removeRecord_of {s : State} {p : Agent} {r : Nat} (h : s.answering p = true) (hr : (s.frames[p]).recordsLeft = r + 1) :
    s.removeRecord p = { s with
      frames := s.frames.set p { s.frames[p] with
        phase := .response, bytePos := (s.frames[p]).bytePos + ((s.frames[p]).out.length - 6 * r)
        out := (s.frames[p]).out.drop ((s.frames[p]).out.length - 6 * r), recordsLeft := r, bitPos := 0 } }.removeHead p := by
  unfold State.removeRecord
  dsimp only
  rw [if_pos (by simp [-Fin.getElem_fin, h, hr])]
  refine congrArg (State.removeHead · p) ?_
  simp only [State.shiftUntil, State.setFrame, vec_get_set_same, hr]
  simp [recordBytes]

theorem removeRecord_still {s : State} {p : Agent} (h : s.answering p = false ∨ (s.frames[p]).recordsLeft = 0) :
    s.removeRecord p = s := by
  unfold State.removeRecord
  dsimp only
  rw [if_neg]
  rcases h with h | h <;> simp [-Fin.getElem_fin, h]

/-! ## One bit (R179) -/

theorem shiftBit_eq (x : Byte) (b : Bool) : shiftBit x b = x <<< 1 ||| (if b then 1 else 0) := by
  cases b <;> rfl

theorem sckPeriod_off {s : State} {p : Agent} (b : Bool) (h : (s.frames[p]).csnLow = false ∨ (s.frames[p]).phase = .idle) :
    s.sckPeriod p b = s := by
  unfold State.sckPeriod
  dsimp only
  rw [if_pos]
  rcases h with h | h <;> simp [-Fin.getElem_fin, h]

theorem sckPeriod_on {s : State} {p : Agent} (b : Bool) (hcsn : (s.frames[p]).csnLow = true)
    (hphase : (s.frames[p]).phase ≠ .idle) : s.sckPeriod p b = (s.beginOverrun p).exchange p b := by
  unfold State.sckPeriod
  dsimp only
  rw [if_neg]
  simp [-Fin.getElem_fin, hcsn, hphase]

theorem beginOverrun_still {s : State} {p : Agent} (h : s.atOverrun p ≠ true) : s.beginOverrun p = s := if_neg h

theorem beginOverrun_latches {s : State} {p : Agent} (h : s.atOverrun p = true) : s.beginOverrun p = s.latchOverrun p :=
  if_pos h

theorem answering_request {s : State} {p : Agent} (h : (s.frames[p]).phase = .request) : s.answering p ≠ true := by
  rw [Ne, answering_iff, h]
  simp

theorem atOverrun_answering {s : State} {p : Agent} (h : s.atOverrun p = true) : s.answering p = true := by
  obtain ⟨hanswering, -⟩ := (atOverrun_iff s p).mp h
  exact hanswering

theorem atOverrun_bitPos {s : State} {p : Agent} (h : s.atOverrun p = true) : (s.frames[p]).bitPos = 0 := by
  obtain ⟨-, -, -, hbit, -⟩ := (atOverrun_iff s p).mp h
  exact hbit

/-- R151, log 17: the latch leaves the first bit of the record to be exchanged in the same period. -/
theorem sckPeriod_latches {s : State} {p : Agent} (b : Bool) (hcsn : (s.frames[p]).csnLow = true)
    (h : s.atOverrun p = true) : s.sckPeriod p b = (s.latchOverrun p).sckPeriod p b := by
  have hphase : (s.frames[p]).phase ≠ .idle := by
    rcases ((answering_iff s p).mp (atOverrun_answering h)).2 with h | h <;> rw [h] <;> decide
  obtain ⟨n, hn⟩ := Option.isSome_iff_exists.mp ((Bool.and_eq_true _ _).mp h).1
  have hstate := latchOverrun_some hn
  have hlatch : (s.latchOverrun p).latches[p] = some ⟨n, 0⟩ := by
    rw [hstate]
    exact vec_get_set_same _ _ _
  have hcsn' : ((s.latchOverrun p).frames[p]).csnLow = true := by
    rw [hstate]
    simpa [-Fin.getElem_fin] using hcsn
  have hphase' : ((s.latchOverrun p).frames[p]).phase ≠ .idle := by
    rw [hstate]
    simp [-Fin.getElem_fin]
  rw [sckPeriod_on b hcsn hphase, beginOverrun_latches h, sckPeriod_on b hcsn' hphase', beginOverrun_still]
  rw [Ne, atOverrun_iff, hlatch]
  simp

theorem exchange_bit {s : State} {p : Agent} (b : Bool) (h : (s.frames[p]).bitPos < 7) : s.exchange p b = { s with
    frames := s.frames.set p { s.frames[p] with
      bitPos := (s.frames[p]).bitPos + 1
      shiftIn := if (s.frames[p]).phase = .request then (s.frames[p]).shiftIn <<< 1 ||| (if b then 1 else 0)
        else (s.frames[p]).shiftIn } } := by
  unfold State.exchange
  rw [if_pos h]
  rw [← shiftBit_eq]
  rfl

theorem exchange_request {s : State} {p : Agent} (b : Bool) (h : 7 ≤ (s.frames[p]).bitPos)
    (hphase : (s.frames[p]).phase = .request) : s.exchange p b =
      if (s.stagings[p]).isNone then s.receiveByte p ((s.frames[p]).shiftIn <<< 1 ||| (if b then 1 else 0))
      else s.receiveStagingByte p ((s.frames[p]).shiftIn <<< 1 ||| (if b then 1 else 0)) := by
  unfold State.exchange
  rw [if_neg (Nat.not_lt.mpr h)]
  unfold State.exchangeByte
  simp only [hphase, shiftBit_eq]

theorem exchange_response {s : State} {p : Agent} (b : Bool) (h : 7 ≤ (s.frames[p]).bitPos)
    (hphase : (s.frames[p]).phase = .turnaround ∨ (s.frames[p]).phase = .response) :
    s.exchange p b = ((s.shiftByte p).endRecord p).beginOverrun p := by
  unfold State.exchange
  rw [if_neg (Nat.not_lt.mpr h)]
  unfold State.exchangeByte
  rcases hphase with hphase | hphase <;> simp only [hphase]

/-! ## One byte (R178, R180, R58, R150) -/

theorem enqueueOptional_eq (s : State) (i : Option Instr) :
    s.enqueueOptional i = { s with pending := s.pending ++ i.toList } := by
  cases i with
  | none => simp [State.enqueueOptional]
  | some i => rfl

theorem receiveByte_eq (s : State) (p : Agent) (x : Byte) : s.receiveByte p x = { s with
    frames := s.frames.set p { s.frames[p] with
      bytePos := (s.frames[p]).bytePos + 1, opcode := ((s.frames[p]).received ++ [x]).head?, bitPos := 0, shiftIn := 0
      received := (s.frames[p]).received ++ [x] }
    pending := s.pending ++ (decodeRequest p ((s.frames[p]).received ++ [x])).toList } :=
  enqueueOptional_eq _ _

theorem atLastCheck_iff (c : StagingContext) (m : Message) :
    c.atLastCheck m = true ↔ c.corrToCome = 0 ∧ m.length ≤ c.payloadReceived ∧ c.checkReceived = 1 := by
  unfold StagingContext.atLastCheck
  simp [and_assoc]

theorem receiveStagingByte_eq {s : State} {p : Agent} {c : StagingContext} {m : Message} (x : Byte)
    (h : s.loadedStaging p = some (c, m)) : s.receiveStagingByte p x = { s with
      frames := s.frames.set p { s.frames[p] with bitPos := 0, shiftIn := 0 }
      pending := s.pending ++ [if c.corrToCome = 0 ∧ m.length ≤ c.payloadReceived ∧ c.checkReceived = 1 then
        .postLastCheckByte p x else .postStagingByte p x] } := by
  unfold State.receiveStagingByte
  rw [h]
  simp only [← atLastCheck_iff]
  rfl

/-- R151: where the response of port `p` stands behind a byte, its next bit begins an OVERRUN record not yet latched. -/
def State.overrunNext (s : State) (p : Agent) : Prop :=
  (s.frames[p]).recordsLeft = 1 ∧ s.latches[p] = none ∧ (s.frames[p]).out.length = 6 ∧
    ∃ n q, s.notices[p] = .overrun n :: q

theorem atOverrun_next {s : State} {p : Agent} (hr : s.rstnLow = false) (hphase : (s.frames[p]).phase = .response)
    (hbit : (s.frames[p]).bitPos = 0) : s.atOverrun p = true ↔ s.overrunNext p := by
  have hanswering : s.answering p = true := (answering_iff s p).mpr ⟨hr, .inr hphase⟩
  rw [atOverrun_iff]
  exact ⟨fun ⟨_, h1, h2, _, h3, h4⟩ => ⟨h1, h3, h2, h4⟩, fun ⟨h1, h3, h2, h4⟩ => ⟨hanswering, h1, h2, hbit, h3, h4⟩⟩

theorem atRecordEnd_iff (s : State) (p : Agent) : s.atRecordEnd p = true ↔
    0 < (s.frames[p]).recordsLeft ∧ (s.frames[p]).out.length ≤ 6 * ((s.frames[p]).recordsLeft - 1) := by
  unfold State.atRecordEnd
  dsimp only
  rw [Bool.and_eq_true, decide_eq_true_eq, decide_eq_true_eq]
  rfl

/-- R150: the response stands behind a byte after the removal too. -/
theorem endRecord_port {s : State} {p : Agent} (hr : s.rstnLow = false) (hphase : (s.frames[p]).phase = .response)
    (hbit : (s.frames[p]).bitPos = 0) :
    ((s.endRecord p).frames[p]).phase = .response ∧ ((s.endRecord p).frames[p]).bitPos = 0 := by
  unfold State.endRecord
  split_ifs with h
  · obtain ⟨hleft, -⟩ := (atRecordEnd_iff s p).mp h
    rw [removeRecord_of (r := (s.frames[p]).recordsLeft - 1) ((answering_iff s p).mpr ⟨hr, .inr hphase⟩) (by omega)]
    simp [-Fin.getElem_fin]
  · exact ⟨hphase, hbit⟩

/-- What is due is read from the pass, the member records and the round. -/
theorem quiet_congr {s t : State} (hp : t.passDue = s.passDue) (hm : t.members = s.members) (hv : t.voting = s.voting)
    (hq : s.quiet) : t.quiet := by
  unfold State.quiet State.dueEvents State.leaseOut State.isMember State.lapseDue at hq ⊢
  rw [hp, hm, hv]
  exact hq

/-- Settles O4: the four phases of a port, and where its next bit begins an OVERRUN record. -/
theorem sckPeriodExchangesOneBit : Obligations.SckPeriodExchangesOneBit := by
  intro s p b first hq hr f t x latchesFirst
  have ht : t = s.sckPeriod p b := rfl
  have hlatches : latchesFirst ↔ f.csnLow = true ∧ s.atOverrun p = true := by
    rw [atOverrun_iff, answering_iff]
    exact ⟨fun ⟨h0, h1, h2, h3, h4, h5, h6⟩ => ⟨h0, ⟨hr, h1⟩, h2, h3, h4, h5, h6⟩,
      fun ⟨h0, ⟨_, h1⟩, h2, h3, h4, h5, h6⟩ => ⟨h0, h1, h2, h3, h4, h5, h6⟩⟩
  refine ⟨fun h => sckPeriod_off b h, fun h => ?latch, fun hcsn hphase hnot hbit => ?bit, fun hcsn hphase hbit => ?request,
    fun hcsn hphase hbit => ?response⟩
  case latch =>
    obtain ⟨hcsn, hover⟩ := hlatches.mp h
    exact ⟨s.latchOverrun p, quiet_next hq (·.latchOverrun p), sckPeriod_latches b hcsn hover⟩
  case bit =>
    have hstill : s.beginOverrun p = s := beginOverrun_still fun h => hnot (hlatches.mpr ⟨hcsn, h⟩)
    rw [ht, sckPeriod_on b hcsn hphase, hstill]
    exact exchange_bit b hbit
  case request =>
    have hstill : s.beginOverrun p = s := beginOverrun_still fun h => answering_request hphase (atOverrun_answering h)
    have hby : t = _ := (sckPeriod_on b hcsn (by rw [hphase]; decide)).trans
      ((congrArg (State.exchange · p b) hstill).trans (exchange_request b hbit hphase))
    refine ⟨fun hstaging => ?_, fun c m hc hd => ?_⟩
    · rw [hby, hstaging]
      exact receiveByte_eq s p x
    · rw [hby, hc]
      exact receiveStagingByte_eq x (loadedStaging_some hr hc hd)
  case response =>
    have hidle : f.phase ≠ .idle := by rcases hphase with h | h <;> rw [h] <;> decide
    have hstill : s.beginOverrun p = s := beginOverrun_still fun h => by
      have hzero : f.bitPos = 0 := atOverrun_bitPos h
      omega
    have hby : t = ((s.shiftByte p).endRecord p).beginOverrun p := (sckPeriod_on b hcsn hidle).trans
      ((congrArg (State.exchange · p b) hstill).trans (exchange_response b hbit hphase))
    refine ⟨fun hskip hleft => ?_, fun hskip => ?_⟩
    · have hshift : s.shiftByte p = { s with
          frames := s.frames.set p { f with bytePos := f.bytePos + 1, bitPos := 0, skipping := false } } := by
        unfold State.shiftByte
        exact if_pos hskip
      have hleft' : (((s.shiftByte p).frames)[p]).recordsLeft = 0 := by
        rw [hshift, vec_get_set_same]
        exact hleft
      have hend : (s.shiftByte p).endRecord p = s.shiftByte p := if_neg fun h => by
        obtain ⟨hpos, -⟩ := (atRecordEnd_iff _ p).mp h
        omega
      rw [hby, hend, beginOverrun_still, hshift]
      intro h
      obtain ⟨-, hone, -⟩ := (atOverrun_iff _ p).mp h
      omega
    · intro u recordGone overrunNext
      have hshift : s.shiftByte p = u := by
        unfold State.shiftByte
        exact if_neg (by rw [hskip]; decide)
      have hport : u.frames[p] = { f with
          phase := .response, bytePos := f.bytePos + 1, out := f.out.tail, bitPos := 0 } := vec_get_set_same _ _ _
      have hgone : u.atRecordEnd p = true ↔ recordGone := by
        rw [atRecordEnd_iff, hport]
      obtain ⟨hphase', hbit'⟩ := endRecord_port (s := u) (p := p) hr (by rw [hport]) (by rw [hport])
      have hnext : (u.endRecord p).atOverrun p = true ↔ overrunNext (u.endRecord p) :=
        atOverrun_next (by simp [u, hr]) hphase' hbit'
      have hquiet : (u.endRecord p).quiet := quiet_congr (s := u) (by simp) (by simp) (by simp) hq
      refine ⟨u.endRecord p, fun h => ?_, fun h => ?_, fun h => ?_, fun h => ?_⟩
      · have hend : u.endRecord p = u.removeRecord p := if_pos (hgone.mpr h)
        rw [hend]
        exact quiet_next (s := u) hq (·.removeRecord p)
      · exact if_neg fun hend => h (hgone.mp hend)
      · rw [hby, hshift, beginOverrun_latches (hnext.mpr h)]
        exact quiet_next hquiet (·.latchOverrun p)
      · rw [hby, hshift, beginOverrun_still fun hover => h (hnext.mp hover)]

end Sys2Proof.Machine

/-! The readout of notice records (O36), the pins (O37), and what a rejoin leaves of the agent's own blocks. -/

namespace Sys2Proof.Machine

/-! ## The readout (R150, R151) -/

theorem removeHead_other (s : State) {a b : Agent} (h : b ≠ a) :
    (s.removeHead a).notices[b] = s.notices[b] ∧ (s.removeHead a).latches[b] = s.latches[b] := by
  have hn := Ne.symm h
  unfold State.removeHead
  split
  · exact ⟨vec_get_set_ne _ _ _ _ hn, rfl⟩
  · split
    · exact ⟨vec_get_set_ne _ _ _ _ hn, vec_get_set_ne _ _ _ _ hn⟩
    · exact ⟨vec_get_set_ne _ _ _ _ hn, vec_get_set_ne _ _ _ _ hn⟩

theorem removeHead_unlatched {s : State} {a : Agent} (h : s.latches[a] = none) :
    (s.removeHead a).notices[a] = (s.notices[a]).tail ∧ (s.removeHead a).latches = s.latches := by
  unfold State.removeHead
  rw [h]
  exact ⟨vec_get_set_same _ _ _, rfl⟩

theorem removeHead_latched {s : State} {a : Agent} {l : OverrunLatch} (h : s.latches[a] = some l) (hl : l.since = 0) :
    (s.removeHead a).notices[a] = (s.notices[a]).tail ∧ (s.removeHead a).latches[a] = none := by
  unfold State.removeHead
  rw [h]
  simp only [if_pos hl]
  exact ⟨vec_get_set_same _ _ _, vec_get_set_same _ _ _⟩

theorem removeHead_folded {s : State} {a : Agent} {l : OverrunLatch} {n : Nat} (h : s.latches[a] = some l)
    (hl : 0 < l.since) (hq : s.notices[a] = [.overrun n]) :
    (s.removeHead a).notices[a] = [.overrun l.since] ∧ (s.removeHead a).latches[a] = none := by
  unfold State.removeHead
  rw [h]
  simp only [if_neg (Nat.pos_iff_ne_zero.mp hl), hq]
  exact ⟨vec_get_set_same _ _ _, vec_get_set_same _ _ _⟩

theorem beforeLastRecord_iff (f : Framing) :
    f.beforeLastRecord = true ↔ 6 < f.out.length ∨ (f.out.length = 6 ∧ f.bitPos = 0) := by
  unfold Framing.beforeLastRecord recordBytes
  simp

/-- R191: the bytes of an OVERRUN record. -/
theorem record_overrun (n : Nat) :
    (Notice.overrun n).record = [0x0E, 0xFF, 0x00, 0x00] ++ bytes16 (BitVec.ofNat 16 n) := by
  have hpeer : noticePeerClass none none = 0xFF := by decide
  have htag : bytes16 0 = [0x00, 0x00] := by decide
  show [0x0E, noticePeerClass none none] ++ bytes16 0 ++ bytes16 (BitVec.ofNat 16 n) = _
  rw [hpeer, htag]
  rfl

/-- Settles O36. -/
theorem readoutLatchesAndRemovesRecords : Obligations.ReadoutLatchesAndRemovesRecords := by
  intro s p hq
  have hremove : exec (.noticeRecordRemoval p) s = .next (s.removeRecord p) := quiet_next hq (·.removeRecord p)
  have hlatch : exec (.overrunLatch p) s = .next (s.latchOverrun p) := quiet_next hq (·.latchOverrun p)
  refine ⟨fun h => ?still, fun r h hr => ?gone, fun h => ?unlatchable, fun n q h hleft hnone hnotices hout => ?latched⟩
  case still => rw [hremove, removeRecord_still h]
  case gone =>
    rw [removeRecord_of h hr] at hremove
    set v : State := { s with
      frames := s.frames.set p { s.frames[p] with
        phase := .response, bytePos := (s.frames[p]).bytePos + ((s.frames[p]).out.length - 6 * r)
        out := (s.frames[p]).out.drop ((s.frames[p]).out.length - 6 * r), recordsLeft := r, bitPos := 0 } } with hv
    have hframes : (v.removeHead p).frames = v.frames := by simp
    refine ⟨v.removeHead p, hremove, fun hl => removeHead_unlatched (s := v) hl,
      fun l hl h0 => removeHead_latched (s := v) hl h0, fun l n hl h0 hn => removeHead_folded (s := v) hl h0 hn,
      fun b hb => removeHead_other v hb, ?_, fun q hqp => ?_, ?_⟩
    · rw [hframes]
      exact vec_get_set_same _ _ _
    · rw [hframes]
      exact vec_get_set_ne _ _ _ _ (Ne.symm hqp)
    · apply State.ext_fields <;> simp [hv]
  case unlatchable =>
    rw [hlatch, latchOverrun_none]
    cases hl : s.latchable p with
    | none => rfl
    | some n =>
      obtain ⟨h1, h2, h3, h4, q, h5⟩ := latchable_eq_some.mp hl
      rw [beforeLastRecord_iff] at h3
      rcases h with h | h | h | h | ⟨h, h'⟩ | h
      · exact absurd h1 (by rw [h]; decide)
      · exact absurd h2 h
      · exact absurd h4 h
      · omega
      · omega
      · exact absurd h5 (h n q)
  case latched =>
    have hl : s.latchable p = some n :=
      latchable_eq_some.mpr ⟨h, hleft, (beforeLastRecord_iff _).mpr hout, hnone, q, hnotices⟩
    rw [latchOverrun_some hl] at hlatch
    refine ⟨_, hlatch, vec_get_set_same _ _ _, fun b hb => vec_get_set_ne _ _ _ _ (Ne.symm hb), ?_,
      fun r hr => vec_get_set_ne _ _ _ _ (Ne.symm hr), rfl⟩
    rw [← record_overrun]
    exact vec_get_set_same _ _ _

/-! ## The agent's own blocks after a rejoin (R127, R128) -/

/-- R127: what a rejoin does behind the return of the messages in hand. -/
def State.rejoinFrom (w : State) (a : Agent) (period : Nat) : State :=
  (((((w.clearNotices a).place a .rejoined).setSnapshot a (.all false)).disarm a).loadLease a period).remindRequired a

theorem rejoin_eq (s : State) (a : Agent) (period : Nat) :
    s.rejoin a period = ((s.setMember a { s.members[a] with state := .active }).rejoinReturn a).rejoinFrom a period := rfl

theorem remindRequired_none {s : State} (a : Agent) (h : s.voting = none) : s.remindRequired a = s := by
  unfold State.remindRequired
  rw [h]

theorem remindRequired_some {s : State} {v : Proposal} (a : Agent) (h : s.voting = some v) : s.remindRequired a =
    if v.required[a] = true ∧ v.consented[a] = false then s.place a (.proposalOpen v.proposer v.number) else s := by
  unfold State.remindRequired
  rw [h]
  exact if_congr (by simp [-Fin.getElem_fin]) rfl rfl

/-- R127, R128: the agent's own blocks. -/
structure RejoinedFrom (w t : State) (a : Agent) (period : Nat) : Prop where
  members : t.members = w.members.set a { w.members[a] with state := .active, leasePeriod := period, leaseLeft := period }
  snapshot : t.snapshots = w.snapshots.set a (.all false)
  watches : t.watches = w.watches.set a (.all none)
  latches : t.latches = w.latches.set a none
  notices_closed : w.voting = none → t.notices[a] = [.rejoined]
  notices_open : ∀ v, w.voting = some v → t.notices[a] =
    if v.required[a] = true ∧ v.consented[a] = false then [.rejoined, .proposalOpen v.proposer v.number] else [.rejoined]
  others : ∀ b : Agent, b ≠ a → t.notices[b] = w.notices[b]
  frame : t = { w with
    members := t.members, snapshots := t.snapshots, notices := t.notices, latches := t.latches, watches := t.watches }

theorem rejoinFrom_spec (w : State) (a : Agent) (period : Nat) : RejoinedFrom w (w.rejoinFrom a period) a period := by
  set u := ((((w.clearNotices a).place a .rejoined).setSnapshot a (.all false)).disarm a).loadLease a period with hu
  have ht : w.rejoinFrom a period = u.remindRequired a := rfl
  have hvoting : u.voting = w.voting := by simp [hu, State.loadLease, State.disarm, State.place, State.clearNotices]
  have hself : u.notices[a] = [.rejoined] := by
    simp [-Fin.getElem_fin, hu, State.loadLease, State.disarm, State.place, State.clearNotices]
  have hother (b : Agent) (hb : b ≠ a) : u.notices[b] = w.notices[b] := by
    simp [-Fin.getElem_fin, hu, State.loadLease, State.disarm, State.place, State.clearNotices,
      vec_get_set_ne _ _ _ _ (Ne.symm hb)]
  have hremind (b : Agent) (hb : b ≠ a) : (u.remindRequired a).notices[b] = u.notices[b] := by
    cases hv : u.voting with
    | none => rw [remindRequired_none a hv]
    | some v =>
      rw [remindRequired_some a hv]
      split_ifs
      · exact vec_get_set_ne _ _ _ _ (Ne.symm hb)
      · rfl
  rw [ht]
  refine ⟨?_, ?_, ?_, ?_, fun hv => ?_, fun v hv => ?_, fun b hb => (hremind b hb).trans (hother b hb), ?_⟩
  · simp [-Fin.getElem_fin, hu, State.loadLease, State.disarm, State.place, State.clearNotices]
  · simp [-Fin.getElem_fin, hu, State.loadLease, State.disarm, State.place, State.clearNotices]
  · simp [-Fin.getElem_fin, hu, State.loadLease, State.disarm, State.place, State.clearNotices]
  · simp [-Fin.getElem_fin, hu, State.loadLease, State.disarm, State.place, State.clearNotices]
  · rw [remindRequired_none a (hvoting.trans hv), hself]
  · rw [remindRequired_some a (hvoting.trans hv)]
    split_ifs
    · exact (vec_get_set_same _ _ _).trans (by rw [hself]; rfl)
    · exact hself
  · apply State.ext_fields <;> simp [hu, State.loadLease, State.disarm, State.place, State.clearNotices]

/-! ## The pins (R156, R178, R179) -/

theorem isMember_iff (s : State) (a : Agent) : s.isMember a = true ↔ s.joined a := by
  unfold State.isMember State.joined State.portIs
  cases (s.members[a]).state <;> simp

theorem summary_get (s : State) (a : Agent) (k : MsgClass) : (s.summary a).get k = !((s.queues[a]).get k).isEmpty := by
  cases k <;> rfl

/-- R156: a summary that differs from a snapshot differs in some class. -/
theorem summary_ne_iff (s : State) (a : Agent) : s.summary a ≠ s.snapshots[a] ↔
    ∃ k, ((s.queues[a]).get k = [] ↔ (s.snapshots[a]).get k = true) := by
  have hclass (k : MsgClass) : (s.summary a).get k ≠ (s.snapshots[a]).get k ↔
      ((s.queues[a]).get k = [] ↔ (s.snapshots[a]).get k = true) := by
    rw [summary_get]
    cases (s.queues[a]).get k <;> cases (s.snapshots[a]).get k <;> simp
  constructor
  · intro h
    by_contra hno
    exact h (PerClass.ext_get _ _ fun k => not_not.mp fun hne => hno ⟨k, (hclass k).mp hne⟩)
  · rintro ⟨k, hk⟩ he
    exact (hclass k).mpr hk (by rw [he])

theorem attentionLow_iff_summary (s : State) (a : Agent) :
    s.attentionLow a = true ↔ s.joined a ∧ (s.notices[a] ≠ [] ∨ s.summary a ≠ s.snapshots[a]) := by
  rw [← isMember_iff]
  unfold State.attentionLow
  simp [-Fin.getElem_fin]

theorem attentionLow_iff (s : State) (a : Agent) : s.attentionLow a = true ↔
    s.joined a ∧ (s.notices[a] ≠ [] ∨ ∃ k, ((s.queues[a]).get k = [] ↔ (s.snapshots[a]).get k = true)) := by
  rw [← summary_ne_iff, attentionLow_iff_summary]

theorem attentionLow_of_notice {s : State} {a : Agent} (h : s.portIs a .active) (hn : s.notices[a] ≠ []) :
    s.attentionLow a = true :=
  (attentionLow_iff s a).mpr ⟨.inl h, .inl hn⟩

theorem joinBy_attention {s : State} {p : Agent} (h : ¬s.portIs p .offline) (n : Nat) :
    (s.joinBy p n).portIs p .active ∧ (s.joinBy p n).notices[p] ≠ [] := by
  have hjoined (hj : s.joined p) : (s.joinBy p n).portIs p .active ∧ (s.joinBy p n).notices[p] ≠ [] := by
    rw [State.joinBy_joined hj, rejoin_eq]
    generalize (s.setMember p { s.members[p] with state := .active }).rejoinReturn p = w
    have hspec := rejoinFrom_spec w p n
    refine ⟨?_, ?_⟩
    · rw [State.portIs, hspec.members, vec_get_set_same]
    · cases hv : w.voting with
      | none => rw [hspec.notices_closed hv]; simp
      | some v =>
        rw [hspec.notices_open v hv]
        split_ifs <;> simp
  cases hp : (s.members[p]).state with
  | offline => exact absurd hp h
  | active => exact hjoined (.inl hp)
  | closing => exact hjoined (.inr hp)
  | fenced =>
    rw [State.joinBy_fenced hp]
    obtain ⟨hself, -⟩ := joinResumed_members s p n
    obtain ⟨hnotices, -⟩ := joinResumed_placed s p n
    exact ⟨by rw [State.portIs, hself], by rw [hnotices]; simp⟩

/-- R179: what SDO carries in a response. -/
theorem sdo_answering {s : State} {p : Agent} (hr : s.rstnLow = false) (hcsn : (s.frames[p]).csnLow = true)
    (h : (s.frames[p]).phase = .turnaround ∨ (s.frames[p]).phase = .response) :
    s.sdo p = some (s.frames[p]).outByte := by
  unfold State.sdo
  rw [if_neg (by simp [hr]), if_neg (by simp [-Fin.getElem_fin, hcsn])]
  rcases h with h | h <;> rw [h]

theorem sdo_request {s : State} {p : Agent} (hr : s.rstnLow = false) (hcsn : (s.frames[p]).csnLow = true)
    (h : (s.frames[p]).phase = .request) : s.sdo p = some 0x00 := by
  unfold State.sdo
  rw [if_neg (by simp [hr]), if_neg (by simp [-Fin.getElem_fin, hcsn]), h]

theorem sdo_tristate {s : State} {p : Agent} (h : s.rstnLow = true ∨ (s.frames[p]).csnLow = false) : s.sdo p = none := by
  unfold State.sdo
  by_cases hr : s.rstnLow = true
  · exact if_pos hr
  · rw [if_neg hr]
    exact if_pos (by rw [h.resolve_left hr]; rfl)

/-- Settles O37. -/
theorem pinsFollowTheState : Obligations.PinsFollowTheState := by
  intro s p
  refine ⟨attentionLow_iff s p, fun period ⟨⟨hq, ho⟩, hs⟩ hnot hlow hhigh => ?join, fun ⟨⟨hq, ho⟩, hs⟩ hj => ?summary,
    fun hj hlease => ?fencing, fun h => ?tristate, fun x hx => ?bit, fun hr hcsn => ⟨fun hphase => ?request,
    fun hphase => ⟨fun hskip => ?skipping, fun b rest hskip hout => ?next, fun hout => ?past⟩⟩⟩
  case join =>
    have hexec : exec (.join p period) s = .next (s.answerJoin p period) := quiet_next hq (·.answerJoin p period)
    rw [State.answerJoin_good ho hs hlow hhigh] at hexec
    obtain ⟨hactive, hnotices⟩ := joinBy_attention hnot period.toNat
    generalize s.joinBy p period.toNat = w at *
    exact ⟨_, hexec, attentionLow_of_notice (s := w.respond p codeJoin 3 .ok [(s.members[p]).state.code] none) hactive
      hnotices⟩
  case summary =>
    have hexec : exec (.summary p) s = .next (s.answerSummary p) := quiet_next hq (·.answerSummary p)
    have hbody : s.answerSummary p =
        (s.setSnapshot p (s.summary p)).respond p codeSummary 1 .ok (s.summaryBytes p) none :=
      State.transact_joined ho hs hj _ _ _
    rw [hbody] at hexec
    refine ⟨_, hexec, ?_⟩
    rw [attentionLow_iff_summary]
    have hsnapshot : ((s.setSnapshot p (s.summary p)).respond p codeSummary 1 .ok (s.summaryBytes p) none).snapshots[p] =
        s.summary p := vec_get_set_same _ _ _
    rw [hsnapshot]
    exact ⟨fun ⟨_, h⟩ => h.resolve_right fun hne => hne rfl, fun h => ⟨hj, .inl h⟩⟩
  case fencing =>
    have hout : s.leaseOut p = true := by
      unfold State.leaseOut
      rw [(isMember_iff s p).mpr hj, hlease]
      rfl
    have hexec : exec (.fencing p) s = .next (s.fence p) := congrArg Host.Outcome.next (if_pos hout)
    have habsent := (departs_fence s p).absent
    generalize s.fence p = w at *
    refine ⟨w, hexec, ?_⟩
    unfold State.attentionLow
    rw [habsent]
    rfl
  case tristate => exact ⟨sdo_tristate h, congrArg (Option.map _) (sdo_tristate h)⟩
  case bit => exact congrArg (Option.map _) hx
  case request => exact sdo_request hr hcsn hphase
  case skipping =>
    rw [sdo_answering hr hcsn hphase, Framing.outByte, if_pos hskip]
  case next =>
    rw [sdo_answering hr hcsn hphase, Framing.outByte, if_neg (by rw [hskip]; decide), hout]
    rfl
  case past =>
    rw [sdo_answering hr hcsn hphase, Framing.outByte, hout]
    exact congrArg some (ite_self _)

end Sys2Proof.Machine

/-! Releases one after another: what they leave of the store, of the counts and of the tables, and what they offer. -/

namespace Sys2Proof.Machine

/-! ## Offers to several agents (R146) -/

/-- The notices of a list of offers that are for agent `b`, in order. -/
def offersTo (b : Agent) (offers : List (Agent × Notice)) : List Notice :=
  offers.filterMap fun x => if x.1 = b then some x.2 else none

theorem offersTo_append (b : Agent) (xs ys : List (Agent × Notice)) :
    offersTo b (xs ++ ys) = offersTo b xs ++ offersTo b ys := List.filterMap_append

/-- What a list of offers does at agent `b` is what its offers to `b` do there. -/
theorem offerEach_offersTo (b : Agent) (xs : List (Agent × Notice)) (s u : State)
    (hm : (u.members[b]).state = (s.members[b]).state) (hn : u.notices[b] = s.notices[b])
    (hl : u.latches[b] = s.latches[b]) :
    (u.offerEach xs).notices[b] = (s.offerEach ((offersTo b xs).map fun n => (b, n))).notices[b] ∧
      (u.offerEach xs).latches[b] = (s.offerEach ((offersTo b xs).map fun n => (b, n))).latches[b] := by
  induction xs generalizing s u with
  | nil => exact ⟨hn, hl⟩
  | cons x rest ih =>
    obtain ⟨a, n⟩ := x
    by_cases h : a = b
    · subst h
      have hlist : offersTo a ((a, n) :: rest) = n :: offersTo a rest := by simp [offersTo]
      rw [hlist]
      obtain ⟨hn', hl'⟩ := State.offer_notices_congr s u a n hm hn hl
      exact ih (s.offer a n) (u.offer a n) (by simpa [-Fin.getElem_fin] using hm) hn' hl'
    · have hlist : offersTo b ((a, n) :: rest) = offersTo b rest := by simp [offersTo, h]
      rw [hlist]
      exact ih s (u.offer a n) (by simpa [-Fin.getElem_fin] using hm)
        ((State.offer_notices_ne _ _ _ _ (Ne.symm h)).trans hn) ((State.offer_latches_ne _ _ _ _ (Ne.symm h)).trans hl)

/-! ## One fit test after another (R172) -/

theorem fitTested_none {s t : State} (h : s.slot = none) : fitTested s t ↔ tableKept s t := by
  unfold fitTested
  rw [h]

theorem fitTested_some {s t : State} {x : HeldTable} (h : s.slot = some x) :
    fitTested s t ↔ if t.fits x.table = true then applied s t x.table else tableKept s t := by
  unfold fitTested
  rw [h]

theorem tableKept_refl (s : State) : tableKept s s := ⟨rfl, rfl, rfl, rfl, rfl, rfl⟩

theorem fitTested_refl {s : State} (h : HeldLaw s) : fitTested s s := by
  cases hs : s.slot with
  | none => exact (fitTested_none hs).mpr (tableKept_refl s)
  | some x =>
    rw [fitTested_some hs, if_neg (by rw [h x hs]; decide)]
    exact tableKept_refl s

theorem applied_of_kept {s u t : State} {x : Table} (h : tableKept s u) (ha : applied u t x) : applied s t x := by
  obtain ⟨-, -, hepoch, -⟩ := h
  unfold applied at ha ⊢
  rwa [hepoch] at ha

theorem applied_keeps {s u t : State} {x : Table} (h : applied s u x) (hk : tableKept u t) : applied s t x := by
  obtain ⟨htable, hslot, hepoch, hprescale, hperiod, hpostscale⟩ := hk
  unfold applied at h ⊢
  rwa [htable, hslot, hepoch, hprescale, hperiod, hpostscale]

/-- One fit test after another, with counts that only fall, is one fit test with the last counts. -/
theorem fitTested_trans {s u v : State} (h : fitTested s u) (h' : fitTested u v) (hle : CountsLe v u) : fitTested s v := by
  cases hs : s.slot with
  | none =>
    rw [fitTested_none hs] at h ⊢
    exact tableKept_trans h ((fitTested_none (h.2.1.trans hs)).mp h')
  | some x =>
    rw [fitTested_some hs] at h ⊢
    split_ifs at h with hfits
    · rw [if_pos (fits_of_countsLe hle hfits)]
      exact applied_keeps h ((fitTested_none h.2.1).mp h')
    · rw [fitTested_some (h.2.1.trans hs)] at h'
      split_ifs at h' ⊢ with hnow
      · exact applied_of_kept h h'
      · exact tableKept_trans h h'

/-! ## What releases leave of the store, the counts and the tables (R42) -/

/-- From `s` to `t` the records of messages `ms` have been dropped, one after another, each with a fit test behind it. -/
structure Drops (s t : State) (ms : List Message) : Prop where
  scrubQueue : t.scrubQueue = s.scrubQueue ++ ms.flatMap Message.cells
  cellMap : ∀ x : CellId, t.cellMap[x] =
    if x ∈ ms.flatMap Message.cells then (s.cellMap[x]).released else s.cellMap[x]
  inUse : ∀ a : Agent, t.inUse[a] = s.inUse[a] - ms.countP (fun m => m.source = a)
  engine : s.engine ≠ .idle → t.engine = s.engine ∧ t.clearLeft = s.clearLeft
  used : t.used = s.used
  fit : HeldLaw s → fitTested s t

theorem released_released (r : CellRecord) : r.released.released = r.released := by
  cases r <;> rfl

theorem Drops.countsLe {s t : State} {ms : List Message} (h : Drops s t ms) : CountsLe t s where
  reserved a k := by rw [h.used]
  total := by rw [h.used]
  common a := by rw [h.used]
  inUse a := by rw [h.inUse]; exact Nat.sub_le _ _

theorem Drops.refl (s : State) : Drops s s [] where
  scrubQueue := (List.append_nil _).symm
  cellMap _ := rfl
  inUse _ := rfl
  engine _ := ⟨rfl, rfl⟩
  used := rfl
  fit h := fitTested_refl h

theorem Drops.trans {s u t : State} {ms ns : List Message} (h : Drops s u ms) (h' : Drops u t ns) :
    Drops s t (ms ++ ns) where
  scrubQueue := by rw [h'.scrubQueue, h.scrubQueue, List.flatMap_append, List.append_assoc]
  cellMap x := by
    rw [h'.cellMap, h.cellMap, List.flatMap_append]
    by_cases h1 : x ∈ ms.flatMap Message.cells <;> by_cases h2 : x ∈ ns.flatMap Message.cells <;>
      simp only [List.mem_append, h1, h2, if_true, if_false, or_self, or_true, true_or, released_released]
  inUse a := by rw [h'.inUse, h.inUse, List.countP_append, Nat.sub_sub]
  engine hidle := by
    obtain ⟨he, hc⟩ := h.engine hidle
    obtain ⟨he', hc'⟩ := h'.engine (by rw [he]; exact hidle)
    exact ⟨he'.trans he, hc'.trans hc⟩
  used := h'.used.trans h.used
  fit hl := fitTested_trans (h.fit hl) (h'.fit (heldLaw_of_fitTested (h.fit hl))) h'.countsLe

/-- A change that leaves the store, the counts and the tables drops nothing. -/
theorem Drops.of_kept {s t : State} (hscrub : t.scrubQueue = s.scrubQueue) (hmap : t.cellMap = s.cellMap)
    (hinUse : t.inUse = s.inUse) (hengine : t.engine = s.engine) (hclear : t.clearLeft = s.clearLeft)
    (hused : t.used = s.used) (hk : tableKept s t) : Drops s t [] where
  scrubQueue := hscrub.trans (List.append_nil _).symm
  cellMap x := by rw [hmap]; rfl
  inUse a := by rw [hinUse]; rfl
  engine _ := ⟨hengine, hclear⟩
  used := hused
  fit hl := by
    obtain ⟨htable, hslot, hepoch, hprescale, hperiod, hpostscale⟩ := hk
    exact fitTested_congr (fitTested_refl hl) rfl rfl rfl rfl rfl rfl htable hslot hepoch hprescale hperiod hpostscale
      hused hinUse

theorem drops_of_dropped {s t : State} {d : DescId} {m : Message} (h : dropped s t d m) (hused : t.used = s.used)
    (hfit : fitTested s t) : Drops s t [m] := by
  obtain ⟨-, -, hscrub, -, hengine, hmap, hsource, hothers⟩ := h
  have hcells : [m].flatMap Message.cells = m.cells := List.flatMap_singleton _ _
  refine ⟨by rw [hcells, hscrub], fun x => by rw [hcells, hmap], fun a => ?_, hengine, hused, fun _ => hfit⟩
  by_cases ha : a = m.source
  · subst ha
    rw [hsource]
    simp
  · rw [hothers a ha]
    simp [Ne.symm ha]

/-! ## What releases offer (R42, R146) -/

/-- From `s` to `t` no agent has reached OFFLINE; with no table held each agent was offered the notices that `ns` lists for
it, in order. -/
structure Tells (s t : State) (ns : Agent → List Notice) : Prop where
  members : t.members = s.members
  snapshots : t.snapshots = s.snapshots
  frames : t.frames = s.frames
  slot : s.slot = none → t.slot = none
  told : s.slot = none → ∀ b : Agent, toldEach s t b (ns b) ∧ t.watches[b] = s.watches[b]

theorem Tells.trans {s u t : State} {ns ns' : Agent → List Notice} (h : Tells s u ns) (h' : Tells u t ns') :
    Tells s t (fun b => ns b ++ ns' b) where
  members := h'.members.trans h.members
  snapshots := h'.snapshots.trans h.snapshots
  frames := h'.frames.trans h.frames
  slot hs := h'.slot (h.slot hs)
  told hs b := by
    obtain ⟨htold, hw⟩ := h.told hs b
    obtain ⟨htold', hw'⟩ := h'.told (h.slot hs) b
    exact ⟨toldEach_append htold htold' (by rw [h.members]), hw'.trans hw⟩

theorem Tells.of_kept {s t : State} (hm : t.members = s.members) (hsn : t.snapshots = s.snapshots)
    (hf : t.frames = s.frames) (hslot : t.slot = s.slot) (hn : t.notices = s.notices) (hl : t.latches = s.latches)
    (hw : t.watches = s.watches) : Tells s t (fun _ => []) :=
  ⟨hm, hsn, hf, hslot.trans, fun _ b => ⟨toldEach_nil (by rw [hn]) (by rw [hl]), by rw [hw]⟩⟩

theorem vec4_ext {α : Type} {v w : Vector α 4} (h : ∀ a : Agent, v[a] = w[a]) : v = w :=
  Vector.ext fun i hi => h ⟨i, hi⟩

end Sys2Proof.Machine

/-! The rejoin (O16): the hand slots one after another, then the agent's own blocks. -/

namespace Sys2Proof.Machine

/-! ## The tables behind some releases (R87, R172) -/

/-- The tables of `t` are those of `s`, or the table that `s` holds has become active. -/
def tablesSince (s t : State) : Prop := tableKept s t ∨ ∃ h, s.slot = some h ∧ applied s t h.table

theorem tablesSince_of_fitTested {s t : State} (h : fitTested s t) : tablesSince s t := by
  cases hs : s.slot with
  | none => exact .inl ((fitTested_none hs).mp h)
  | some x =>
    rw [fitTested_some hs] at h
    split_ifs at h
    · exact .inr ⟨x, hs, h⟩
    · exact .inl h

theorem tablesSince_none {s t : State} (hs : s.slot = none) (h : tablesSince s t) : tableKept s t := by
  rcases h with h | ⟨x, hx, -⟩
  · exact h
  · rw [hs] at hx
    cases hx

theorem tablesSince_trans {s u t : State} (h : tablesSince s u) (h' : tablesSince u t) : tablesSince s t := by
  rcases h with h | ⟨x, hx, ha⟩
  · rcases h' with h' | ⟨x, hx, ha⟩
    · exact .inl (tableKept_trans h h')
    · exact .inr ⟨x, h.2.1.symm.trans hx, applied_of_kept h ha⟩
  · exact .inr ⟨x, hx, applied_keeps ha (tablesSince_none ha.2.1 h')⟩

theorem epochAfter_ne (e : Half) : (if e = 0xFFFF then 1 else e + 1) ≠ e := by
  split_ifs with h
  · rw [h]
    decide
  · intro he
    simp at he

theorem applied_epoch {s t : State} {x : Table} (h : applied s t x) : t.epoch ≠ s.epoch := by
  obtain ⟨-, -, hepoch, -⟩ := h
  rw [hepoch]
  exact epochAfter_ne _

/-! ## The hand slots (R40) -/

/-- R40: the message in the hand slot of agent `p` in class `k`, where its return passes the limit. -/
def State.rejectedAt (s : State) (p : Agent) (k : MsgClass) : Option (Message × Admission) :=
  match (s.hands[p]).get k with
  | none => none
  | some d =>
    match s.admitted d with
    | none => none
    | some (m, adm) => if s.table.redelivery.get k < m.redeliveries + 1 then some (m, adm) else none

/-- The rejections of a rejoin of agent `p` that takes the classes `l` with the tables as they are. -/
def State.rejections (s : State) (p : Agent) (l : List MsgClass) : List (Message × Admission) :=
  l.filterMap (s.rejectedAt p)

/-- The REJECTED of some rejections, each to its source. -/
def rejectedTo (p : Agent) (rs : List (Message × Admission)) : List (Agent × Notice) :=
  rs.map fun r => (r.1.source, .rejected p r.1.cls r.2.tag)

/-- The message of descriptor `d` is back at the head of its queue with its count raised (R85). -/
def backInQueue (s t : State) (p : Agent) (k : MsgClass) (d : DescId) (m : Message) (adm : Admission) : Prop :=
  t.descs[d] = .queued { m with redeliveries := m.redeliveries + 1 } adm ∧ (t.queues[p]).get k = d :: (s.queues[p]).get k

/-- The message of descriptor `d` was released out of its hand slot. -/
def goneFromHand (s t : State) (p : Agent) (k : MsgClass) (d : DescId) : Prop :=
  t.descs[d] = .free ∧ (t.queues[p]).get k = (s.queues[p]).get k

/-- R87: the redelivery limit of class `k` that a rejoin from `s` to `t` meets: of the active table, or, behind the first
class, of the table that applied on the way. -/
def limitMet (s t : State) (k : MsgClass) (first : Option MsgClass) (limit : Nat) : Prop :=
  limit = s.table.redelivery.get k ∨
    (first ≠ some k ∧ t.epoch ≠ s.epoch ∧ ∃ h, s.slot = some h ∧ limit = h.table.redelivery.get k)

/-- From `s` to `t` the hand slots of agent `p` in the classes `l` have been taken, one after another. -/
structure Rejoins (s t : State) (p : Agent) (l : List MsgClass) : Prop where
  drops : s.slot = none → Drops s t ((s.rejections p l).map Prod.fst)
  tells : s.slot = none → Tells s t (fun b => offersTo b (rejectedTo p (s.rejections p l)))
  fit : HeldLaw s → fitTested s t
  countsLe : CountsLe t s
  tables : tablesSince s t
  hands : ∀ (a : Agent) (k : MsgClass), (t.hands[a]).get k = if a = p ∧ k ∈ l then none else (s.hands[a]).get k
  queues : ∀ (a : Agent) (k : MsgClass), a ≠ p ∨ k ∉ l ∨ (s.hands[p]).get k = none →
    (t.queues[a]).get k = (s.queues[a]).get k
  descs : ∀ d : DescId, (∀ k ∈ l, (s.hands[p]).get k ≠ some d) → t.descs[d] = s.descs[d]
  returned : ∀ k ∈ l, ∀ d m adm, (s.hands[p]).get k = some d → s.descs[d] = .inHand m adm →
    ∃ limit, limitMet s t k l.head? limit ∧ (m.redeliveries + 1 ≤ limit → backInQueue s t p k d m adm) ∧
      (limit < m.redeliveries + 1 → goneFromHand s t p k d)
  frame : t = { s with
    cellMap := t.cellMap, scrubQueue := t.scrubQueue, engine := t.engine, clearLeft := t.clearLeft, descs := t.descs
    inUse := t.inUse, queues := t.queues, hands := t.hands, table := t.table, slot := t.slot, epoch := t.epoch
    prescaleCount := t.prescaleCount, periodCount := t.periodCount, postscaleCount := t.postscaleCount
    notices := t.notices, latches := t.latches, watches := t.watches }

theorem countsLe_trans {s u t : State} (h : CountsLe u s) (h' : CountsLe t u) : CountsLe t s :=
  ⟨fun a k => (h'.reserved a k).trans (h.reserved a k), h'.total.trans h.total, fun a => (h'.common a).trans (h.common a),
    fun a => (h'.inUse a).trans (h.inUse a)⟩

theorem Rejoins.nil (s : State) (p : Agent) : Rejoins s s p [] where
  drops _ := Drops.refl s
  tells _ := Tells.of_kept rfl rfl rfl rfl rfl rfl rfl
  fit := fitTested_refl
  countsLe := (Drops.refl s).countsLe
  tables := .inl (tableKept_refl s)
  hands a k := by simp
  queues _ _ _ := rfl
  descs _ _ := rfl
  returned k hk := absurd hk List.not_mem_nil
  frame := rfl

/-- An empty hand slot is passed over. -/
theorem rejoins_empty {s : State} {p : Agent} {k : MsgClass} (h : (s.hands[p]).get k = none) :
    Rejoins s (s.rejoinReturnOf p k) p [k] := by
  have hsame : s.rejoinReturnOf p k = s := by
    unfold State.rejoinReturnOf
    rw [handMessage_none s p k h]
  have hnone : s.rejections p [k] = [] := by simp [-Fin.getElem_fin, State.rejections, State.rejectedAt, h]
  rw [hsame]
  exact {
    drops := fun _ => by rw [hnone]; exact Drops.refl s
    tells := fun _ => by rw [hnone]; exact Tells.of_kept rfl rfl rfl rfl rfl rfl rfl
    fit := fitTested_refl
    countsLe := (Drops.refl s).countsLe
    tables := .inl (tableKept_refl s)
    hands := fun a j => by
      split_ifs with haj
      · obtain ⟨rfl, hj⟩ := haj
        rw [List.mem_singleton.mp hj, h]
      · rfl
    queues := fun _ _ _ => rfl
    descs := fun _ _ => rfl
    returned := fun j hj d m adm hd => by
      rw [List.mem_singleton.mp hj, h] at hd
      cases hd
    frame := rfl }

theorem rejectedAt_inHand {s : State} {p : Agent} {k : MsgClass} {d : DescId} {m : Message} {adm : Admission}
    (hhand : (s.hands[p]).get k = some d) (hdesc : s.descs[d] = .inHand m adm) :
    s.rejectedAt p k = if s.table.redelivery.get k < m.redeliveries + 1 then some (m, adm) else none := by
  unfold State.rejectedAt
  simp only [hhand, admitted_inHand hdesc]

theorem offersTo_rejected_one (b p : Agent) (m : Message) (adm : Admission) :
    offersTo b (rejectedTo p [(m, adm)]) = if b = m.source then [.rejected p m.cls adm.tag] else [] := by
  rcases eq_or_ne b m.source with h | h <;> simp [offersTo, rejectedTo, h, Ne.symm]

/-- A message within the limit goes back to its queue. -/
theorem rejoins_back {s t : State} {p : Agent} {k : MsgClass} {d : DescId} {m : Message} {adm : Admission}
    (hhand : (s.hands[p]).get k = some d) (hdesc : s.descs[d] = .inHand m adm)
    (hlimit : m.redeliveries + 1 ≤ s.table.redelivery.get k) (h : returnedOrRejected s t p k) : Rejoins s t p [k] := by
  obtain ⟨-, htaken⟩ := h
  obtain ⟨hempty, hhands, hback, -⟩ := htaken d m adm hhand hdesc
  obtain ⟨hqueued, hdescs, hqueue, hqueues, hframe⟩ := hback hlimit
  have hnone : s.rejections p [k] = [] := by
    simp [State.rejections, rejectedAt_inHand hhand hdesc, Nat.not_lt.mpr hlimit]
  have hkept : tableKept s t := by
    rw [hframe]
    exact ⟨rfl, rfl, rfl, rfl, rfl, rfl⟩
  have hdrops : Drops s t [] := by
    rw [hframe]
    exact Drops.of_kept rfl rfl rfl rfl rfl rfl ⟨rfl, rfl, rfl, rfl, rfl, rfl⟩
  exact {
    drops := fun _ => by rw [hnone]; exact hdrops
    tells := fun _ => by
      rw [hnone, hframe]
      exact Tells.of_kept rfl rfl rfl rfl rfl rfl rfl
    fit := hdrops.fit
    countsLe := hdrops.countsLe
    tables := .inl hkept
    hands := fun a j => by
      split_ifs with haj
      · obtain ⟨rfl, hj⟩ := haj
        rw [List.mem_singleton.mp hj, hempty]
      · exact hhands a j (by simpa [← not_and_or] using haj)
    queues := fun a j haj => by
      refine hqueues a j ?_
      rcases haj with ha | hj | hnone
      · exact .inl ha
      · exact .inr fun hjk => hj (List.mem_singleton.mpr hjk)
      · refine .inr fun hjk => ?_
        rw [hjk, hhand] at hnone
        cases hnone
    descs := fun e he => hdescs e fun hed => he k (List.mem_singleton.mpr rfl) (hed ▸ hhand)
    returned := fun j hj d' m' adm' hhand' hdesc' => by
      obtain rfl := List.mem_singleton.mp hj
      obtain rfl : d = d' := by simpa [-Fin.getElem_fin, hhand] using hhand'
      obtain ⟨rfl, rfl⟩ : m = m' ∧ adm = adm' := by simpa [-Fin.getElem_fin, hdesc] using hdesc'
      exact ⟨_, .inl rfl, fun _ => ⟨hqueued, hqueue⟩, fun hlt => absurd hlt (Nat.not_lt.mpr hlimit)⟩
    frame := by
      rw [hframe] }

/-- A message past the limit is released with REJECTED. -/
theorem rejoins_gone {s t : State} {p : Agent} {k : MsgClass} {d : DescId} {m : Message} {adm : Admission}
    (hhand : (s.hands[p]).get k = some d) (hdesc : s.descs[d] = .inHand m adm) (hcls : m.cls = k)
    (hlimit : s.table.redelivery.get k < m.redeliveries + 1) (h : returnedOrRejected s t p k) : Rejoins s t p [k] := by
  obtain ⟨-, htaken⟩ := h
  obtain ⟨hempty, hhands, -, hgone⟩ := htaken d m adm hhand hdesc
  obtain ⟨hdropped, hfit, htold, hframe⟩ := hgone hlimit
  have hone : s.rejections p [k] = [(m, adm)] := by
    simp [State.rejections, rejectedAt_inHand hhand hdesc, hlimit]
  have hused : t.used = s.used := by rw [hframe]
  have hqueues : t.queues = s.queues := by rw [hframe]
  have hdrops : Drops s t [m] := drops_of_dropped hdropped hused hfit
  obtain ⟨hfree, hdescs, -⟩ := hdropped
  exact {
    drops := fun _ => by rw [hone]; exact hdrops
    tells := fun hslot => by
      have happlies : s.appliesTo t = false := by
        unfold State.appliesTo
        rw [hslot]
      refine ⟨by rw [hframe], by rw [hframe], by rw [hframe], ((fitTested_none hslot).mp hfit).2.1.trans, fun _ b => ?_⟩
      have hb := htold b
      unfold releaseTold at hb
      rw [if_neg (by simp), happlies, if_neg (by decide)] at hb
      rw [hone, offersTo_rejected_one, hcls]
      simpa only [peerNotice, List.append_nil] using hb
    fit := fun _ => hfit
    countsLe := hdrops.countsLe
    tables := tablesSince_of_fitTested hfit
    hands := fun a j => by
      split_ifs with haj
      · obtain ⟨rfl, hj⟩ := haj
        rw [List.mem_singleton.mp hj, hempty]
      · exact hhands a j (by simpa [← not_and_or] using haj)
    queues := fun a j _ => by rw [hqueues]
    descs := fun e he => hdescs e fun hed => he k (List.mem_singleton.mpr rfl) (hed ▸ hhand)
    returned := fun j hj d' m' adm' hhand' hdesc' => by
      obtain rfl := List.mem_singleton.mp hj
      obtain rfl : d = d' := by simpa [-Fin.getElem_fin, hhand] using hhand'
      obtain ⟨rfl, rfl⟩ : m = m' ∧ adm = adm' := by simpa [-Fin.getElem_fin, hdesc] using hdesc'
      exact ⟨_, .inl rfl, fun hle => absurd hlimit (Nat.not_lt.mpr hle), fun _ => ⟨hfree, by rw [hqueues]⟩⟩
    frame := by
      rw [hframe] }

/-- One hand slot of an ACTIVE agent at its rejoin. -/
theorem rejoins_one {s : State} {p : Agent} (k : MsgClass) (hplace : PlaceLaw s) (hactive : s.portIs p .active) :
    Rejoins s (s.rejoinReturnOf p k) p [k] := by
  cases hhand : (s.hands[p]).get k with
  | none => exact rejoins_empty hhand
  | some d =>
    obtain ⟨m, adm, hdesc, -, hcls⟩ := hplace.hand hhand
    have htaken := rejoinReturnOf_spec s p k hplace hactive
    rcases Nat.lt_or_ge (s.table.redelivery.get k) (m.redeliveries + 1) with hlimit | hlimit
    · exact rejoins_gone hhand hdesc hcls hlimit htaken
    · exact rejoins_back hhand hdesc hlimit htaken

theorem rejectedAt_congr {s u : State} {p : Agent} {k : MsgClass} (hhand : (u.hands[p]).get k = (s.hands[p]).get k)
    (hdesc : ∀ d, (s.hands[p]).get k = some d → u.descs[d] = s.descs[d]) (htable : u.table = s.table) :
    u.rejectedAt p k = s.rejectedAt p k := by
  cases hd : (s.hands[p]).get k with
  | none =>
    have hu := hhand.trans hd
    simp [-Fin.getElem_fin, State.rejectedAt, hd, hu]
  | some d =>
    have hadmitted : u.admitted d = s.admitted d := admitted_congr (hdesc d hd)
    have hu := hhand.trans hd
    simp only [State.rejectedAt, hd, hu, hadmitted, htable]

theorem limitMet_behind {s u t : State} {k j : MsgClass} {first : Option MsgClass} {limit : Nat} (hne : j ≠ k)
    (htables : tablesSince s u) (htables' : tablesSince u t) (h : limitMet u t j first limit) :
    limitMet s t j (some k) limit := by
  have hfirst : some k ≠ some j := fun hk => hne (Option.some.inj hk).symm
  rcases htables with hkept | ⟨x, hx, happlied⟩
  · obtain ⟨htable, hslot, hepoch, -⟩ := hkept
    rcases h with h | ⟨-, hnew, y, hy, hlimit⟩
    · exact .inl (by rw [h, htable])
    · exact .inr ⟨hfirst, by rwa [← hepoch], y, hslot ▸ hy, hlimit⟩
  · have hnew := applied_epoch happlied
    obtain ⟨htable, hslot, -⟩ := happlied
    obtain ⟨-, -, hepoch, -⟩ := tablesSince_none hslot htables'
    rcases h with h | ⟨-, -, y, hy, -⟩
    · exact .inr ⟨hfirst, by rw [hepoch]; exact hnew, x, hx, by rw [h, htable]⟩
    · rw [hslot] at hy
      cases hy

/-- The hand slots of several classes are taken one after another. -/
theorem Rejoins.cons {s u t : State} {p : Agent} {k : MsgClass} {rest : List MsgClass} (hplace : PlaceLaw s)
    (hk : k ∉ rest) (h : Rejoins s u p [k]) (h' : Rejoins u t p rest) : Rejoins s t p (k :: rest) := by
  have hne {j : MsgClass} (hj : j ∈ rest) : j ≠ k := fun hjk => hk (hjk ▸ hj)
  have hhands {j : MsgClass} (hj : j ∈ rest) : (u.hands[p]).get j = (s.hands[p]).get j := by
    rw [h.hands, if_neg fun hjk => hne hj (List.mem_singleton.mp hjk.2)]
  have hqueues {j : MsgClass} (hj : j ∈ rest) : (u.queues[p]).get j = (s.queues[p]).get j :=
    h.queues p j (.inr (.inl fun hjk => hne hj (List.mem_singleton.mp hjk)))
  have hdescs {j : MsgClass} (hj : j ∈ rest) {d : DescId} (hd : (s.hands[p]).get j = some d) : u.descs[d] = s.descs[d] := by
    refine h.descs d fun i hi hik => ?_
    obtain ⟨m, adm, hdesc, -, hcls⟩ := hplace.hand hd
    obtain ⟨m', adm', hdesc', -, hcls'⟩ := hplace.hand hik
    obtain ⟨rfl, rfl⟩ : m = m' ∧ adm = adm' := by simpa [-Fin.getElem_fin, hdesc] using hdesc'
    exact hne hj (by rw [← hcls, hcls', List.mem_singleton.mp hi])
  have hdescs_k {d : DescId} (hd : (s.hands[p]).get k = some d) : t.descs[d] = u.descs[d] := by
    refine h'.descs d fun j hj hjd => ?_
    rw [hhands hj] at hjd
    obtain ⟨m, adm, hdesc, -, hcls⟩ := hplace.hand hd
    obtain ⟨m', adm', hdesc', -, hcls'⟩ := hplace.hand hjd
    obtain ⟨rfl, rfl⟩ : m = m' ∧ adm = adm' := by simpa [-Fin.getElem_fin, hdesc] using hdesc'
    exact hne hj (by rw [← hcls, hcls'])
  have hslot (hs : s.slot = none) : u.slot = none ∧ u.table = s.table := by
    obtain ⟨htable, hslot, -⟩ := tablesSince_none hs h.tables
    exact ⟨hslot.trans hs, htable⟩
  have hrejections (hs : s.slot = none) : s.rejections p (k :: rest) = s.rejections p [k] ++ u.rejections p rest := by
    have hrest : u.rejections p rest = s.rejections p rest := List.filterMap_congr fun j hj =>
      rejectedAt_congr (hhands hj) (fun d hd => hdescs hj hd) (hslot hs).2
    rw [hrest]
    exact List.filterMap_append (l := [k]) (l' := rest)
  exact {
    drops := fun hs => by
      rw [hrejections hs, List.map_append]
      exact (h.drops hs).trans (h'.drops (hslot hs).1)
    tells := fun hs => by
      simp only [hrejections hs, rejectedTo, List.map_append, offersTo_append]
      exact (h.tells hs).trans (h'.tells (hslot hs).1)
    fit := fun hl => fitTested_trans (h.fit hl) (h'.fit (heldLaw_of_fitTested (h.fit hl))) h'.countsLe
    countsLe := countsLe_trans h.countsLe h'.countsLe
    tables := tablesSince_trans h.tables h'.tables
    hands := fun a j => by
      rw [h'.hands, h.hands]
      by_cases ha : a = p <;> by_cases hj : j = k <;> by_cases hr : j ∈ rest <;> simp [-Fin.getElem_fin, ha, hj, hr]
    queues := fun a j haj => by
      refine (h'.queues a j ?_).trans (h.queues a j ?_)
      · rcases haj with ha | hj | hd
        · exact .inl ha
        · exact .inr (.inl fun hr => hj (List.mem_cons_of_mem _ hr))
        · by_cases hr : j ∈ rest
          · exact .inr (.inr ((hhands hr).trans hd))
          · exact .inr (.inl hr)
      · rcases haj with ha | hj | hd
        · exact .inl ha
        · exact .inr (.inl fun hr => hj (List.mem_cons.mpr (.inl (List.mem_singleton.mp hr))))
        · exact .inr (.inr hd)
    descs := fun d hd => by
      refine (h'.descs d fun j hj => ?_).trans (h.descs d fun j hj => ?_)
      · rw [hhands hj]
        exact hd j (List.mem_cons_of_mem _ hj)
      · exact hd j (List.mem_cons.mpr (.inl (List.mem_singleton.mp hj)))
    returned := fun j hj d m adm hd hdesc => by
      rcases List.mem_cons.mp hj with rfl | hr
      · obtain ⟨limit, hmet, hback, hgone⟩ := h.returned j (List.mem_singleton.mpr rfl) d m adm hd hdesc
        have hlimit : limit = s.table.redelivery.get j := hmet.resolve_right fun hfirst => hfirst.1 rfl
        have hqueue : (t.queues[p]).get j = (u.queues[p]).get j := h'.queues p j (.inr (.inl hk))
        refine ⟨limit, .inl hlimit, fun hle => ?_, fun hlt => ?_⟩
        · obtain ⟨hqueued, hhead⟩ := hback hle
          exact ⟨(hdescs_k hd).trans hqueued, hqueue.trans hhead⟩
        · obtain ⟨hfree, hsame⟩ := hgone hlt
          exact ⟨(hdescs_k hd).trans hfree, hqueue.trans hsame⟩
      · obtain ⟨limit, hmet, hback, hgone⟩ :=
          h'.returned j hr d m adm ((hhands hr).trans hd) ((hdescs hr hd).trans hdesc)
        refine ⟨limit, limitMet_behind (hne hr) h.tables h'.tables hmet, fun hle => ?_, fun hlt => ?_⟩
        · obtain ⟨hqueued, hhead⟩ := hback hle
          exact ⟨hqueued, by rw [hhead, hqueues hr]⟩
        · obtain ⟨hfree, hsame⟩ := hgone hlt
          exact ⟨hfree, hsame.trans (hqueues hr)⟩
    frame := by
      rw [h'.frame, h.frame] }

/-- R40: the hand slots of an ACTIVE agent at its rejoin, in the order of a list of classes. -/
theorem rejoins_each {p : Agent} (l : List MsgClass) (hl : l.Nodup) (s : State) (hplace : PlaceLaw s)
    (hactive : s.portIs p .active) : Rejoins s (l.foldl (fun t k => t.rejoinReturnOf p k) s) p l := by
  induction l generalizing s with
  | nil => exact Rejoins.nil s p
  | cons k rest ih =>
    obtain ⟨hk, hrest⟩ := List.nodup_cons.mp hl
    have hone := rejoins_one k hplace hactive
    have hmembers : (s.rejoinReturnOf p k).members = s.members := by rw [hone.frame]
    refine Rejoins.cons hplace hk hone (ih hrest _ (rejoinReturnOf_place s p k hplace) ?_)
    rw [State.portIs, hmembers]
    exact hactive

/-- What was offered reads the state of the agent's port, its queue and its latch alone. -/
theorem toldInOrder_of_toldEach {s u w t : State} {b : Agent} {xs : List (Agent × Notice)}
    (h : toldEach u w b (offersTo b xs)) (hm : (u.members[b]).state = (s.members[b]).state)
    (hn : u.notices[b] = s.notices[b]) (hl : u.latches[b] = s.latches[b]) (hn' : t.notices[b] = w.notices[b])
    (hl' : t.latches[b] = w.latches[b]) : toldInOrder s t b xs := by
  obtain ⟨hnotices, hlatches⟩ := h
  obtain ⟨hn'', hl''⟩ := offerEach_offersTo b xs u s hm.symm hn.symm hl.symm
  exact ⟨(hn'.trans hnotices).trans hn''.symm, (hl'.trans hlatches).trans hl''.symm⟩

/-- R127: the rejoin of a member: its hand slots first, then its own blocks. -/
theorem rejoin_spec {s : State} (p : Agent) (n : Nat) (hplace : PlaceLaw s) :
    ∃ w, Rejoins (s.setMember p { s.members[p] with state := .active }) w p classes ∧
      rejoinReturned (s.setMember p { s.members[p] with state := .active }) w p ∧ RejoinedFrom w (s.rejoin p n) p n := by
  set s' := s.setMember p { s.members[p] with state := .active } with hs'
  have hplace' : PlaceLaw s' := placeLaw_congr (s := s) (t := s') hplace rfl rfl rfl rfl
  have hactive : s'.portIs p .active := by
    rw [State.portIs, hs']
    exact congrArg Member.state (vec_get_set_same _ _ _)
  exact ⟨s'.rejoinReturn p, rejoins_each classes (by decide) s' hplace' hactive, rejoinReturn_spec s' p hplace' hactive,
    rejoinFrom_spec _ p n⟩

theorem limitMet_first {s t : State} {k : MsgClass} {limit : Nat} (h : limitMet s t k (some .express) limit)
    (hfirst : s.slot = none ∨ t.epoch = s.epoch ∨ k = .express) : limit = s.table.redelivery.get k := by
  rcases h with h | ⟨hk, hepoch, x, hx, -⟩
  · exact h
  · rcases hfirst with hslot | hsame | rfl
    · rw [hslot] at hx
      cases hx
    · exact absurd hsame hepoch
    · exact absurd rfl hk

theorem limitMet_between {s t : State} {k : MsgClass} {first : Option MsgClass} {limit : Nat} {x : HeldTable}
    (h : limitMet s t k first limit) (hx : s.slot = some x) :
    min (s.table.redelivery.get k) (x.table.redelivery.get k) ≤ limit ∧
      limit ≤ max (s.table.redelivery.get k) (x.table.redelivery.get k) := by
  rcases h with rfl | ⟨-, -, y, hy, rfl⟩
  · exact ⟨Nat.min_le_left _ _, Nat.le_max_left _ _⟩
  · obtain rfl : x = y := Option.some.inj (hx.symm.trans hy)
    exact ⟨Nat.min_le_right _ _, Nat.le_max_right _ _⟩

/-- Settles O16. -/
theorem joinOfAMemberRejoins : Obligations.JoinOfAMemberRejoins := by
  intro s p period ⟨⟨hq, ho⟩, hs⟩ hj hlow hhigh hplace
  have hexec : exec (.join p period) s = .next (s.answerJoin p period) := quiet_next hq (·.answerJoin p period)
  rw [State.answerJoin_good ho hs hlow hhigh, State.joinBy_joined hj] at hexec
  obtain ⟨w, hw, hreturned, hu⟩ := rejoin_spec p period.toNat hplace
  have hmembers : w.members = s.members.set p { s.members[p] with state := .active } := by rw [hw.frame]; rfl
  have hsnapshots : w.snapshots = s.snapshots := by rw [hw.frame]; rfl
  have hvoting : w.voting = s.voting := by rw [hw.frame]; rfl
  have hframes : w.frames = s.frames := by rw [hw.frame]; rfl
  generalize s.rejoin p period.toNat = u at *
  have huw : u.queues = w.queues ∧ u.hands = w.hands ∧ u.descs = w.descs ∧ u.voting = w.voting ∧ u.frames = w.frames := by
    rw [hu.frame]
    exact ⟨rfl, rfl, rfl, rfl, rfl⟩
  obtain ⟨hqueues, hhands, hdescs, hvoting', hframes'⟩ := huw
  have hother (b : Agent) (hb : b ≠ p) :
      u.notices[b] = w.notices[b] ∧ u.latches[b] = w.latches[b] ∧ u.watches[b] = w.watches[b] :=
    ⟨hu.others b hb, by rw [hu.latches, vec_get_set_ne _ _ _ _ (Ne.symm hb)],
      by rw [hu.watches, vec_get_set_ne _ _ _ _ (Ne.symm hb)]⟩
  have hwq (a : Agent) (ha : a ≠ p) : w.queues[a] = s.queues[a] := PerClass.ext_get _ _ fun k => hw.queues a k (.inl ha)
  have hwh (a : Agent) (ha : a ≠ p) : w.hands[a] = s.hands[a] := PerClass.ext_get _ _ fun k => by
    rw [hw.hands, if_neg fun h => ha h.1]
    rfl
  have hwhp (k : MsgClass) : (w.hands[p]).get k = none := by rw [hw.hands, if_pos ⟨rfl, mem_classes k⟩]
  have hfit (hl : HeldLaw s) : fitTested s u := by
    rw [hu.frame]
    exact hw.fit hl
  have hfree (hslot : s.slot = none) : Drops s u ((s.rejections p classes).map Prod.fst) := by
    have hdrops := hw.drops hslot
    rw [hu.frame]
    exact ⟨hdrops.scrubQueue, hdrops.cellMap, hdrops.inUse, hdrops.engine, hdrops.used, hdrops.fit⟩
  have htold (hslot : s.slot = none) (b : Agent) (hb : b ≠ p) :
      toldInOrder s u b (rejectedTo p (s.rejections p classes)) ∧ u.watches[b] = s.watches[b] := by
    obtain ⟨htold, hwatches⟩ := (hw.tells hslot).told hslot b
    obtain ⟨hn, hl, hwa⟩ := hother b hb
    exact ⟨toldInOrder_of_toldEach htold (congrArg Member.state (vec_get_set_ne _ _ _ _ (Ne.symm hb))) rfl rfl hn hl,
      hwa.trans hwatches⟩
  have hkept (hslot : s.slot = none) : tableKept s u := by
    rw [hu.frame]
    exact tablesSince_none hslot hw.tables
  have hframe : u = { s with
      cellMap := u.cellMap, scrubQueue := u.scrubQueue, engine := u.engine, clearLeft := u.clearLeft, descs := u.descs
      inUse := u.inUse, queues := u.queues, hands := u.hands, members := u.members, snapshots := u.snapshots
      frames := u.frames, table := u.table, slot := u.slot, epoch := u.epoch, prescaleCount := u.prescaleCount
      periodCount := u.periodCount, postscaleCount := u.postscaleCount, notices := u.notices, latches := u.latches
      watches := u.watches } := by
    rw [hu.frame, hw.frame]
    rfl
  have hanswers := respond_answers s u p codeJoin 3 .ok [(s.members[p]).state.code] none (hframes'.trans hframes)
  have hepoch : u.epoch = w.epoch := by rw [hu.frame]
  refine ⟨_, hexec, hanswers, ?_, fun a ha => ?_, ?_, fun a ha => ?_, ?_, fun k => ?_, ?_, ?_, ?_, fun v hv => ?_,
    fun k hk => ?_, fun d hd => ?_, fun k d m adm hd hdesc => ?_, ⟨w, hreturned, hother, ?_⟩, hfit, fun hslot => ?_,
    fun a ha => ?_, respond_frame hframe p _ _ _ _ _⟩
  · rw [show (u.respond p _ _ _ _ _).members = u.members from rfl, hu.members, vec_get_set_same, hmembers, vec_get_set_same]
  · rw [show (u.respond p _ _ _ _ _).members = u.members from rfl, hu.members, vec_get_set_ne _ _ _ _ (Ne.symm ha),
      hmembers, vec_get_set_ne _ _ _ _ (Ne.symm ha)]
  · rw [show (u.respond p _ _ _ _ _).snapshots = u.snapshots from rfl, hu.snapshot, vec_get_set_same]
  · rw [show (u.respond p _ _ _ _ _).snapshots = u.snapshots from rfl, hu.snapshot, vec_get_set_ne _ _ _ _ (Ne.symm ha),
      hsnapshots]
  · rw [show (u.respond p _ _ _ _ _).watches = u.watches from rfl, hu.watches, vec_get_set_same]
  · rw [show (u.respond p _ _ _ _ _).hands = u.hands from rfl, hhands, hwhp]
  · exact hvoting'.trans hvoting
  · rw [show (u.respond p _ _ _ _ _).latches = u.latches from rfl, hu.latches, vec_get_set_same]
  · exact fun hv => hu.notices_closed (hvoting.trans hv)
  · exact hu.notices_open v (hvoting.trans hv)
  · rw [show (u.respond p _ _ _ _ _).queues = u.queues from rfl, hqueues]
    exact hw.queues p k (.inr (.inr hk))
  · rw [show (u.respond p _ _ _ _ _).descs = u.descs from rfl, hdescs]
    exact hw.descs d fun k _ => hd k
  · obtain ⟨limit, hmet, hback, hgone⟩ := hw.returned k (mem_classes k) d m adm hd hdesc
    unfold backInQueue at hback
    unfold goneFromHand at hgone
    rw [← hdescs, ← hqueues] at hback hgone
    have hmet' : limitMet s u k (some .express) limit := by
      unfold limitMet at hmet ⊢
      rwa [hepoch]
    dsimp only
    refine ⟨fun hfirst => ?_, fun x hx => ?_⟩
    · obtain rfl := limitMet_first hmet' hfirst
      exact ⟨hback, hgone⟩
    · obtain ⟨hmin, hmax⟩ := limitMet_between hmet' hx
      exact ⟨fun hle => hback (hle.trans hmin), fun hlt => hgone (hmax.trans_lt hlt)⟩
  · exact respond_frame hu.frame p _ _ _ _ _
  · obtain ⟨htable, hkslot, hkepoch, hprescale, hperiod, hpostscale⟩ := hkept hslot
    have hdrops := hfree hslot
    refine ⟨?_, ?_, ?_, hdrops.engine, htold hslot, htable, hkslot.trans hslot, hkepoch, hprescale, hperiod, hpostscale⟩
    · refine hdrops.scrubQueue.trans ?_
      rw [List.flatMap_map]
      rfl
    · have hmap := hdrops.cellMap
      rw [List.flatMap_map] at hmap
      exact hmap
    · have hinUse := hdrops.inUse
      simp only [List.countP_map] at hinUse
      exact hinUse
  · rw [← hwq a ha, ← hwh a ha, ← hqueues, ← hhands]
    exact ⟨rfl, rfl⟩

end Sys2Proof.Machine

/-! The releases of a list (R42): what one release leaves, and one list of releases after another. -/

namespace Sys2Proof.Machine

/-! ## An apply on the way (R172) -/

theorem appliesTo_none {s t : State} (h : s.slot = none) : s.appliesTo t = false := by
  unfold State.appliesTo
  rw [h]

theorem appliesTo_some {s t : State} {x : HeldTable} (h : s.slot = some x) : s.appliesTo t = t.fits x.table := by
  unfold State.appliesTo
  rw [h]

theorem applied_of_appliesTo {s t : State} (h : fitTested s t) (happlies : s.appliesTo t = true) : t.slot = none := by
  cases hs : s.slot with
  | none =>
    rw [appliesTo_none hs] at happlies
    cases happlies
  | some x =>
    rw [appliesTo_some hs] at happlies
    rw [fitTested_some hs, if_pos happlies] at h
    exact h.2.1

theorem kept_of_not_appliesTo {s t : State} (h : fitTested s t) (happlies : s.appliesTo t = false) : tableKept s t := by
  cases hs : s.slot with
  | none => exact (fitTested_none hs).mp h
  | some x =>
    rw [appliesTo_some hs] at happlies
    rwa [fitTested_some hs, if_neg (by rw [happlies]; decide)] at h

/-- The watches of agent `a` where a fit test was taken: evaluated at an apply, and as before without one. -/
def watched (s t : State) (a : Agent) : Prop :=
  if s.appliesTo t = true then evaluated s t a else t.watches[a] = s.watches[a]

theorem watched_none {s t : State} {a : Agent} (h : s.slot = none) : watched s t a ↔ t.watches[a] = s.watches[a] := by
  unfold watched
  rw [appliesTo_none h, if_neg (by decide)]

/-- One fit test after another evaluates the watches at the one apply. -/
theorem watched_trans {s u t : State} {a : Agent} (hfit : fitTested s u) (hfit' : fitTested u t) (hle : CountsLe t u)
    (hused : t.used = u.used) (h : watched s u a) (h' : watched u t a) : watched s t a := by
  cases hs : s.slot with
  | none =>
    have hu : u.slot = none := ((fitTested_none hs).mp hfit).2.1.trans hs
    rw [watched_none hs] at h ⊢
    exact ((watched_none hu).mp h').trans h
  | some x =>
    unfold watched at h ⊢
    by_cases happlies : s.appliesTo u = true
    · have hu : u.slot = none := applied_of_appliesTo hfit happlies
      obtain ⟨htable, hslot, -⟩ := (fitTested_none hu).mp hfit'
      rw [if_pos happlies] at h
      rw [appliesTo_some hs] at happlies
      rw [appliesTo_some hs, if_pos (fits_of_countsLe hle happlies)]
      intro k
      rw [(watched_none hu).mp h', h k]
      exact ((credits_congr a rfl htable hslot hused).2 k).symm
    · have hnot : s.appliesTo u = false := Bool.not_eq_true _ ▸ happlies
      obtain ⟨-, hslot, -⟩ := kept_of_not_appliesTo hfit hnot
      rw [if_neg happlies] at h
      have hsame : s.appliesTo t = u.appliesTo t := by rw [appliesTo_some hs, appliesTo_some (hslot.trans hs)]
      unfold watched at h'
      rw [hsame]
      split_ifs at h' ⊢
      · intro k
        rw [h' k]
        exact (credits_congr a h rfl rfl rfl).2 k
      · exact h'.trans h

/-! ## What a list of releases leaves of an agent (R135) -/

/-- R135: the releases of messages `ms` from `s` to `t` bring agent `a` to OFFLINE. -/
def drainedBy (s t : State) (ms : List Message) (a : Agent) : Prop :=
  s.portIs a .closing ∧ t.holdsNothing a = true ∧ ∃ m ∈ ms, m.dest = a

/-- From `s` to `t` the admitted messages `ms` have been released one after another (R42); `ns` is what the removals offer
each agent. -/
structure ReleasedAll (s t : State) (ms : List Message) (ns : Agent → List Notice) : Prop where
  drops : Drops s t ms
  places : ∀ a : Agent, (∀ m ∈ ms, m.dest ≠ a) → t.holdsNothing a = s.holdsNothing a
  empties : ∀ a : Agent, s.holdsNothing a = true → t.holdsNothing a = true
  gone : ∀ a : Agent, drainedBy s t ms a → wentOffline s t a ∧ t.latches[a] = none ∧ drainedFrame s.frames[a] t.frames[a]
  stays : ∀ a : Agent, ¬drainedBy s t ms a →
    t.members[a] = s.members[a] ∧ t.snapshots[a] = s.snapshots[a] ∧ t.frames[a] = s.frames[a] ∧
      (HeldLaw s → watched s t a)
  absent : ∀ a : Agent, s.isMember a = false → s.notices[a] = [] → s.latches[a] = none → s.watches[a] = .all none →
    t.notices[a] = [] ∧ t.latches[a] = none ∧ t.watches[a] = .all none
  told : s.slot = none → t.members = s.members → ∀ b : Agent, toldEach s t b (ns b)

theorem ReleasedAll.nil (s : State) : ReleasedAll s s [] (fun _ => []) where
  drops := Drops.refl s
  places _ _ := rfl
  empties _ h := h
  gone a h := by
    obtain ⟨-, -, m, hm, -⟩ := h
    exact absurd hm List.not_mem_nil
  stays a _ := by
    refine ⟨rfl, rfl, rfl, fun hl => ?_⟩
    unfold watched
    cases hs : s.slot with
    | none => rw [appliesTo_none hs, if_neg (by decide)]
    | some x => rw [appliesTo_some hs, hl x hs, if_neg (by decide)]
  absent a _ hn hl hw := ⟨hn, hl, hw⟩
  told _ _ _ := toldEach_nil rfl rfl

/-- One release. -/
theorem ReleasedAll.one {s t : State} {d : DescId} {m : Message} {first : Agent → List Notice} (h : Released s t d m first)
    (hused : t.used = s.used) (hplaces : ∀ a : Agent, a ≠ m.dest → t.holdsNothing a = s.holdsNothing a)
    (hempties : ∀ a : Agent, s.holdsNothing a = true → t.holdsNothing a = true) : ReleasedAll s t [m] first := by
  have hleaver (a : Agent) (hno : ¬drainedBy s t [m] a) : s.leaverAt t m.dest ≠ some a := by
    unfold State.leaverAt
    intro hsome
    split_ifs at hsome with hdrained
    obtain rfl := Option.some.inj hsome
    exact hno ⟨hdrained.1, hdrained.2, m, List.mem_singleton.mpr rfl, rfl⟩
  obtain ⟨hothers, hdest⟩ := h.drained
  exact {
    drops := drops_of_dropped h.dropped hused h.fitTested
    places := fun a ha => hplaces a (Ne.symm (ha m (List.mem_singleton.mpr rfl)))
    empties := hempties
    gone := fun a ⟨hclosing, hempty, m', hm', hdest'⟩ => by
      obtain rfl := List.mem_singleton.mp hm'
      subst hdest'
      have hsome : s.leaverAt t m'.dest = some m'.dest := leaverAt_eq_some.mpr ⟨hclosing, hempty⟩
      have htold := h.told m'.dest
      have hport := h.port
      unfold releaseTold at htold
      rw [if_pos hsome] at htold hport
      rw [if_pos ⟨hclosing, hempty⟩] at hdest
      exact ⟨hdest, htold.2.1, hport⟩
    stays := fun a hno => by
      have hwatched : watched s t a := by
        have htold := h.told a
        unfold releaseTold at htold
        rw [if_neg (hleaver a hno)] at htold
        unfold watched
        split_ifs at htold ⊢
        · exact htold.2
        · exact htold.2
      by_cases ha : a = m.dest
      · subst ha
        have hport := h.port
        rw [if_neg (hleaver _ hno)] at hport
        rw [if_neg fun hd => hno ⟨hd.1, hd.2, m, List.mem_singleton.mpr rfl, rfl⟩] at hdest
        exact ⟨hdest.1, hdest.2, hport, fun _ => hwatched⟩
      · exact ⟨(hothers a ha).1, (hothers a ha).2, h.frames a ha, fun _ => hwatched⟩
    absent := fun a hab hn hl hw => by
      have htold := h.told a
      unfold releaseTold at htold
      split_ifs at htold with hleft happlies
      · exact htold
      · exact ⟨(toldEach_nonmember htold.1 hab).trans hn, toldEach_latch_none htold.1 hl, evaluated_disarmed htold.2 hw⟩
      · exact ⟨(toldEach_nonmember htold.1 hab).trans hn, toldEach_latch_none htold.1 hl, htold.2.trans hw⟩
    told := fun hslot hmembers b => by
      have hnone : s.leaverAt t m.dest = none := by
        refine if_neg fun hd => ?_
        rw [if_pos hd] at hdest
        obtain ⟨hoffline, -⟩ := hdest
        obtain ⟨hclosing, -⟩ := hd
        rw [State.portIs, ← hmembers, hoffline] at hclosing
        cases hclosing
      have htold := h.told b
      unfold releaseTold at htold
      rw [hnone, if_neg (by simp), appliesTo_none hslot, if_neg (by decide)] at htold
      simpa [peerNotice] using htold.1 }

theorem drainedBy_append {s u t : State} {ms ns : List Message} {a : Agent}
    (hplaces : (∀ m ∈ ns, m.dest ≠ a) → t.holdsNothing a = u.holdsNothing a)
    (hempties : u.holdsNothing a = true → t.holdsNothing a = true) (hm : ¬drainedBy s u ms a → u.members[a] = s.members[a]) :
    drainedBy s t (ms ++ ns) a ↔ drainedBy s u ms a ∨ ¬drainedBy s u ms a ∧ drainedBy u t ns a := by
  constructor
  · rintro ⟨hclosing, hempty, m, hmem, hdest⟩
    by_cases hfirst : drainedBy s u ms a
    · exact .inl hfirst
    · refine .inr ⟨hfirst, by rw [State.portIs, hm hfirst]; exact hclosing, hempty, ?_⟩
      by_contra hno
      have hne : ∀ x ∈ ns, x.dest ≠ a := fun x hx hxa => hno ⟨x, hx, hxa⟩
      rcases List.mem_append.mp hmem with hms | hns
      · exact hfirst ⟨hclosing, by rw [← hplaces hne]; exact hempty, m, hms, hdest⟩
      · exact hne m hns hdest
  · rintro (⟨hclosing, hempty, m, hmem, hdest⟩ | ⟨hfirst, hclosing, hempty, m, hmem, hdest⟩)
    · exact ⟨hclosing, hempties hempty, m, List.mem_append_left _ hmem, hdest⟩
    · rw [State.portIs, hm hfirst] at hclosing
      exact ⟨hclosing, hempty, m, List.mem_append_right _ hmem, hdest⟩

/-- An agent that has reached OFFLINE stays as it is. -/
theorem ReleasedAll.offline_stays {u t : State} {ns : List Message} {f : Agent → List Notice} (h : ReleasedAll u t ns f)
    {s : State} {a : Agent} (hgone : wentOffline s u a) (hlatch : u.latches[a] = none) :
    wentOffline s t a ∧ t.latches[a] = none ∧ t.frames[a] = u.frames[a] := by
  obtain ⟨hmember, hnotices, hsnapshot, hwatches⟩ := hgone
  have hoffline : u.portIs a .offline := by rw [State.portIs, hmember]
  have hno : ¬drainedBy u t ns a := fun hd => by
    obtain ⟨hclosing, -⟩ := hd
    rw [State.portIs] at hclosing hoffline
    rw [hclosing] at hoffline
    cases hoffline
  obtain ⟨hm, hsn, hf, -⟩ := h.stays a hno
  obtain ⟨hn, hl, hw⟩ := h.absent a (isMember_of_absent (.inl hoffline)) hnotices hlatch hwatches
  exact ⟨⟨hm.trans hmember, hn, hsn.trans hsnapshot, hw⟩, hl, hf⟩

/-- One list of releases after another. -/
theorem ReleasedAll.trans {s u t : State} {ms ns : List Message} {f g : Agent → List Notice} (h : ReleasedAll s u ms f)
    (h' : ReleasedAll u t ns g) : ReleasedAll s t (ms ++ ns) (fun b => f b ++ g b) := by
  have hsplit (a : Agent) :=
    drainedBy_append (s := s) (ms := ms) (h'.places a) (h'.empties a) (fun hno => (h.stays a hno).1)
  exact {
    drops := h.drops.trans h'.drops
    places := fun a ha => (h'.places a fun m hm => ha m (List.mem_append_right _ hm)).trans
      (h.places a fun m hm => ha m (List.mem_append_left _ hm))
    empties := fun a ha => h'.empties a (h.empties a ha)
    gone := fun a hd => by
      rcases (hsplit a).mp hd with hfirst | ⟨hno, hsecond⟩
      · obtain ⟨hoffline, hlatch, hframe⟩ := h.gone a hfirst
        obtain ⟨hoffline', hlatch', hframe'⟩ := h'.offline_stays hoffline hlatch
        exact ⟨hoffline', hlatch', hframe' ▸ hframe⟩
      · obtain ⟨hm, -, hf, -⟩ := h.stays a hno
        obtain ⟨⟨hmember, hnotices, hsnapshot, hwatches⟩, hlatch, hframe⟩ := h'.gone a hsecond
        exact ⟨⟨by rw [hmember, hm], hnotices, hsnapshot, hwatches⟩, hlatch, hf ▸ hframe⟩
    stays := fun a hd => by
      rw [hsplit a, not_or, not_and] at hd
      obtain ⟨hno, hno'⟩ := hd
      obtain ⟨hm, hsn, hf, hw⟩ := h.stays a hno
      obtain ⟨hm', hsn', hf', hw'⟩ := h'.stays a (hno' hno)
      refine ⟨hm'.trans hm, hsn'.trans hsn, hf'.trans hf, fun hl => ?_⟩
      have hlu : HeldLaw u := heldLaw_of_fitTested (h.drops.fit hl)
      exact watched_trans (h.drops.fit hl) (h'.drops.fit hlu) h'.drops.countsLe h'.drops.used (hw hl) (hw' hlu)
    absent := fun a hab hn hl hw => by
      obtain ⟨hn', hl', hw'⟩ := h.absent a hab hn hl hw
      have hno : ¬drainedBy s u ms a := fun hd => by
        obtain ⟨hclosing, -⟩ := hd
        rw [(isMember_iff s a).mpr (.inr hclosing)] at hab
        cases hab
      have hmember : u.isMember a = false := by
        unfold State.isMember at hab ⊢
        rwa [(h.stays a hno).1]
      exact h'.absent a hmember hn' hl' hw'
    told := fun hslot hmembers b => by
      have hstay (a : Agent) : u.members[a] = s.members[a] := by
        by_cases hd : drainedBy s u ms a
        · obtain ⟨hoffline, hlatch, -⟩ := h.gone a hd
          obtain ⟨⟨hmember, -⟩, -⟩ := h'.offline_stays hoffline hlatch
          obtain ⟨hclosing, -⟩ := hd
          rw [State.portIs, ← hmembers, hmember] at hclosing
          cases hclosing
        · exact (h.stays a hd).1
      have hmu : u.members = s.members := vec4_ext hstay
      have hus : u.slot = none := by
        have hl : HeldLaw s := fun x hx => by
          rw [hslot] at hx
          cases hx
        exact ((fitTested_none hslot).mp (h.drops.fit hl)).2.1.trans hslot
      exact toldEach_append (h.told hslot hmu b) (h'.told hus (hmembers.trans hmu.symm) b) (by rw [hmu]) }

/-! ## The releases of a list of descriptors -/

/-- What the release of descriptor `d` on a removal path offers agent `b` (R43). -/
def State.offeredFor (s : State) (path : RemovalPath) (b : Agent) (d : DescId) : List Notice :=
  match s.admitted d with
  | none => []
  | some (m, adm) => removalTo path m adm b

theorem offeredFor_admitted {s : State} {d : DescId} {m : Message} {adm : Admission} (path : RemovalPath) (b : Agent)
    (h : s.admitted d = some (m, adm)) : s.offeredFor path b d = removalTo path m adm b := by
  unfold State.offeredFor
  rw [h]

theorem admitted_descs {s : State} {d : DescId} {m : Message} {adm : Admission} (h : s.admitted d = some (m, adm)) :
    s.descs[d] = .queued m adm ∨ s.descs[d] = .inHand m adm := by
  unfold State.admitted at h
  cases hd : s.descs[d] with
  | free => simp [hd] at h
  | staging m' => simp [hd] at h
  | queued m' adm' => simp_all
  | inHand m' adm' => simp_all

theorem release_admitted_released {s : State} {d : DescId} {m : Message} {adm : Admission} (path : RemovalPath)
    (h : s.admitted d = some (m, adm)) : Released s (s.release d path) d m (removalTo path m adm) := by
  rcases admitted_descs h with hd | hd
  · exact release_queued_released path hd
  · exact release_inHand_released path hd

theorem PlaceLaw.admitted_queue {s : State} (hplace : PlaceLaw s) {d : DescId} {m : Message} {adm : Admission}
    (h : s.admitted d = some (m, adm)) {a : Agent} {k : MsgClass} (hmem : d ∈ (s.queues[a]).get k) : m.dest = a := by
  obtain ⟨m', adm', hdesc, hdest, -⟩ := hplace.queue hmem
  rw [admitted_queued hdesc] at h
  cases h
  exact hdest

theorem PlaceLaw.admitted_hand {s : State} (hplace : PlaceLaw s) {d : DescId} {m : Message} {adm : Admission}
    (h : s.admitted d = some (m, adm)) {a : Agent} {k : MsgClass} (hhand : (s.hands[a]).get k = some d) : m.dest = a := by
  obtain ⟨m', adm', hdesc, hdest, -⟩ := hplace.hand hhand
  rw [admitted_inHand hdesc] at h
  cases h
  exact hdest

/-- The release of a message to another agent leaves what an agent holds. -/
theorem release_holdsNothing_other {s : State} (hplace : PlaceLaw s) {d : DescId} {m : Message} {adm : Admission}
    (path : RemovalPath) (h : s.admitted d = some (m, adm)) {a : Agent} (ha : a ≠ m.dest) :
    (s.release d path).holdsNothing a = s.holdsNothing a := by
  have hqueues (k : MsgClass) : ((s.release d path).queues[a]).get k = (s.queues[a]).get k := by
    rw [release_queues s hplace, List.filter_eq_self]
    intro x hx
    simp only [decide_eq_true_eq]
    rintro rfl
    exact ha (hplace.admitted_queue h hx).symm
  have hhands (k : MsgClass) : ((s.release d path).hands[a]).get k = (s.hands[a]).get k := by
    rw [release_hands s hplace, if_neg fun hhand => ha (hplace.admitted_hand h hhand).symm]
  unfold State.holdsNothing
  simp only [hqueues, hhands]

/-- R42: the admitted messages of a list of descriptors released one after another. -/
theorem releasedAll_releaseAll (path : RemovalPath) (ds : List DescId) (hnodup : ds.Nodup) (s : State) (hplace : PlaceLaw s)
    (hds : ∀ d ∈ ds, s.admitted d ≠ none) :
    ReleasedAll s (s.releaseAll ds path) (ds.filterMap s.message) (fun b => ds.flatMap (s.offeredFor path b)) := by
  induction ds generalizing s with
  | nil => exact ReleasedAll.nil s
  | cons d rest ih =>
    obtain ⟨hd, hrest⟩ := List.nodup_cons.mp hnodup
    obtain ⟨⟨m, adm⟩, hadmitted⟩ := Option.ne_none_iff_exists'.mp (hds d List.mem_cons_self)
    have hstaging (m' : Message) : s.descs[d] ≠ .staging m' := by
      rcases admitted_descs hadmitted with hdesc | hdesc <;> simp [-Fin.getElem_fin, hdesc]
    have hsame (e : DescId) (he : e ∈ rest) : (s.release d path).descs[e] = s.descs[e] := by
      rw [release_descs, if_neg fun hed : e = d => hd (hed ▸ he)]
    have hone : ReleasedAll s (s.release d path) [m] (removalTo path m adm) :=
      ReleasedAll.one (release_admitted_released path hadmitted) (by simp)
        (fun a ha => release_holdsNothing_other hplace path hadmitted ha)
        (fun a ha => (thins_release hplace d path).holdsNothing ha)
    have hmore := ih hrest (s.release d path) (release_place s hplace d path hstaging) fun e he => by
      rw [admitted_congr (hsame e he)]
      exact hds e (List.mem_cons_of_mem _ he)
    have hmessage : s.message d = some m := by
      rcases admitted_descs hadmitted with hdesc | hdesc
      · exact message_queued hdesc
      · exact message_inHand hdesc
    have hmessages : rest.filterMap (s.release d path).message = rest.filterMap s.message :=
      List.filterMap_congr fun e he => message_congr (hsame e he)
    have hoffers (b : Agent) :
        rest.flatMap ((s.release d path).offeredFor path b) = rest.flatMap (s.offeredFor path b) :=
      List.flatMap_congr fun e he => by
        unfold State.offeredFor
        rw [admitted_congr (hsame e he)]
    have hall := hone.trans hmore
    simp only [hmessages, hoffers] at hall
    simpa only [State.releaseAll, List.foldl_cons, List.filterMap_cons, hmessage, List.flatMap_cons,
      offeredFor_admitted path _ hadmitted, List.singleton_append] using hall

end Sys2Proof.Machine

/-! The expiry pass (O46). -/

namespace Sys2Proof.Machine

/-! ## What an expiry pass releases (R114) -/

/-- R114: a message is old under some lifetimes. -/
def State.isOld (s : State) (life : PerClass Nat) (m : Message) (adm : Admission) : Bool :=
  decide (life.get m.cls ≠ 0 ∧ life.get m.cls ≤ (s.ticks - adm.tick).toNat)

/-- R114: the message of descriptor `d` is admitted and old. -/
def State.isOldAt (s : State) (life : PerClass Nat) (d : DescId) : Bool :=
  match s.admitted d with
  | none => false
  | some (m, adm) => s.isOld life m adm

theorem isOldAt_queued {s : State} {life : PerClass Nat} {d : DescId} {m : Message} {adm : Admission}
    (h : s.descs[d] = .queued m adm) : s.isOldAt life d = s.isOld life m adm := by
  unfold State.isOldAt
  rw [admitted_queued h]

theorem expiredIn_eq {s : State} (hplace : PlaceLaw s) (life : PerClass Nat) (a : Agent) (k : MsgClass) :
    s.expiredIn life a k = ((s.queues[a]).get k).filter (s.isOldAt life) := by
  unfold State.expiredIn
  split_ifs with hlife
  · refine (List.filter_eq_nil_iff.mpr fun d hd => ?_).symm
    obtain ⟨m, adm, hdesc, -, hcls⟩ := hplace.queue hd
    rw [isOldAt_queued hdesc, State.isOld, hcls]
    simp [hlife]
  · refine List.filter_congr fun d hd => ?_
    obtain ⟨m, adm, hdesc, -, hcls⟩ := hplace.queue hd
    rw [isOldAt_queued hdesc, State.isOld, hcls, hdesc]
    exact decide_eq_decide.mpr (by simp [hlife, State.age, -BitVec.toNat_sub])

theorem expiredAll_eq {s : State} (hplace : PlaceLaw s) (life : PerClass Nat) : s.expiredAll life =
    agents.flatMap fun a => classes.flatMap fun k => ((s.queues[a]).get k).filter (s.isOldAt life) := by
  unfold State.expiredAll
  simp only [expiredIn_eq hplace]

theorem mem_expiredAll_iff {s : State} (hplace : PlaceLaw s) {life : PerClass Nat} {d : DescId} :
    d ∈ s.expiredAll life ↔ ∃ m adm, s.descs[d] = .queued m adm ∧ s.isOld life m adm = true := by
  simp only [mem_expiredAll, expiredIn_eq hplace, List.mem_filter]
  constructor
  · rintro ⟨a, k, hqueue, hold⟩
    obtain ⟨m, adm, hdesc, -, -⟩ := hplace.queue hqueue
    exact ⟨m, adm, hdesc, by rwa [← isOldAt_queued hdesc]⟩
  · rintro ⟨m, adm, hdesc, hold⟩
    exact ⟨m.dest, m.cls, hplace.queued hdesc, by rwa [isOldAt_queued hdesc]⟩

theorem expiredAll_nodup {s : State} (hplace : PlaceLaw s) (life : PerClass Nat) : (s.expiredAll life).Nodup := by
  have hnodup := hplace.1
  have hplaced {a : Agent} {k : MsgClass} {d : DescId} (hd : d ∈ ((s.queues[a]).get k).filter (s.isOldAt life)) :
      ∃ m adm, s.descs[d] = .queued m adm ∧ m.dest = a ∧ m.cls = k := hplace.queue (List.mem_filter.mp hd).1
  have hapart {a b : Agent} {j k : MsgClass} {d : DescId} (hd : d ∈ ((s.queues[a]).get j).filter (s.isOldAt life))
      (hd' : d ∈ ((s.queues[b]).get k).filter (s.isOldAt life)) : a = b ∧ j = k := by
    obtain ⟨m, adm, hdesc, rfl, rfl⟩ := hplaced hd
    obtain ⟨m', adm', hdesc', rfl, rfl⟩ := hplaced hd'
    rw [hdesc] at hdesc'
    cases hdesc'
    exact ⟨rfl, rfl⟩
  rw [expiredAll_eq hplace]
  refine List.nodup_flatMap.mpr ⟨fun a _ => List.nodup_flatMap.mpr ⟨fun k _ => (hnodup a k).filter _, ?_⟩, ?_⟩
  · refine (show classes.Nodup by decide).imp fun {j k} hne d hd hd' => hne (hapart hd hd').2
  · refine (show agents.Nodup by decide).imp fun {a b} hne d hd hd' => ?_
    obtain ⟨j, -, hj⟩ := List.mem_flatMap.mp hd
    obtain ⟨k, -, hk⟩ := List.mem_flatMap.mp hd'
    exact hne (hapart hj hk).1

theorem eq_singleton_of_nodup {α : Type} {l : List α} {x : α} (hnodup : l.Nodup) (hx : x ∈ l) (h : ∀ y ∈ l, y = x) :
    l = [x] := by
  refine List.perm_singleton.mp ((List.perm_ext_iff_of_nodup hnodup (List.nodup_singleton x)).mpr fun y => ?_)
  rw [List.mem_singleton]
  exact ⟨h y, fun hy => hy ▸ hx⟩

theorem filter_notMem_eq_self {α : Type} [DecidableEq α] {o : Option α} {l : List α} (h : ∀ x, o = some x → x ∉ l) :
    o.filter (fun x => x ∉ l) = o := by
  cases o with
  | none => rfl
  | some x => simp [Option.filter, h x rfl]

theorem cellsOf_eq (s : State) (ds : List DescId) : s.cellsOf ds = (ds.filterMap s.message).flatMap Message.cells := by
  induction ds with
  | nil => rfl
  | cons d rest ih =>
    have hcons : s.cellsOf (d :: rest) = s.cellsOf [d] ++ s.cellsOf rest := by simp [State.cellsOf]
    rw [hcons, ih]
    cases hm : s.message d with
    | none => simp [State.cellsOf, hm]
    | some m => simp [State.cellsOf, hm]

/-- The EXPIRED of some messages, each to its source (R116). -/
def State.expiredTo (s : State) (d : DescId) : Option (Agent × Notice) :=
  match s.admitted d with
  | none => none
  | some (m, adm) => some (m.source, .expired m.dest m.cls adm.tag)

theorem offersTo_expired (s : State) (ds : List DescId) (b : Agent) :
    offersTo b (ds.filterMap s.expiredTo) = ds.flatMap (s.offeredFor .expired b) := by
  induction ds with
  | nil => rfl
  | cons d rest ih =>
    rw [List.flatMap_cons, ← ih]
    cases h : s.admitted d with
    | none => simp [State.expiredTo, State.offeredFor, h]
    | some x =>
      obtain ⟨m, adm⟩ := x
      rw [offeredFor_admitted .expired b h]
      rcases eq_or_ne b m.source with hb | hb <;>
        simp [State.expiredTo, removalTo, removalNotice, offersTo, h, hb, Ne.symm]

/-- The agents that a pass from `s` to `t` brings to OFFLINE. -/
theorem drainedBy_expired {s t : State} (hplace : PlaceLaw s) (life : PerClass Nat) {a : Agent} :
    (s.leaverAt t a = some a ∧ ∃ (d : DescId) (m : Message) (adm : Admission),
      s.descs[d] = .queued m adm ∧ s.isOld life m adm = true ∧ m.dest = a) ↔
      drainedBy s t ((s.expiredAll life).filterMap s.message) a := by
  rw [leaverAt_eq_some, and_assoc]
  refine and_congr_right fun _ => and_congr_right fun _ => ⟨?_, ?_⟩
  · rintro ⟨d, m, adm, hdesc, hold, hdest⟩
    have hd := (mem_expiredAll_iff (life := life) hplace).mpr ⟨m, adm, hdesc, hold⟩
    exact ⟨m, List.mem_filterMap.mpr ⟨d, hd, message_queued hdesc⟩, hdest⟩
  · rintro ⟨m, hm, hdest⟩
    obtain ⟨d, hd, hmessage⟩ := List.mem_filterMap.mp hm
    obtain ⟨m', adm, hdesc, hold⟩ := (mem_expiredAll_iff hplace).mp hd
    rw [message_queued hdesc] at hmessage
    cases hmessage
    exact ⟨d, m, adm, hdesc, hold, hdest⟩

theorem takePass_none {s : State} (h : s.passDue = none) : s.takePass = s := by
  unfold State.takePass
  rw [h]

theorem takePass_some {s : State} {life : PerClass Nat} (h : s.passDue = some life) :
    s.takePass = { s with passDue := none }.releaseAll (s.expiredAll life) .expired := by
  unfold State.takePass
  rw [h]

/-- Settles O46. -/
theorem expiryPassReleasesTheOld : Obligations.ExpiryPassReleasesTheOld := by
  intro s hplace
  refine ⟨fun hpass => ?notdue, fun life hpass => ?due⟩
  case notdue =>
    exact congrArg Host.Outcome.next (takePass_none hpass)
  case due =>
    have hexec : exec .expiryPass s = .next s.takePass := rfl
    rw [takePass_some hpass] at hexec
    have hmem {d : DescId} := mem_expiredAll_iff (life := life) (d := d) hplace

    set u : State := { s with passDue := none } with hu
    have hplace' : PlaceLaw u := placeLaw_congr (s := s) hplace rfl rfl rfl rfl
    have hstaging (d : DescId) (hd : d ∈ s.expiredAll life) (m : Message) : u.descs[d] ≠ .staging m := by
      obtain ⟨m', adm, hdesc, -⟩ := hmem.mp hd
      intro hstaged
      exact absurd (hdesc.symm.trans hstaged) (by simp)
    have hadmitted (d : DescId) (hd : d ∈ s.expiredAll life) : u.admitted d ≠ none := by
      obtain ⟨m, adm, hdesc, -⟩ := hmem.mp hd
      rw [admitted_queued (s := u) hdesc]
      simp
    have hreleased := releasedAll_releaseAll .expired (s.expiredAll life) (expiredAll_nodup hplace life) u hplace' hadmitted
    have hdescs (d : DescId) := releaseAll_descs u (s.expiredAll life) d .expired
    obtain ⟨-, hqueues, hhands⟩ := releaseAll_place u hplace' (s.expiredAll life) .expired hstaging
    have hpassDue : (u.releaseAll (s.expiredAll life) .expired).passDue = none := by simp [hu]
    have hframe := State.releaseAll_frame u (s.expiredAll life) .expired
    have hsingle (d : DescId) (m : Message) (adm : Admission) (hdesc : s.descs[d] = .queued m adm)
        (hd : s.expiredAll life = [d]) :
        Released u (u.releaseAll (s.expiredAll life) .expired) d m (removalTo .expired m adm) := by
      rw [hd]
      exact release_queued_released .expired hdesc
    generalize u.releaseAll (s.expiredAll life) .expired = t at *
    refine ⟨t, hexec, hpassDue, fun d m adm hdesc hold => ?_, fun d m adm hdesc hold => ?_, fun d hno => ?_, fun a k => ?_,
      fun a k => ?_, fun d m adm hdesc hold hone => ?_, ?_, ?_, fun a => ⟨fun hgone => ?_, fun hgone => ?_⟩,
      fun hslot hmembers b => ?_, ?_⟩
    · rw [hdescs, if_pos (hmem.mpr ⟨m, adm, hdesc, hold⟩)]
    · rw [hdescs, if_neg fun hd => ?_]
      · exact hdesc
      · obtain ⟨m', adm', hdesc', hold'⟩ := hmem.mp hd
        obtain ⟨rfl, rfl⟩ : m = m' ∧ adm = adm' := by simpa [-Fin.getElem_fin, hdesc] using hdesc'
        exact absurd (hold.symm.trans hold') (by decide)
    · rw [hdescs, if_neg fun hd => ?_]
      obtain ⟨m, adm, hdesc, -⟩ := hmem.mp hd
      exact hno m adm hdesc
    · rw [hqueues]
      refine List.filter_congr fun d hd => decide_eq_decide.mpr ?_
      obtain ⟨m, adm, hdesc, -, -⟩ := hplace.queue hd
      rw [hdescs]
      split_ifs with hin
      · exact iff_of_false (not_not.mpr hin) (by simp)
      · exact iff_of_true hin fun hfree => by
          rw [hdesc] at hfree
          cases hfree
    · rw [hhands]
      exact filter_notMem_eq_self fun d hd hin => by
        obtain ⟨m, adm, hdesc, -, -⟩ := hplace.hand hd
        obtain ⟨m', adm', hdesc', -⟩ := hmem.mp hin
        rw [hdesc] at hdesc'
        cases hdesc'
    · have h := hsingle d m adm hdesc (eq_singleton_of_nodup (expiredAll_nodup hplace life)
        (hmem.mpr ⟨m, adm, hdesc, hold⟩) fun e he => by
          obtain ⟨m', adm', hdesc', hold'⟩ := hmem.mp he
          exact hone e m' adm' hdesc' hold')
      exact ⟨h.dropped, h.fitTested, fun b => releaseTold_congr (h.told b) rfl rfl rfl rfl rfl⟩
    · rw [hreleased.drops.scrubQueue, ← cellsOf_eq, expiredAll_eq hplace]
      rfl
    · exact hreleased.drops.fit
    · exact hreleased.gone a ((drainedBy_expired hplace life).mp hgone)
    · exact hreleased.stays a fun h => hgone ((drainedBy_expired hplace life).mpr h)
    · have htold := hreleased.told hslot hmembers b
      rw [← offersTo_expired, expiredAll_eq hplace] at htold
      exact toldInOrder_of_toldEach htold rfl rfl rfl rfl rfl
    · rw [hframe]

end Sys2Proof.Machine

/-! The fencing of an agent (O47): its staging, the messages destined to it, its own blocks, then the round. -/

namespace Sys2Proof.Machine

/-! ## The abort of a staging (R69) -/

/-- The descriptor that agent `a` is staging. -/
def State.stagedBy (s : State) (a : Agent) : List DescId := ((s.stagings[a]).map StagingContext.desc).toList

theorem dropRelease_spec (s : State) (d : DescId) (m : Message) :
    Drops s (s.dropRecord d m).runFitTest [m] ∧ (s.slot = none → ∀ b : Agent,
      toldEach s (s.dropRecord d m).runFitTest b [] ∧ (s.dropRecord d m).runFitTest.watches[b] = s.watches[b]) := by
  obtain ⟨hfit, htold⟩ := drop_told s d m
  have hdropped : dropped s (s.dropRecord d m).runFitTest d m := by
    have h := dropRecord_dropped s d m
    unfold dropped at h ⊢
    simpa [-Fin.getElem_fin] using h
  refine ⟨drops_of_dropped hdropped (by simp) hfit, fun hslot b => ?_⟩
  have hb := htold b
  unfold releaseTold at hb
  rw [if_neg (by simp), appliesTo_none hslot, if_neg (by decide)] at hb
  simpa [peerNotice] using hb

/-- From `s` to `t` the staging of agent `a`, where it has one, was aborted. -/
structure Aborted (s t : State) (a : Agent) : Prop where
  drops : Drops s t ((s.stagedBy a).filterMap s.message)
  told : s.slot = none → ∀ b : Agent, toldEach s t b [] ∧ t.watches[b] = s.watches[b]
  descs : ∀ d : DescId, t.descs[d] = if d ∈ s.stagedBy a then .free else s.descs[d]
  stagings : t.stagings = s.stagings.set a none
  others : ∀ b : Agent, b ≠ a → t.frames[b] = s.frames[b]
  still : s.stagings[a] = none → t.frames[a] = s.frames[a]
  port : ∀ c, s.stagings[a] = some c →
    (t.frames[a]).phase = .turnaround ∧ (t.frames[a]).out = [0x5A, 0x0A] ∧
      (t.frames[a]).bitPos = (s.frames[a]).bitPos ∧ (t.frames[a]).skipping = decide (0 < (s.frames[a]).bitPos) ∧
      (t.frames[a]).last = some ⟨0x20, .fenced, none⟩
  frame : t = { s with
    cellMap := t.cellMap, scrubQueue := t.scrubQueue, engine := t.engine, clearLeft := t.clearLeft, descs := t.descs
    inUse := t.inUse, stagings := t.stagings, frames := t.frames, table := t.table, slot := t.slot, epoch := t.epoch
    prescaleCount := t.prescaleCount, periodCount := t.periodCount, postscaleCount := t.postscaleCount
    notices := t.notices, latches := t.latches, watches := t.watches }

theorem Drops.congr {s t t' : State} {ms : List Message} (h : Drops s t ms) (ht : t' = { t with
    stagings := t'.stagings, frames := t'.frames, members := t'.members, snapshots := t'.snapshots, notices := t'.notices
    latches := t'.latches, watches := t'.watches }) : Drops s t' ms := by
  obtain ⟨hscrub, hmap, hinUse, hengine, hused, hfit⟩ := h
  rw [ht]
  exact ⟨hscrub, hmap, hinUse, hengine, hused, hfit⟩

theorem aborted_none {s : State} {a : Agent} (h : s.stagings[a] = none) : Aborted s (s.abortStaging a) a := by
  have hsame : s.abortStaging a = s := by
    unfold State.abortStaging
    rw [h]
  have hnone : s.stagedBy a = [] := by simp [-Fin.getElem_fin, State.stagedBy, h]
  rw [hsame]
  exact {
    drops := by rw [hnone]; exact Drops.refl s
    told := fun _ b => ⟨toldEach_nil rfl rfl, rfl⟩
    descs := fun d => by simp [-Fin.getElem_fin, hnone]
    stagings := by
      refine (vec4_ext fun b => ?_ : s.stagings.set a none = s.stagings).symm
      by_cases hb : b = a
      · rw [hb, vec_get_set_same, h]
      · rw [vec_get_set_ne _ _ _ _ (Ne.symm hb)]
    others := fun _ _ => rfl
    still := fun _ => rfl
    port := fun c hc => by
      rw [h] at hc
      cases hc
    frame := rfl }

theorem aborted_some {s : State} {a : Agent} {c : StagingContext} (hplace : PlaceLaw s) (h : s.stagings[a] = some c) :
    Aborted s (s.abortStaging a) a := by
  obtain ⟨m, hdesc, -⟩ := hplace.staging h
  obtain ⟨hdrops, htold⟩ := dropRelease_spec s c.desc m
  have hdescs (d : DescId) := release_descs s c.desc d .unadmitted
  have habort : s.abortStaging a = (((s.release c.desc .unadmitted).setStaging a none).respond a codePost
      ((((s.release c.desc .unadmitted).setStaging a none).frames[a]).bytePos) .fenced [] none).skipRest a
        (s.frames[a]).bitPos := by
    unfold State.abortStaging
    rw [h]
  have hone : s.stagedBy a = [c.desc] := by simp [-Fin.getElem_fin, State.stagedBy, h]
  have hframe := State.release_frame s c.desc .unadmitted
  have hstill : (s.release c.desc .unadmitted).queues = s.queues ∧ (s.release c.desc .unadmitted).hands = s.hands ∧
      (s.release c.desc .unadmitted).members = s.members ∧ (s.release c.desc .unadmitted).snapshots = s.snapshots ∧
      (s.release c.desc .unadmitted).frames = s.frames := by
    rw [release_staging s c.desc m .unadmitted hdesc]
    simp
  rw [release_staging s c.desc m .unadmitted hdesc] at *
  generalize (s.dropRecord c.desc m).runFitTest = w at *
  obtain ⟨hqueues, hhands, hmembers, hsnapshots, hframes⟩ := hstill
  rw [habort]
  exact {
    drops := by
      rw [hone, List.filterMap_cons, message_staging hdesc]
      exact hdrops.congr rfl
    told := fun hslot b => htold hslot b
    descs := fun d => by
      rw [hone]
      exact (hdescs d).trans (by simp only [List.mem_singleton])
    stagings := by
      show w.stagings.set a none = _
      rw [hframe]
    others := fun b hb => by
      simp [-Fin.getElem_fin, State.skipRest, State.respond, State.record, State.respondOnly, State.setFrame,
        vec_get_set_ne _ _ _ _ (Ne.symm hb), hframes]
    still := fun hnone => by
      rw [h] at hnone
      cases hnone
    port := fun _ _ => by
      simp [-Fin.getElem_fin, State.skipRest, State.respond, State.record, State.respondOnly, State.setFrame,
        Config.turnaround, Result.code, codePost]
    frame := by
      rw [hframe, hqueues, hhands, hmembers, hsnapshots]
      rfl }

theorem abortStaging_aborted {s : State} (hplace : PlaceLaw s) (a : Agent) : Aborted s (s.abortStaging a) a := by
  cases h : s.stagings[a] with
  | none => exact aborted_none h
  | some c => exact aborted_some hplace h

/-! ## The discard (R41, R140) -/

/-- R41: the messages destined to agent `a` are those in its hand slots and in its queues. -/
theorem mem_heldFor_iff {s : State} (hplace : PlaceLaw s) {a : Agent} {d : DescId} :
    d ∈ s.heldFor a ↔ ∃ m adm, s.admitted d = some (m, adm) ∧ m.dest = a := by
  constructor
  · intro hd
    rcases List.mem_append.mp hd with hd | hd
    · obtain ⟨k, -, hk⟩ := List.mem_filterMap.mp hd
      obtain ⟨m, adm, hdesc, hdest, -⟩ := hplace.hand hk
      exact ⟨m, adm, admitted_inHand hdesc, hdest⟩
    · obtain ⟨k, -, hk⟩ := List.mem_flatMap.mp hd
      obtain ⟨m, adm, hdesc, hdest, -⟩ := hplace.queue hk
      exact ⟨m, adm, admitted_queued hdesc, hdest⟩
  · rintro ⟨m, adm, hadmitted, rfl⟩
    rcases admitted_descs hadmitted with hdesc | hdesc
    · exact mem_heldFor_of_queue (hplace.queued hdesc)
    · exact mem_heldFor_of_hand (hplace.inHand hdesc)

theorem heldFor_nodup {s : State} (hplace : PlaceLaw s) (a : Agent) : (s.heldFor a).Nodup := by
  have hnodup := hplace.1
  have hclasses : classes.Nodup := by decide
  refine List.nodup_append.mpr ⟨hclasses.filterMap fun j k d hj hk => ?_,
    List.nodup_flatMap.mpr ⟨fun k _ => hnodup a k, hclasses.imp fun {j k} hne d hj hk => ?_⟩, fun d hd e he hde => ?_⟩
  · obtain ⟨m, adm, hdesc, -, rfl⟩ := hplace.hand hj
    obtain ⟨m', adm', hdesc', -, rfl⟩ := hplace.hand hk
    rw [hdesc] at hdesc'
    cases hdesc'
    rfl
  · obtain ⟨m, adm, hdesc, -, rfl⟩ := hplace.queue hj
    obtain ⟨m', adm', hdesc', -, rfl⟩ := hplace.queue hk
    rw [hdesc] at hdesc'
    cases hdesc'
    exact hne rfl
  · subst hde
    obtain ⟨j, -, hj⟩ := List.mem_filterMap.mp hd
    obtain ⟨k, -, hk⟩ := List.mem_flatMap.mp he
    obtain ⟨m, adm, hdesc, -⟩ := hplace.hand hj
    obtain ⟨m', adm', hdesc', -⟩ := hplace.queue hk
    rw [hdesc] at hdesc'
    cases hdesc'

theorem heldFor_length {s : State} (hplace : PlaceLaw s) (a : Agent) :
    (s.heldFor a).length = (List.finRange 128).countP (fun d => match s.admitted d with
      | none => false
      | some (m, _) => m.dest = a) := by
  refine (countP_mem (heldFor_nodup hplace a) fun d => ?_).symm
  rw [mem_heldFor_iff hplace]
  cases h : s.admitted d with
  | none => simp
  | some x =>
    obtain ⟨m, adm⟩ := x
    simp

/-- From `s` to `t` the messages destined to agent `a`, which is FENCED, were discarded. -/
structure Discarded (s t : State) (a : Agent) : Prop where
  drops : Drops s t ((s.heldFor a).filterMap s.message)
  told : s.slot = none → ∀ b : Agent,
    toldEach s t b ((s.heldFor a).flatMap (s.offeredFor .discarded b)) ∧ t.watches[b] = s.watches[b]
  descs : ∀ d : DescId, t.descs[d] = if d ∈ s.heldFor a then .free else s.descs[d]
  empty : t.holdsNothing a = true
  queues : ∀ b : Agent, b ≠ a → t.queues[b] = s.queues[b] ∧ t.hands[b] = s.hands[b]
  members : t.members = s.members.set a
    { s.members[a] with discards := min 65535 ((s.members[a]).discards + (s.heldFor a).length) }
  frame : t = { s with
    cellMap := t.cellMap, scrubQueue := t.scrubQueue, engine := t.engine, clearLeft := t.clearLeft, descs := t.descs
    inUse := t.inUse, queues := t.queues, hands := t.hands, members := t.members, table := t.table, slot := t.slot
    epoch := t.epoch, prescaleCount := t.prescaleCount, periodCount := t.periodCount, postscaleCount := t.postscaleCount
    notices := t.notices, latches := t.latches, watches := t.watches }

theorem discard_discarded {s : State} (hplace : PlaceLaw s) {a : Agent} (hfenced : s.portIs a .fenced) :
    Discarded s (s.discard a) a := by
  have hadmitted (d : DescId) (hd : d ∈ s.heldFor a) : s.admitted d ≠ none := by
    obtain ⟨m, adm, h, -⟩ := (mem_heldFor_iff hplace).mp hd
    rw [h]
    simp
  have hreleased := releasedAll_releaseAll .discarded (s.heldFor a) (heldFor_nodup hplace a) s hplace hadmitted
  have hdescs (d : DescId) := releaseAll_descs s (s.heldFor a) d .discarded
  obtain ⟨-, hqueues, hhands⟩ := releaseAll_place s hplace (s.heldFor a) .discarded fun d hd m => hplace.heldFor hd m
  have hframe := State.releaseAll_frame s (s.heldFor a) .discarded
  have hempty := discard_holdsNothing hplace a
  have hdiscard : s.discard a = (s.releaseAll (s.heldFor a) .discarded).setMember a
    { (s.releaseAll (s.heldFor a) .discarded).members[a] with
      discards := min 65535 (((s.releaseAll (s.heldFor a) .discarded).members[a]).discards + (s.heldFor a).length) } := rfl
  rw [hdiscard] at hempty ⊢
  generalize s.releaseAll (s.heldFor a) .discarded = w at *
  have hno (b : Agent) : ¬drainedBy s w ((s.heldFor a).filterMap s.message) b := by
    rintro ⟨hclosing, -, m, hm, rfl⟩
    obtain ⟨d, hd, hmessage⟩ := List.mem_filterMap.mp hm
    obtain ⟨m', adm, hadm, rfl⟩ := (mem_heldFor_iff hplace).mp hd
    obtain rfl : m = m' := by
      rcases admitted_descs hadm with hdesc | hdesc
      · exact Option.some.inj (hmessage.symm.trans (message_queued hdesc))
      · exact Option.some.inj (hmessage.symm.trans (message_inHand hdesc))
    rw [State.portIs] at hclosing hfenced
    rw [hclosing] at hfenced
    cases hfenced
  have hstays (b : Agent) := hreleased.stays b (hno b)
  simp only [forall_and] at hstays
  obtain ⟨hmembers, hsnapshots, hframes, hwatches⟩ := hstays
  replace hmembers : w.members = s.members := vec4_ext hmembers
  replace hsnapshots : w.snapshots = s.snapshots := vec4_ext hsnapshots
  replace hframes : w.frames = s.frames := vec4_ext hframes
  exact {
    drops := hreleased.drops.congr rfl
    told := fun hslot b => by
      have hheld : HeldLaw s := fun x hx => by
        rw [hslot] at hx
        cases hx
      exact ⟨hreleased.told hslot hmembers b, (watched_none hslot).mp (hwatches b hheld)⟩
    descs := hdescs
    empty := hempty
    queues := fun b hb => by
      have hnot (d : DescId) (hd : d ∈ s.heldFor a) : ∃ m adm, s.admitted d = some (m, adm) ∧ m.dest ≠ b := by
        obtain ⟨m, adm, hadm, hdest⟩ := (mem_heldFor_iff hplace).mp hd
        exact ⟨m, adm, hadm, by rw [hdest]; exact Ne.symm hb⟩
      refine ⟨PerClass.ext_get _ _ fun k => (hqueues b k).trans (List.filter_eq_self.mpr fun d hd => decide_eq_true fun hin => ?_),
        PerClass.ext_get _ _ fun k => (hhands b k).trans (filter_notMem_eq_self fun d hd hin => ?_)⟩
      · obtain ⟨m, adm, hadm, hdest⟩ := hnot d hin
        exact hdest (hplace.admitted_queue hadm hd)
      · obtain ⟨m, adm, hadm, hdest⟩ := hnot d hin
        exact hdest (hplace.admitted_hand hadm hd)
    members := by
      rw [← hmembers]
      rfl
    frame := by
      rw [hframe, hsnapshots, hframes]
      rfl }

/-! ## What fencing reclaims (R138) -/

/-- R138 steps 1 to 3: the fencing of agent `a` up to the discard. -/
def State.reclaim (s : State) (a : Agent) : State :=
  ((((s.setMember a { s.members[a] with state := .fenced, leaseLeft := 0 }).zeroFill a).abortStaging a).discard a)

/-- R138 step 4: the blocks of agent `a` cleared. -/
def State.clearOwn (s : State) (a : Agent) : State := ((s.clearNotices a).setSnapshot a (.all false)).disarm a

theorem fence_eq (s : State) (a : Agent) :
    s.fence a = (((s.reclaim a).clearOwn a).leaveRound a).offerPeers a (.peerFenced a) := rfl

/-- R139: the port of an agent that is fenced, before its staging is aborted. -/
structure PortFenced (f g : Framing) : Prop where
  bitPos : g.bitPos = f.bitPos
  answering : f.phase = .turnaround ∨ f.phase = .response → zeroed f g
  still : ¬(f.phase = .turnaround ∨ f.phase = .response) → g = f

theorem zeroFill_portFenced (s : State) (a : Agent) : PortFenced s.frames[a] (s.zeroFill a).frames[a] := by
  by_cases h : (s.frames[a]).phase = .turnaround ∨ (s.frames[a]).phase = .response
  · have hzeroed := zeroFill_frame h
    refine ⟨?_, fun _ => hzeroed, fun hno => absurd h hno⟩
    obtain ⟨hsame, -⟩ := hzeroed
    rw [hsame]
  · rw [zeroFill_still h]
    exact ⟨rfl, fun hyes => absurd hyes h, fun _ => rfl⟩

theorem zeroFill_others (s : State) {a b : Agent} (h : b ≠ a) : (s.zeroFill a).frames[b] = s.frames[b] := by
  unfold State.zeroFill
  split
  · rfl
  · rfl
  · exact vec_get_set_ne _ _ _ _ (Ne.symm h)
  · exact vec_get_set_ne _ _ _ _ (Ne.symm h)

/-- From `s` to `w` agent `a` was fenced, up to the discard. -/
structure Reclaimed (s w : State) (a : Agent) : Prop where
  member : w.members[a] = { s.members[a] with
    state := .fenced, leaseLeft := 0, discards := min 65535 ((s.members[a]).discards + (s.heldFor a).length) }
  members : ∀ b : Agent, b ≠ a → w.members[b] = s.members[b]
  drops : Drops s w ((s.stagedBy a).filterMap s.message ++ (s.heldFor a).filterMap s.message)
  told : s.slot = none → ∀ b : Agent, b ≠ a →
    toldEach s w b ((s.heldFor a).flatMap (s.offeredFor .discarded b)) ∧ w.watches[b] = s.watches[b]
  descs : ∀ d : DescId, w.descs[d] = if d ∈ s.stagedBy a ∨ d ∈ s.heldFor a then .free else s.descs[d]
  empty : w.holdsNothing a = true
  queues : ∀ b : Agent, b ≠ a → w.queues[b] = s.queues[b] ∧ w.hands[b] = s.hands[b]
  stagings : w.stagings = s.stagings.set a none
  frames : ∀ b : Agent, b ≠ a → w.frames[b] = s.frames[b]
  still : s.stagings[a] = none → PortFenced s.frames[a] w.frames[a]
  port : ∀ c, s.stagings[a] = some c →
    (w.frames[a]).phase = .turnaround ∧ (w.frames[a]).out = [0x5A, 0x0A] ∧
      (w.frames[a]).bitPos = (s.frames[a]).bitPos ∧ (w.frames[a]).skipping = decide (0 < (s.frames[a]).bitPos) ∧
      (w.frames[a]).last = some ⟨0x20, .fenced, none⟩
  frame : w = { s with
    cellMap := w.cellMap, scrubQueue := w.scrubQueue, engine := w.engine, clearLeft := w.clearLeft, descs := w.descs
    inUse := w.inUse, queues := w.queues, hands := w.hands, stagings := w.stagings, members := w.members
    frames := w.frames, table := w.table, slot := w.slot, epoch := w.epoch
    prescaleCount := w.prescaleCount, periodCount := w.periodCount, postscaleCount := w.postscaleCount
    notices := w.notices, latches := w.latches, watches := w.watches }

/-- A staging is not a message that an agent holds. -/
theorem PlaceLaw.staged_not_held {s : State} (hplace : PlaceLaw s) {a b : Agent} {d : DescId} (h : d ∈ s.stagedBy a) :
    d ∉ s.heldFor b := by
  intro hheld
  unfold State.stagedBy at h
  rw [Option.mem_toList, Option.map_eq_some_iff] at h
  obtain ⟨c, hc, rfl⟩ := h
  obtain ⟨m, hdesc, -⟩ := hplace.staging hc
  exact hplace.heldFor hheld m hdesc

theorem heldLaw_of_none {s : State} (h : s.slot = none) : HeldLaw s := fun x hx => by
  rw [h] at hx
  cases hx

theorem heldFor_congr {s t : State} {a : Agent} (hq : t.queues = s.queues) (hh : t.hands = s.hands) :
    t.heldFor a = s.heldFor a := by
  unfold State.heldFor
  rw [hq, hh]

/-- From `s` to `u` agent `a` has become FENCED, and its port was zero-filled. -/
structure BecomesFenced (s u : State) (a : Agent) : Prop where
  member : u.members[a] = { s.members[a] with state := .fenced, leaseLeft := 0 }
  members : ∀ b : Agent, b ≠ a → u.members[b] = s.members[b]
  port : PortFenced s.frames[a] u.frames[a]
  frames : ∀ b : Agent, b ≠ a → u.frames[b] = s.frames[b]
  frame : u = { s with members := u.members, frames := u.frames }

theorem zeroFill_becomesFenced (s : State) (a : Agent) :
    BecomesFenced s ((s.setMember a { s.members[a] with state := .fenced, leaseLeft := 0 }).zeroFill a) a := by
  set f := s.setMember a { s.members[a] with state := .fenced, leaseLeft := 0 } with hf
  have hframe := State.zeroFill_frame f a
  have hmembers : (f.zeroFill a).members = f.members := by rw [hframe]
  refine ⟨?_, fun b hb => ?_, zeroFill_portFenced f a, fun b hb => zeroFill_others f hb, ?_⟩
  · rw [hmembers]
    exact vec_get_set_same _ _ _
  · rw [hmembers]
    exact vec_get_set_ne _ _ _ _ (Ne.symm hb)
  · rw [hframe]
    rfl

/-- The abort of the staging and the discard, taken together. -/
theorem reclaimed_of_discarded {s u v w : State} {a : Agent} (hplace : PlaceLaw s) (hfenced : BecomesFenced s u a)
    (habort : Aborted u v a) (hdiscard : Discarded v w a) : Reclaimed s w a := by
  have hudescs : u.descs = s.descs := by rw [hfenced.frame]
  have hustagings : u.stagings = s.stagings := by rw [hfenced.frame]
  have huslot : u.slot = s.slot := by rw [hfenced.frame]
  have hunotices : u.notices = s.notices := by rw [hfenced.frame]
  have hulatches : u.latches = s.latches := by rw [hfenced.frame]
  have huwatches : u.watches = s.watches := by rw [hfenced.frame]
  have hvmembers : v.members = u.members := by rw [habort.frame]
  have hvqueues : v.queues = s.queues := by rw [habort.frame, hfenced.frame]
  have hvhands : v.hands = s.hands := by rw [habort.frame, hfenced.frame]
  have hwframes : w.frames = v.frames := by rw [hdiscard.frame]
  have hwstagings : w.stagings = v.stagings := by rw [hdiscard.frame]
  have hstaged : u.stagedBy a = s.stagedBy a := by
    unfold State.stagedBy
    rw [hustagings]
  have hheld : v.heldFor a = s.heldFor a := heldFor_congr hvqueues hvhands
  have hdesc (d : DescId) (hd : d ∈ s.heldFor a) : v.descs[d] = s.descs[d] := by
    rw [habort.descs, hstaged, hudescs, if_neg fun hin => hplace.staged_not_held hin hd]
  have hfree : Drops s u [] := by
    rw [hfenced.frame]
    exact Drops.of_kept rfl rfl rfl rfl rfl rfl ⟨rfl, rfl, rfl, rfl, rfl, rfl⟩
  have hmessages : (v.heldFor a).filterMap v.message = (s.heldFor a).filterMap s.message := by
    rw [hheld]
    exact List.filterMap_congr fun d hd => message_congr (hdesc d hd)
  have hstagedMessages : (u.stagedBy a).filterMap u.message = (s.stagedBy a).filterMap s.message := by
    rw [hstaged]
    exact List.filterMap_congr fun d _ => message_congr (by rw [hudescs])
  have hoffers (b : Agent) :
      (v.heldFor a).flatMap (v.offeredFor .discarded b) = (s.heldFor a).flatMap (s.offeredFor .discarded b) := by
    rw [hheld]
    exact List.flatMap_congr fun d hd => by
      unfold State.offeredFor
      rw [admitted_congr (hdesc d hd)]
  exact {
    member := by rw [hdiscard.members, vec_get_set_same, hvmembers, hfenced.member, hheld]
    members := fun b hb => by
      rw [hdiscard.members, vec_get_set_ne _ _ _ _ (Ne.symm hb), hvmembers, hfenced.members b hb]
    drops := by
      have hdrops := hfree.trans (habort.drops.trans hdiscard.drops)
      rwa [hmessages, hstagedMessages] at hdrops
    told := fun hslot b hb => by
      have hnone : u.slot = none := huslot.trans hslot
      obtain ⟨habt, habw⟩ := habort.told hnone b
      obtain ⟨-, hvslot, -⟩ := (fitTested_none hnone).mp (habort.drops.fit (heldLaw_of_none hnone))
      obtain ⟨hdt, hdw⟩ := hdiscard.told (hvslot.trans hnone) b
      rw [hoffers] at hdt
      have hboth := toldEach_append habt hdt (by rw [hvmembers])
      exact ⟨toldEach_of_eq hboth (by rw [hfenced.members b hb]) (by rw [hunotices]) (by rw [hulatches]) rfl rfl,
        (hdw.trans habw).trans (by rw [huwatches])⟩
    descs := fun d => by
      rw [hdiscard.descs, hheld, habort.descs, hstaged, hudescs]
      by_cases h1 : d ∈ s.heldFor a
      · rw [if_pos h1, if_pos (.inr h1)]
      · rw [if_neg h1]
        exact if_congr (by simp only [h1, or_false]) rfl rfl
    empty := hdiscard.empty
    queues := fun b hb => by
      obtain ⟨hq, hh⟩ := hdiscard.queues b hb
      exact ⟨hq.trans (by rw [hvqueues]), hh.trans (by rw [hvhands])⟩
    stagings := by rw [hwstagings, habort.stagings, hustagings]
    frames := fun b hb => by rw [hwframes, habort.others b hb, hfenced.frames b hb]
    still := fun hnone => by
      rw [hwframes, habort.still (by rw [hustagings, hnone])]
      exact hfenced.port
    port := fun c hc => by
      have hp := habort.port c (by rw [hustagings, hc])
      rwa [hfenced.port.bitPos, ← hwframes] at hp
    frame := by
      rw [hdiscard.frame, habort.frame, hfenced.frame] }

theorem reclaim_reclaimed {s : State} (hplace : PlaceLaw s) (a : Agent) : Reclaimed s (s.reclaim a) a := by
  have hfenced := zeroFill_becomesFenced s a
  have hreclaim : s.reclaim a =
    ((((s.setMember a { s.members[a] with state := .fenced, leaseLeft := 0 }).zeroFill a).abortStaging a).discard a) := rfl
  rw [hreclaim]
  generalize (s.setMember a { s.members[a] with state := .fenced, leaseLeft := 0 }).zeroFill a = u at *
  have hplaceu : PlaceLaw u := placeLaw_congr hplace (by rw [hfenced.frame])
    (by rw [hfenced.frame]) (by rw [hfenced.frame]) (by rw [hfenced.frame])
  have habort := abortStaging_aborted hplaceu a
  have hmembers : (u.abortStaging a).members = u.members := by rw [habort.frame]
  have hstate : (u.abortStaging a).portIs a .fenced := by rw [State.portIs, hmembers, hfenced.member]
  exact reclaimed_of_discarded hplace hfenced habort (discard_discarded (abortStaging_place hplaceu a) hstate)

end Sys2Proof.Machine

/-! The fencing of an agent (O47): the round is told (R138 steps 5 and 6), and the statement. -/

namespace Sys2Proof.Machine

/-- From `w` to `t` the blocks of agent `a`, which is FENCED, were cleared, it left the round, and its peers were told. -/
structure FencingTold (w t : State) (a : Agent) : Prop where
  notices : t.notices[a] = []
  latches : t.latches[a] = none
  watches : t.watches[a] = .all none
  snapshots : t.snapshots = w.snapshots.set a (.all false)
  round : leftRound w t a
  tables : leaveTables w t a
  told : ∀ (s : State) (b : Agent) (first : List Notice), b ≠ a → toldEach s w b first → w.watches[b] = s.watches[b] →
    w.members[b] = s.members[b] → w.voting = s.voting → leaveTold s t a first [.peerFenced a] b
  frame : t = { w with
    snapshots := t.snapshots, voting := t.voting, table := t.table, slot := t.slot, epoch := t.epoch
    prescaleCount := t.prescaleCount, periodCount := t.periodCount, postscaleCount := t.postscaleCount
    notices := t.notices, latches := t.latches, watches := t.watches }

theorem clearOwn_frame (w : State) (a : Agent) : w.clearOwn a = { w with
    notices := w.notices.set a [], latches := w.latches.set a none, snapshots := w.snapshots.set a (.all false)
    watches := w.watches.set a (.all none) } := rfl

theorem clearOwn_fencingTold {w : State} {a : Agent} (hfenced : w.portIs a .fenced) :
    FencingTold w (((w.clearOwn a).leaveRound a).offerPeers a (.peerFenced a)) a := by
  have hx := clearOwn_frame w a
  generalize w.clearOwn a = x at *
  have hmembers : x.members = w.members := by rw [hx]
  have hvoting : x.voting = w.voting := by rw [hx]
  have habsent : x.isMember a = false := isMember_of_absent (.inr (by rw [State.portIs, hmembers]; exact hfenced))
  have hnotices : x.notices[a] = [] := by rw [hx]; exact vec_get_set_same _ _ _
  have hlatches : x.latches[a] = none := by rw [hx]; exact vec_get_set_same _ _ _
  have hwatches : x.watches[a] = .all none := by rw [hx]; exact vec_get_set_same _ _ _
  have hother (b : Agent) (hb : b ≠ a) :
      x.notices[b] = w.notices[b] ∧ x.latches[b] = w.latches[b] ∧ x.watches[b] = w.watches[b] := by
    rw [hx]
    exact ⟨vec_get_set_ne _ _ _ _ (Ne.symm hb), vec_get_set_ne _ _ _ _ (Ne.symm hb), vec_get_set_ne _ _ _ _ (Ne.symm hb)⟩
  obtain ⟨hrn, hrw⟩ := leaveRound_absent x a a habsent hwatches
  have hrtold := (leaveRound_told x a).2
  have hrl : (x.leaveRound a).latches[a] = none := leaveTold_latch_none (hrtold a) hlatches
  obtain ⟨htn, htl⟩ := offerPeers_self (x.leaveRound a) a (.peerFenced a)
  have hleft := leaveRound_leftRound w x a hvoting
  have htables : leaveTables w ((x.leaveRound a).offerPeers a (.peerFenced a)) a :=
    leaveRound_tables a (by rw [hx]; exact tableKept_refl w) hvoting (by simp [tableKept]) (by simp) (by simp)
  have hrmembers : (x.leaveRound a).members = x.members := by simp
  have hpeer (b : Agent) (hb : b ≠ a) := toldEach_peer (x.leaveRound a) (.peerFenced a) hb
  have hpeers := offerPeers_frames_latches (x.leaveRound a) a (.peerFenced a)
  have hframe := State.leaveRound_frame x a
  have hpframe := State.offerPeers_frame (x.leaveRound a) a (.peerFenced a)
  generalize x.leaveRound a = r at *
  generalize r.offerPeers a (.peerFenced a) = t at *
  exact {
    notices := htn.trans (hrn.trans hnotices)
    latches := htl.trans hrl
    watches := by
      rw [hpframe]
      exact hrw
    snapshots := by rw [hpframe, hframe, hx]
    round := leftRound_congr hleft rfl (by rw [hpframe])
    tables := htables
    told := fun s b first hb hfirst hwb hmb hv => by
      obtain ⟨hn, hl, hw⟩ := hother b hb
      exact leaveTold_between (hrtold b) (toldEach_of_eq hfirst rfl rfl rfl hn hl) (hpeer b hb) (hvoting.trans hv)
        (hw.trans hwb) (by rw [hmembers, hmb]) (by rw [hrmembers]) hpeers
    frame := by
      rw [hpframe, hframe, hx] }

/-- R138 step 5: the tables where a fencing that discards messages is over. -/
def fenceTables (s t : State) (a : Agent) : Prop :=
  match s.commitsAt a with
  | none => HeldLaw s → fitTested s t
  | some v =>
    (s.slot = none → committed s t v) ∧ (t.fits v.table = true → t.table = v.table ∧ t.slot = none) ∧
      (t.fits v.table = false → t.slot = some ⟨v.table, v.number⟩)

theorem fitTested_of_kept {s w t : State} (h : fitTested s w) (hk : tableKept w t) (hused : t.used = w.used)
    (hinUse : t.inUse = w.inUse) : fitTested s t := by
  obtain ⟨htable, hslot, hepoch, hprescale, hperiod, hpostscale⟩ := hk
  exact fitTested_congr h rfl rfl rfl rfl rfl rfl htable hslot hepoch hprescale hperiod hpostscale hused hinUse

theorem fenceTables_of {s w t : State} {a : Agent} (hfit : HeldLaw s → fitTested s w) (hvoting : w.voting = s.voting)
    (htables : leaveTables w t a) (hused : t.used = w.used) (hinUse : t.inUse = w.inUse) : fenceTables s t a := by
  unfold fenceTables
  cases hc : s.commitsAt a with
  | none =>
    have hcw : w.commitsAt a = none := (commitsAt_congr hvoting a).trans hc
    exact fun hl => fitTested_of_kept (hfit hl) ((leaveTables_none hcw).mp htables) hused hinUse
  | some v =>
    have hcw : w.commitsAt a = some v := (commitsAt_congr hvoting a).trans hc
    have hcommitted := (leaveTables_some hcw).mp htables
    refine ⟨fun hslot => committed_of_kept ((fitTested_none hslot).mp (hfit (heldLaw_of_none hslot))) hcommitted,
      fun hfits => ?_, fun hfits => ?_⟩
    · unfold committed at hcommitted
      rw [if_pos hfits] at hcommitted
      obtain ⟨htable, hslot, -⟩ := hcommitted
      exact ⟨htable, hslot⟩
    · unfold committed at hcommitted
      rw [if_neg (by rw [hfits]; decide)] at hcommitted
      exact hcommitted.1

end Sys2Proof.Machine

/-! The fencing of an agent (O47): the statement. -/

namespace Sys2Proof.Machine

theorem leaseOut_iff {s : State} {a : Agent} : s.leaseOut a = true ↔ s.joined a ∧ (s.members[a]).leaseLeft = 0 := by
  unfold State.leaseOut
  rw [Bool.and_eq_true, isMember_iff, beq_iff_eq]

theorem takeFencing_due {s : State} {a : Agent} (hj : s.joined a) (hlease : (s.members[a]).leaseLeft = 0) :
    s.takeFencing a = s.fence a := by
  unfold State.takeFencing
  rw [if_pos (leaseOut_iff.mpr ⟨hj, hlease⟩)]

theorem takeFencing_still {s : State} {a : Agent} (h : ¬s.joined a ∨ (s.members[a]).leaseLeft ≠ 0) :
    s.takeFencing a = s := by
  unfold State.takeFencing
  rw [if_neg fun hout => ?_]
  obtain ⟨hj, hlease⟩ := leaseOut_iff.mp hout
  exact h.elim (fun hno => hno hj) fun hno => hno hlease

theorem holdsNothing_places {s : State} {a : Agent} (h : s.holdsNothing a = true) (k : MsgClass) :
    (s.queues[a]).get k = [] ∧ (s.hands[a]).get k = none := by
  have hk := (holdsNothing_iff s a).mp h k
  unfold State.line at hk
  obtain ⟨hhand, hqueue⟩ := List.append_eq_nil_iff.mp hk
  exact ⟨hqueue, Option.toList_eq_nil_iff.mp hhand⟩

theorem mem_stagedBy_iff {s : State} (hplace : PlaceLaw s) {a : Agent} {d : DescId} :
    d ∈ s.stagedBy a ↔ ∃ m, s.descs[d] = .staging m ∧ m.source = a := by
  obtain ⟨-, -, -, hstagings⟩ := hplace
  unfold State.stagedBy
  rw [Option.mem_toList, hstagings a d]
  unfold State.stagedOn
  cases hd : s.descs[d] <;> simp

/-- R41: the DISCARDED that agent `b` is offered for descriptor `d` at the fencing of agent `a`. -/
def State.discardedTo (s : State) (a b : Agent) (d : DescId) : Option Notice :=
  match s.admitted d with
  | none => none
  | some (m, adm) => if m.source = b then some (.discarded a m.cls adm.tag) else none

theorem discardedTo_eq {s : State} (hplace : PlaceLaw s) (a b : Agent) :
    (s.heldFor a).filterMap (s.discardedTo a b) = (s.heldFor a).flatMap (s.offeredFor .discarded b) := by
  have hone (d : DescId) (hd : d ∈ s.heldFor a) : (s.discardedTo a b d).toList = s.offeredFor .discarded b d := by
    obtain ⟨m, adm, hadm, rfl⟩ := (mem_heldFor_iff hplace).mp hd
    rw [offeredFor_admitted .discarded b hadm]
    unfold State.discardedTo
    rw [hadm]
    rcases eq_or_ne b m.source with hb | hb <;> simp [removalTo, removalNotice, hb, Ne.symm]
  rw [List.filterMap_eq_flatMap_toList]
  exact List.flatMap_congr hone

/-- Settles O47. -/
theorem fencingReclaimsWhatAnAgentHolds : Obligations.FencingReclaimsWhatAnAgentHolds := by
  intro s a hplace
  refine ⟨fun hno => congrArg Host.Outcome.next (takeFencing_still hno), fun hj hlease => ?_⟩
  have hexec : exec (.fencing a) s = .next (s.fence a) := congrArg Host.Outcome.next (takeFencing_due hj hlease)
  rw [fence_eq] at hexec
  have hw := reclaim_reclaimed hplace a
  generalize s.reclaim a = w at *
  have ht := clearOwn_fencingTold (w := w) (a := a) (by rw [State.portIs, hw.member])
  generalize ((w.clearOwn a).leaveRound a).offerPeers a (.peerFenced a) = t at *
  have hmembers : t.members = w.members := by rw [ht.frame]
  have hqueues : t.queues = w.queues := by rw [ht.frame]
  have hhands : t.hands = w.hands := by rw [ht.frame]
  have hstagings : t.stagings = w.stagings := by rw [ht.frame]
  have hframes : t.frames = w.frames := by rw [ht.frame]
  have hscrub : t.scrubQueue = w.scrubQueue := by rw [ht.frame]
  have hused : t.used = w.used := by rw [ht.frame]
  have hinUse : t.inUse = w.inUse := by rw [ht.frame]
  have hvoting : w.voting = s.voting := by rw [hw.frame]
  have hwsnapshots : w.snapshots = s.snapshots := by rw [hw.frame]
  have hdescs (d : DescId) : t.descs[d] = if d ∈ s.stagedBy a ∨ d ∈ s.heldFor a then .free else s.descs[d] := by
    rw [ht.frame]
    exact hw.descs d
  refine ⟨t, hexec, ?_, fun b hb => ?_, fun k => ?_, fun b hb => ⟨?_, ?_, ?_, ?_, ?_⟩, ?_, ht.notices, ht.latches, ?_,
    ht.watches, fun d m adm hadm hdest => ?_, fun d m hdesc hsource => ?_, fun d m adm hadm hdest => ?_,
    fun d m hdesc hsource => ?_, leftRound_congr ht.round hvoting.symm rfl, ⟨?_, fun hslot b hb => ?_⟩, ?_, fun c hc => ?_,
    fun hnone hphase => ?_, fun hnone hphase => ?_, ?_⟩
  · rw [hmembers, hw.member]
    exact congrArg (fun n => ({ s.members[a] with
      state := .fenced, leaseLeft := 0, discards := min 65535 ((s.members[a]).discards + n) } : Member))
      (heldFor_length hplace a)
  · rw [hmembers, hw.members b hb]
  · rw [hqueues, hhands]
    exact holdsNothing_places hw.empty k
  · rw [hqueues, (hw.queues b hb).1]
  · rw [hhands, (hw.queues b hb).2]
  · rw [hstagings, hw.stagings, vec_get_set_ne _ _ _ _ (Ne.symm hb)]
  · rw [ht.snapshots, vec_get_set_ne _ _ _ _ (Ne.symm hb), hwsnapshots]
  · rw [hframes, hw.frames b hb]
  · rw [hstagings, hw.stagings, vec_get_set_same]
  · rw [ht.snapshots, vec_get_set_same]
  · rw [hdescs, if_pos (.inr ((mem_heldFor_iff hplace).mpr ⟨m, adm, hadm, hdest⟩))]
  · rw [hdescs, if_pos (.inl ((mem_stagedBy_iff hplace).mpr ⟨m, hdesc, hsource⟩))]
  · rw [hdescs, if_neg]
    rintro (hin | hin)
    · obtain ⟨m', hdesc, -⟩ := (mem_stagedBy_iff hplace).mp hin
      rcases admitted_descs hadm with h | h <;> simp [-Fin.getElem_fin, h] at hdesc
    · obtain ⟨m', adm', hadm', hdest'⟩ := (mem_heldFor_iff hplace).mp hin
      rw [hadm] at hadm'
      cases hadm'
      exact hdest hdest'
  · rw [hdescs, if_neg]
    rintro (hin | hin)
    · obtain ⟨m', hdesc', hsource'⟩ := (mem_stagedBy_iff hplace).mp hin
      rw [hdesc] at hdesc'
      cases hdesc'
      exact hsource hsource'
    · exact hplace.heldFor hin m hdesc
  · rw [hscrub, hw.drops.scrubQueue, List.flatMap_append, ← cellsOf_eq, ← cellsOf_eq, List.append_assoc]
    rfl
  · obtain ⟨htold, hwatches⟩ := hw.told hslot b hb
    rw [← discardedTo_eq hplace] at htold
    exact ht.told s b _ hb htold hwatches (hw.members b hb) hvoting
  · exact fenceTables_of hw.drops.fit hvoting ht.tables hused hinUse
  · rw [hframes]
    exact hw.port c hc
  · rw [hframes]
    exact (hw.still hnone).answering hphase
  · rw [hframes]
    refine (hw.still hnone).still fun h => ?_
    rcases h with h | h <;> rcases hphase with h' | h' <;> rw [h] at h' <;> cases h'
  · rw [ht.frame, hw.frame]

end Sys2Proof.Machine
